-- ==== Sys2Proof/Word.lean ====
section
/-!
DEFINITION. The words, bytes and sparse maps of the model.

A `NMap α` is a list of (key, value) pairs. Its canonical form (keys strictly rising, no entry equal to the
default that an unlisted key reads as) is kept by the operations of Machine/Store.lean.
-/
namespace Sys2Proof

/-- A byte of any memory of the package. -/
abbrev Byte := BitVec 8
/-- A 32-bit register, the width of R8. -/
abbrev W32 := BitVec 32
/-- A 64-bit register pair (R11) or address register (R75). -/
abbrev W64 := BitVec 64
/-- A sparse map from numbers to values, as a list of pairs. -/
abbrev NMap (α : Type) := List (Nat × α)
/-- A byte memory: a list of `Host.Cell` pairs (address, byte). -/
abbrev Mem := NMap Byte

end Sys2Proof
end

