-- ==== Sys2Proof/Syntax.lean ====
section
/-!
DEFINITION. The commands of the block, one constructor of `Instr` per row of the opcode table, and the operand
types they name: bundle slots (R72 to R131), accessors (R11), tally references (R254), and the physical conditions
that a command brings with it.
-/
namespace Sys2Proof

/-- Who makes a register access (R11): a function on a host port (PF is function 0), or the Owl. -/
inductive Acc where
  | host (port : Nat) (fn : Nat)
  | owl
deriving DecidableEq, Repr

/-- The predicate field of a slot (R73): negate bit and predicate register. -/
structure Pred where
  neg : Bool
  idx : BitVec 3
deriving DecidableEq, Repr

/-- The operations of the control slot, by operand format (R84, R85). -/
inductive Ctl where
  | nop
  | alu (sd sa sb : BitVec 5) (func : BitVec 7)
  | immS (op : BitVec 3) (sd sa : BitVec 5) (imm : BitVec 12)  -- 0 addi 1 andi 2 ori 3 xori 4 shli 5 shri 6 srai
  | movi (sd : BitVec 5) (imm : BitVec 17)
  | movh (sd : BitVec 5) (imm : BitVec 16)
  | pset (pd : BitVec 3) (sa sb : BitVec 5) (cond : BitVec 4)
  | plog (pd pa pb : BitVec 3) (pfn : BitVec 2)
  | aadd (ad aa : BitVec 4) (sb : BitVec 5) (shift : BitVec 3)
  | aaddi (ad aa : BitVec 4) (imm : BitVec 14)
  | aset (ad : BitVec 4) (sa : BitVec 5) (half : Bool)
  | amv (sd : BitVec 5) (aa : BitVec 4) (half : Bool)
  | bra (off : BitVec 17)
  | jal (off : BitVec 17)
  | jr (sa : BitVec 5)
  | loops (sc : BitVec 5) (len : BitVec 10)
  | loopi (count : BitVec 12) (len : BitVec 10)
  | rdsys (sd : BitVec 5) (sel : BitVec 4)
  | halt
  | trap (code : BitVec 16)
deriving DecidableEq, Repr

/-- The fields of the vector slot but OP and the predicate (R89). `passes` and `k` hold the encoded value, one less
than the number they stand for. -/
structure VecF where
  vd : BitVec 4 := 0
  va : BitVec 4 := 0
  vb : BitVec 4 := 0
  vc : BitVec 4 := 0
  fmt : BitVec 4 := 0
  fmt2 : BitVec 4 := 0
  sat : Bool := false
  sbEn : Bool := false
  pd : BitVec 3 := 0
  sb : BitVec 5 := 0
  lane : BitVec 6 := 0
  q : BitVec 2 := 0
  passes : BitVec 2 := 0
  k : BitVec 3 := 0
deriving DecidableEq, Repr

/-- The fields of the matrix slot but OP and the predicate (R109). -/
structure MatF where
  tm : BitVec 4 := 0
  wf : BitVec 4 := 0
  af : BitVec 4 := 0
  bank : BitVec 3 := 0
  mode : BitVec 2 := 0
  swap : Bool := false
  tr : Bool := false
  init : Bool := false
  wrb : BitVec 4 := 0
  arb : BitVec 4 := 0
  row : BitVec 4 := 0
  part : BitVec 2 := 0
  dr : Bool := false
  drow : BitVec 4 := 0
  dbank : BitVec 3 := 0
  dest : Bool := false
  drb : BitVec 4 := 0
  fo : BitVec 4 := 0
  sat : Bool := false
  vd : BitVec 4 := 0
deriving DecidableEq, Repr

/-- The fields of the stream slot but OP and the predicate (R117). -/
structure StmF where
  ad : BitVec 4 := 0
  aa : BitVec 4 := 0
  sb : BitVec 5 := 0
  sc : BitVec 5 := 0
  rv : BitVec 4 := 0
  imm : BitVec 32 := 0
deriving DecidableEq, Repr

/-- The operations of the sync slot (R127). Counts hold the encoded value, one less than the number. -/
inductive Syn where
  | nop
  | tsig (tid : BitVec 20) (n1 : BitVec 4)
  | twait (tid : BitVec 20) (k1 : BitVec 4)
  | ttest (tid : BitVec 20) (pd : BitVec 3)
  | tsigR (sa sb : BitVec 5)
  | twaitR (sa sb : BitVec 5)
  | ttestR (sa sb : BitVec 5) (pd : BitVec 3)
  | coll (aa : BitVec 4) (tid : BitVec 20)
deriving DecidableEq, Repr

/-- One slot of a bundle: its predicate, its operation (`none` where the encoding is invalid), and bits [31:0] of
its word, which NIB_FAULT_INFO shows (R101). -/
structure Slot (α : Type) where
  pred : Pred
  op : Option α
  raw : BitVec 32
deriving DecidableEq, Repr

/-- A bundle, by slots (R72). -/
structure Bundle where
  ctl : Slot Ctl
  mat : Slot (Nat × MatF)
  vec : Slot (Nat × VecF)
  stm : Slot (Nat × StmF)
  syn : Slot Syn
deriving DecidableEq, Repr

/-- What the ECC of the bundle store finds in a fetched bundle (R74, R101). -/
inductive Ecc where
  | clean
  | corrected
  | bad (syndrome : BitVec 32)
deriving DecidableEq, Repr

/-- What the banks and the ECC of the well of nib `nib` bring beside a command: accesses that lost their bank (R134), words
that a bank read finds uncorrectable, single-bit errors corrected (R157). -/
structure WellEv where
  nib : Nat
  lost : Nat := 0
  bad : List Nat := []
  corr : Nat := 0
deriving DecidableEq, Repr

/-- The physical conditions of one cycle of a nib: ECC of the fetched bundle, bank accesses lost (R134), ports that
lost a bank and hold no bytes, tines whose checksum comparison finds a corrupted result (R42), well words that a
bank read finds uncorrectable, single-bit well errors corrected, words of the die's landing area that a read of the nib
finds uncorrectable (R157), and what the wells of other nibs bring. -/
structure Cyc where
  ecc : Ecc := .clean
  lost : Nat := 0
  wpLost : Bool := false
  apLost : Bool := false
  corrupt : BitVec 4 := 0
  wellBad : List Nat := []
  wellCorr : Nat := 0
  landBad : List Nat := []
  wells : List WellEv := []
deriving DecidableEq, Repr

/-- A physical tally of this package: tally `i` of nib `n`, or hub tally `h` (R247). -/
inductive TalRef where
  | nib (n i : Nat)
  | hub (h : Nat)
deriving DecidableEq, Repr

/-- A signal that arrives from another package: the context tag it carries, its count, and the tally it names: the nib index
of a nib tally, none for a hub tally, and the tally's number (R254, R264). -/
structure ExtSignal where
  tag : Nat
  count : Nat
  nib : Option Nat
  tally : Nat
deriving DecidableEq, Repr

/-- The source unit of a held signal (R261): a nib's transfer engine, a context's host transfer engine (R362), the ribbon
controller, the collective engine. -/
inductive SigSrc where
  | nib (n : Nat)
  | host (c : Nat)
  | ribbon
  | coll
deriving DecidableEq, Repr


/-- What the lead says of a switch together with a mark (R208, R211): nothing, a switch of a policy from a lap on, or
that the switch is done. -/
inductive SwInfo where
  | idle
  | going (policy lap : Nat)
  | done
deriving DecidableEq, Repr

/-- The fields of a lap or stop mark that arrives (R190), and what the member has been told of a switch (log 62). -/
structure MarkIn where
  version : Nat
  ribbon : Nat
  lap : Nat
  epoch : Nat
  set : Nat
  origin : Nat
  hops : Nat
  liveOld : Nat
  minClosed : Nat
  ftc : Nat
  sw : SwInfo
deriving DecidableEq, Repr

/-- A flit as it arrives (R273): TYPE, SEQ, ACK, VC, JOBTAG, DEST, WORDS, POISON, ORDER, OVC, the payload, the CRC-32C; and
what a control flit carries, for which the manual gives no layout: the credits that it returns (VC, number, R274), the
failed port whose last SEQ it asks for and what it answers to such a question (port and SEQ, R290), a timestamp, in 0.1 ns,
with the two that it answers (R296). -/
structure FlitIn where
  ty : Nat
  seq : Nat
  ack : Nat
  vc : Nat
  tag : Nat
  dest : Nat
  words : Nat
  poison : Nat
  order : Nat
  ovc : Nat
  payload : List (BitVec 8)
  crc : Nat
  credits : List (Nat × Nat)
  ask : Option Nat
  last : Option (Nat × Nat)
  stamp : Option (Nat × Option (Nat × Nat))
deriving DecidableEq, Repr

/-- An identity flit (R284): plane address, port, PROFILE, IDENT, plan digest, version bitmap, arithmetic revision. -/
structure IdentIn where
  addr : Nat
  port : Nat
  profile : Nat
  ident : BitVec 64
  plan : BitVec 128
  versions : Nat
  arith : Nat
deriving DecidableEq, Repr

/-- What one other member package brings to the agreement on a batch (R304, R310): the digest of its group fields, its
grains, its agreement words by stripe. -/
structure AgreeIn where
  digest : BitVec 64
  grains : Nat
  words : List Nat
deriving DecidableEq, Repr

/-- A start record that arrives (R338): package index, PACKAGES, first 128 bits of the image digest, EXACT, arithmetic
revision, T. -/
structure StartIn where
  idx : Nat
  packages : Nat
  image : BitVec 128
  exact : Bool
  rev : Nat
  t : Nat
deriving DecidableEq, Repr

/-- A stack as power-up finds it (R220, R221, R400): whether its training completed, whether density, height and
organisation are those of R220, its device identification. -/
structure StackIn where
  trained : Bool
  fits : Bool
  ident : BitVec 64
deriving DecidableEq, Repr

/-- What a scrub of the hub's SRAM structures finds (R420): errors of a hub unit corrected; an uncorrectable error in a hub
tally, in an entry of a context's tally map or span table, in a directory entry, or in a structure that contexts share. -/
inductive ScrubHit where
  | corrected (unit k : Nat)
  | hubTally (h : Nat)
  | tallyMap (c i : Nat)
  | spanTable (c i : Nat)
  | dirEntry (x : Nat)
  | shared (unit : Nat)
deriving DecidableEq, Repr

/-- A command of the block: one constructor per row of the opcode table. -/
inductive Instr where
  /-- REGISTER_WRITE (R9): A host write to a register that has no row of its own acts according to the field's access code (RW, WO, W1C, RWL), with set-wins-over-clear for W1C bits. -/
  | registerWrite (a : Acc) (off : Nat) (v set : BitVec 32) (cond : Bool)
  /-- PAIR_LOW_READ (R11): A read of the lower register of a 64-bit pair returns bits [31:0] and latches bits [63:32] for that accessor. -/
  | pairLowRead (a : Acc) (off : Nat)
  /-- PAIR_HIGH_READ (R11): A read of the higher register of a pair returns and consumes the accessor's latch, or returns the live upper half if the accessor holds no latch. -/
  | pairHighRead (a : Acc) (off : Nat)
  /-- PAIR_LOW_WRITE (R11): A write to the lower register of a pair is held for that accessor, replacing any value already held. -/
  | pairLowWrite (a : Acc) (off : Nat) (v : BitVec 32)
  /-- PAIR_HIGH_WRITE (R11): A write to the higher register commits both halves in one cycle, or sets only bits [63:32] if the accessor holds no write. -/
  | pairHighWrite (a : Acc) (off : Nat) (v : BitVec 32)
  /-- UNMAPPED_ACCESS (R434): An access to an unimplemented offset, to a reserved range, or one that R351 refuses to a VF reads zero or is discarded, and it sets UNMAPPED and records the access. -/
  | unmappedAccess (a : Acc) (off : Nat) (write : Bool)
  /-- BUNDLE_ISSUE (R76): The sequencer issues the next bundle in order, executing each slot whose predicate holds. -/
  | bundleIssue (n : Nat) (c : Cyc)
  /-- FREEZE_RELEASE_ISSUE (R35): A bundle held by a freeze issues in the first cycle in which no freeze condition of R34 holds. -/
  | freezeReleaseIssue (n k : Nat) (c : Cyc)
  /-- ALU (R86): Computes sd from sa and sb using the function selected by FUNC. -/
  | alu (n : Nat) (p : Pred) (sd sa sb : BitVec 5) (func : BitVec 7)
  /-- ADDI_S (R85): Sets sd to sa plus the sign-extended imm12. -/
  | addiS (n : Nat) (p : Pred) (sd sa : BitVec 5) (imm : BitVec 12)
  /-- ANDI_S (R85): Sets sd to sa AND the sign-extended imm12. -/
  | andiS (n : Nat) (p : Pred) (sd sa : BitVec 5) (imm : BitVec 12)
  /-- ORI_S (R85): Sets sd to sa OR the sign-extended imm12. -/
  | oriS (n : Nat) (p : Pred) (sd sa : BitVec 5) (imm : BitVec 12)
  /-- XORI_S (R85): Sets sd to sa XOR the sign-extended imm12. -/
  | xoriS (n : Nat) (p : Pred) (sd sa : BitVec 5) (imm : BitVec 12)
  /-- SHLI_S (R85): Sets sd to sa shifted left by imm12[4:0]. -/
  | shliS (n : Nat) (p : Pred) (sd sa : BitVec 5) (imm : BitVec 12)
  /-- SHRI_S (R85): Sets sd to sa shifted right logically by imm12[4:0]. -/
  | shriS (n : Nat) (p : Pred) (sd sa : BitVec 5) (imm : BitVec 12)
  /-- SRAI_S (R85): Sets sd to sa shifted right arithmetically by imm12[4:0]. -/
  | sraiS (n : Nat) (p : Pred) (sd sa : BitVec 5) (imm : BitVec 12)
  /-- MOVI_S (R85): Sets sd to the sign-extended imm17. -/
  | moviS (n : Nat) (p : Pred) (sd : BitVec 5) (imm : BitVec 17)
  /-- MOVH_S (R85): Writes imm16 into sd[31:16] and keeps sd[15:0]. -/
  | movhS (n : Nat) (p : Pred) (sd : BitVec 5) (imm : BitVec 16)
  /-- PSET (R85): Sets every bit of pd to the result of comparing sa with sb under COND. -/
  | pset (n : Nat) (p : Pred) (pd : BitVec 3) (sa sb : BitVec 5) (cond : BitVec 4)
  /-- PLOG (R85): Sets pd to a bitwise logic function of pa and pb. -/
  | plog (n : Nat) (p : Pred) (pd pa pb : BitVec 3) (pfn : BitVec 2)
  /-- AADD_A (R85): Sets ad to aa plus the shifted, sign-extended sb. -/
  | aaddA (n : Nat) (p : Pred) (ad aa : BitVec 4) (sb : BitVec 5) (shift : BitVec 3)
  /-- AADDI_A (R85): Sets ad to aa plus imm14. -/
  | aaddiA (n : Nat) (p : Pred) (ad aa : BitVec 4) (imm : BitVec 14)
  /-- ASET_A (R85): Writes sa into one half of ad and keeps the other half. -/
  | asetA (n : Nat) (p : Pred) (ad : BitVec 4) (sa : BitVec 5) (half : Bool)
  /-- AMV_S (R85): Copies one half of aa into sd. -/
  | amvS (n : Nat) (p : Pred) (sd : BitVec 5) (aa : BitVec 4) (half : Bool)
  /-- BRA (R80): A taken branch to A + offset, followed by exactly three delay bundles. -/
  | bra (n : Nat) (p : Pred) (off : BitVec 17)
  /-- JAL (R82): A taken branch that also writes A + 4 into s31. -/
  | jal (n : Nat) (p : Pred) (off : BitVec 17)
  /-- JR (R85): A taken branch to the address in sa[12:0]. -/
  | jr (n : Nat) (p : Pred) (sa : BitVec 5)
  /-- LOOP_S (R83): Sets up a hardware loop whose count is taken from a register. -/
  | loopS (n : Nat) (p : Pred) (sc : BitVec 5) (len : BitVec 10)
  /-- LOOPI (R83): Sets up a hardware loop whose count is an immediate. -/
  | loopi (n : Nat) (p : Pred) (count : BitVec 12) (len : BitVec 10)
  /-- RDSYS (R87): Reads a system value selected by SEL into sd, latching the upper NIB_CYCLE half on SEL 0. -/
  | rdsys (n : Nat) (p : Pred) (sd : BitVec 5) (sel : BitVec 4)
  /-- HALT (R88): Ends the nib's program; issue stops, work in flight completes, and completion is reported to the context. -/
  | halt (n : Nat) (p : Pred)
  /-- TRAP (R85): Raises fault 0x06 with a 16-bit code. -/
  | trap (n : Nat) (p : Pred) (code : BitVec 16)
  /-- CONTEXT_HALT_ARRIVAL (R102): A context halt reaches another nib of the context, which stops at its next bundle boundary and takes STATE 5. -/
  | contextHaltArrival (n : Nat) (remote : Bool)
  /-- VADD (R90): Lane-wise vector add. -/
  | vadd (n : Nat) (p : Pred) (f : VecF)
  /-- VSUB (R90): Lane-wise vector subtract. -/
  | vsub (n : Nat) (p : Pred) (f : VecF)
  /-- VMUL (R90): Lane-wise vector multiply. -/
  | vmul (n : Nat) (p : Pred) (f : VecF)
  /-- VFMA (R90): Lane-wise fused multiply-add, rounded once. -/
  | vfma (n : Nat) (p : Pred) (f : VecF)
  /-- VMIN (R91): Lane-wise minimum. -/
  | vmin (n : Nat) (p : Pred) (f : VecF)
  /-- VMAX (R91): Lane-wise maximum. -/
  | vmax (n : Nat) (p : Pred) (f : VecF)
  /-- VCMP (R90): Lane-wise compare that writes the bits of predicate PD. -/
  | vcmp (n : Nat) (p : Pred) (f : VecF)
  /-- VSEL (R90): Lane-wise select between VA and VB under PD. -/
  | vsel (n : Nat) (p : Pred) (f : VecF)
  /-- VIADD (R90): Lane-wise INT32 add that sets INT_WRAP on a wrap. -/
  | viadd (n : Nat) (p : Pred) (f : VecF)
  /-- VISUB (R90): Lane-wise INT32 subtract that sets INT_WRAP on a wrap. -/
  | visub (n : Nat) (p : Pred) (f : VecF)
  /-- VIAND (R90): Lane-wise INT32 AND. -/
  | viand (n : Nat) (p : Pred) (f : VecF)
  /-- VIOR (R90): Lane-wise INT32 OR. -/
  | vior (n : Nat) (p : Pred) (f : VecF)
  /-- VIXOR (R90): Lane-wise INT32 XOR. -/
  | vixor (n : Nat) (p : Pred) (f : VecF)
  /-- VISHL (R90): Lane-wise INT32 shift left. -/
  | vishl (n : Nat) (p : Pred) (f : VecF)
  /-- VISHR (R90): Lane-wise INT32 logical shift right. -/
  | vishr (n : Nat) (p : Pred) (f : VecF)
  /-- VISRA (R90): Lane-wise INT32 arithmetic shift right. -/
  | visra (n : Nat) (p : Pred) (f : VecF)
  /-- VEXP2 (R451): Lane-wise exp2, correctly rounded. -/
  | vexp2 (n : Nat) (p : Pred) (f : VecF)
  /-- VLOG2 (R451): Lane-wise log2, correctly rounded. -/
  | vlog2 (n : Nat) (p : Pred) (f : VecF)
  /-- VEXP (R451): Lane-wise exp, correctly rounded. -/
  | vexp (n : Nat) (p : Pred) (f : VecF)
  /-- VLOG (R451): Lane-wise log, correctly rounded. -/
  | vlog (n : Nat) (p : Pred) (f : VecF)
  /-- VRCP (R451): Lane-wise reciprocal, correctly rounded. -/
  | vrcp (n : Nat) (p : Pred) (f : VecF)
  /-- VRSQRT (R451): Lane-wise reciprocal square root, correctly rounded. -/
  | vrsqrt (n : Nat) (p : Pred) (f : VecF)
  /-- VSMX (R91): Softmax assist: returns the maximum of VA and the tree sum of exp(x - max). -/
  | vsmx (n : Nat) (p : Pred) (f : VecF)
  /-- VRSUM (R91): Tree sum of the 64 lanes into lane 0. -/
  | vrsum (n : Nat) (p : Pred) (f : VecF)
  /-- VRMAX (R91): Exact maximum of the lanes into lane 0. -/
  | vrmax (n : Nat) (p : Pred) (f : VecF)
  /-- VTOPK (R93): Selects the K highest scores over 1 to 4 passes, with their candidate indices. -/
  | vtopk (n : Nat) (p : Pred) (f : VecF)
  /-- VCVT (R94): Converts the 64 elements of VA from FMT to FMT2, including MX scales carried through SB. -/
  | vcvt (n : Nat) (p : Pred) (f : VecF)
  /-- VBCAST (R90): Broadcasts scalar SB to every lane of VD. -/
  | vbcast (n : Nat) (p : Pred) (f : VecF)
  /-- VGET (R90): Copies lane LANE of VA into scalar SB. -/
  | vget (n : Nat) (p : Pred) (f : VecF)
  /-- VMOV (R90): Copies VA into VD. -/
  | vmov (n : Nat) (p : Pred) (f : VecF)
  /-- VDGA (R344): Absorbs one quarter of VA into the nib's current seal tile digest. -/
  | vdga (n : Nat) (p : Pred) (f : VecF)
  /-- MLD (R111): Loads part PART of a weight stationary tile from the weight port into the shadow registers of the selected tines. -/
  | mld (n : Nat) (p : Pred) (f : MatF) (c : Cyc)
  /-- MLDA (R112): Loads column ROW of each selected tine's shadow from its activation port. -/
  | mlda (n : Nat) (p : Pred) (f : MatF) (c : Cyc)
  /-- MMUL (R114): One matrix step in the selected mode, with optional swap, initialise, transpose and drain. -/
  | mmul (n : Nat) (p : Pred) (f : MatF) (c : Cyc)
  /-- MDRAIN (R115): Drains an accumulator row of each selected tine into its drain queue, for stream-out or for mpop. -/
  | mdrain (n : Nat) (p : Pred) (f : MatF)
  /-- MPOP (R116): Moves the drain queue heads of the selected tines into VD, or writes zeros and sets POP_EMPTY. -/
  | mpop (n : Nat) (p : Pred) (f : MatF)
  /-- STREAM_OUT_WRITE (R115): Stream-out converts a drained row and writes it into ring DRB, waiting if the ring lacks room. -/
  | streamOutWrite (n : Nat) (w : List WellEv)
  /-- XFER (R119): The nib transfer engine copies bytes between address spaces using free tags, with an optional completion signal. -/
  | xfer (n : Nat) (p : Pred) (f : StmF) (c : Cyc)
  /-- TAG_LAND (R154): A transfer tag whose bytes have all arrived writes its destination, becoming visible in tag order in a ring. -/
  | tagLand (n x k : Nat) (bad : List Nat) (w : List WellEv)
  /-- SLD (R118): Loads 256 B from a well into a vector register. -/
  | sld (n : Nat) (p : Pred) (f : StmF) (c : Cyc)
  /-- SST (R118): Stores 256 B from a vector register to a well or appends it to a ring. -/
  | sst (n : Nat) (p : Pred) (f : StmF) (c : Cyc)
  /-- RBSET (R107): Configures a ring buffer's base, size and OFFPKG flag, leaving it empty. -/
  | rbset (n : Nat) (p : Pred) (f : StmF)
  /-- RBPOP (R118): Lowers a ring's fill by a count of bytes. -/
  | rbpop (n : Nat) (p : Pred) (f : StmF)
  /-- STG (R124): Starts a stage command: reads and checks its descriptor and takes ownership of units. -/
  | stg (n : Nat) (p : Pred) (f : StmF) (c : Cyc)
  /-- STAGE_STEP (R122): The active stage issues its next matrix step, together with its stationary loads and drains, in an unfrozen cycle. -/
  | stageStep (n : Nat) (c : Cyc)
  /-- STAGE_STREAM_IN (R124): Stage stream-in issues transfers from IN_SRC into the weight ring, up to 16 tags at a time. -/
  | stageStreamIn (n : Nat) (c : Cyc)
  /-- STAGE_END (R124): After the last stream-out write the stage ends, pops its activation window and sends DONE. -/
  | stageEnd (n : Nat)
  /-- STGS (R126): Stops the active stage after the group in progress. -/
  | stgs (n : Nat) (p : Pred) (f : StmF)
  /-- XCANCEL (R120): Cancels the uncompleted transfers of a group, discarding their landed bytes and signals. -/
  | xcancel (n : Nat) (p : Pred) (f : StmF)
  /-- TSIG (R129): Signals a tally by an immediate count, covering the bytes issued earlier on the channel. -/
  | tsig (n : Nat) (p : Pred) (tid : BitVec 20) (n1 : BitVec 4)
  /-- TWAIT (R128): Holds the bundle until the tally count is at least K, then subtracts K. -/
  | twait (n : Nat) (p : Pred) (tid : BitVec 20) (k1 : BitVec 4)
  /-- TWAIT_SATISFIED (R128): A bundle held by a sync-slot wait issues in the first cycle in which the wait is granted. -/
  | twaitSatisfied (n k : Nat) (c : Cyc)
  /-- TTEST (R130): Writes a predicate that tells whether the tally count is at least 1. -/
  | ttest (n : Nat) (p : Pred) (tid : BitVec 20) (pd : BitVec 3)
  /-- TSIG_R (R127): Signals a tally named by a register, with a count from a register. -/
  | tsigR (n : Nat) (p : Pred) (sa sb : BitVec 5)
  /-- TWAIT_R (R127): Waits on a tally named by a register, for a count from a register. -/
  | twaitR (n : Nat) (p : Pred) (sa sb : BitVec 5)
  /-- TTEST_R (R127): Writes a predicate that tells whether the tally count is at least a register's count. -/
  | ttestR (n : Nat) (p : Pred) (sa sb : BitVec 5) (pd : BitVec 3)
  /-- COLL (R131): Issues the collective described by a 64 B group descriptor. -/
  | coll (n : Nat) (p : Pred) (aa : BitVec 4) (tid : BitVec 20) (c : Cyc)
  /-- SIGNAL_RELEASE (R262): A held signal is released once every byte it covers has landed. -/
  | signalRelease (src : SigSrc) (k : Nat)
  /-- SIGNAL_ARRIVE (R250): Signals reach a tally and are added with saturation before waits are served, or are dropped under R264. -/
  | signalArrive (d : TalRef) (k : Nat) (ext : List ExtSignal)
  /-- REMOTE_WAIT_ARRIVE (R251): A wait or test from outside the tally's nib reaches the tally and joins its queue in order. -/
  | remoteWaitArrive (n : Nat)
  /-- HANG_WATCHDOG (R268): A running nib that has issued no bundle for the limit fires the watchdog, which captures state and halts the context. -/
  | hangWatchdog (c t : Nat)
  /-- TAL_WIN_READ (R271): Copies a tally map or span table entry into FTC_TAL_WIN_DATA0–3. -/
  | talWinRead (a : Acc) (v : BitVec 32)
  /-- TAL_WIN_WRITE (R256): Stores FTC_TAL_WIN_DATA0–3 into a tally map or span entry, or ignores the write and sets CFG. -/
  | talWinWrite (a : Acc) (v : BitVec 32)
  /-- FRZ_CLEAR (R50): Writing CLEAR sets all five freeze counters to zero. -/
  | frzClear (a : Acc) (n : Nat) (v : BitVec 32)
  /-- ROTATION_FORWARD (R141): The rotation engine moves piece bytes into ROT and on to the previous nib, waiting on room or data. -/
  | rotationForward (n k : Nat) (bad : List Nat) (w : List WellEv)
  /-- CHAIN_FORWARD (R141): The chain engine moves pieces and common parts from the cluster port into NXT and COM and to the next cluster. -/
  | chainForward (d c k : Nat) (bad ecc : List Nat) (w : List WellEv)
  /-- LANDING_FRAME_RELEASE (R135): A frame that K0 has read completely returns to FREE. -/
  | landingFrameRelease (d : Nat)
  /-- MESH_FLIT_SEND (R146): In a granted slot cycle, a flow sends one flit if its source holds one. -/
  | meshFlitSend (d f cycle : Nat)
  /-- CROSSING_DELIVER (R147): A flit that crosses into or out of a domain that is not cycle-locked is delivered after the crossing buffer latency. -/
  | crossingDeliver (d f : Nat)
  /-- EXPANDER_FACTOR_LOAD (R174): The expander reads a block header and U area into its factor buffer. -/
  | expanderFactorLoad (n : Nat) (w : List WellEv)
  /-- EXPANDER_TILE (R173): The expander produces one tile of a block after its c cycles and places it into the output buffer. -/
  | expanderTile (n : Nat) (mismatch : Bool) (w : List WellEv)
  /-- FORM (R183): The member sends FORM marks and takes part in the directory agreement. -/
  | form (a : Acc)
  /-- FORM_MARK_RECEIVE (R183): A FORM mark from a neighbour arrives, and the member accepts the ribbon once all conditions hold. -/
  | formMarkReceive (ccw : Bool) (ribbon pos port : Nat)
  /-- FORM_TIMEOUT (R450): A member that has not accepted within 10 s of FORM sets SHAPE and returns to IDLE. -/
  | formTimeout (t : Nat)
  /-- DIRCHK_RECEIVE (R194): A DIRCHK mark is compared with the member's own set digest; a mismatch sets DIR_MISMATCH. -/
  | dirchkReceive (ccw : Bool) (pos set : Nat) (dig : BitVec 128)
  /-- START (R191): The lead starts the ribbon by originating lap mark 0 after its checks. -/
  | start (a : Acc)
  /-- STOP (R201): The lead accepts STOP and replaces its next lap mark with a STOP mark. -/
  | stop (a : Acc)
  /-- ESTOP (R203): Raises an emergency stop at this member. -/
  | estop (a : Acc)
  /-- ESTOP_RECEIVE (R203): On first receipt of an emergency stop a member stops launching, drains, discards slabs, halts nibs and becomes ESTOPPED. -/
  | estopReceive
  /-- RESUME (R204): The lead restarts a void lap: members reset nibs, rewrite the lap record with REPLAY, and the lap mark is reissued. -/
  | resume (a : Acc) (ready : Bool)
  /-- SWITCH (R207): The lead accepts an epoch switch under a policy, which fixes the switch lap S. -/
  | switch (a : Acc) (policy : BitVec 2)
  /-- RELEASE (R219): Ends the ribbon from STOPPED, ESTOPPED or FAILED. -/
  | release (a : Acc)
  /-- LAP_MARK_ORIGINATE (R188): The lead originates the next lap mark once it has sent lap L and the switch rules allow. -/
  | lapMarkOriginate
  /-- LAP_MARK_RECEIVE (R191): A member receives a lap mark, updates its fields and forwards it; on the second direction lap L begins. -/
  | lapMarkReceive (ccw : Bool) (m : MarkIn)
  /-- LAP_MARK_RETURN (R191): A lap mark returns to the lead after N hops and is checked; the lead reads LIVE_OLD and MIN_CLOSED from it. -/
  | lapMarkReturn (ccw : Bool) (m : MarkIn)
  /-- STOP_MARK_RECEIVE (R201): A member receives the STOP mark and enters STOPPED once it has the mark from both directions and has closed the last lap. -/
  | stopMarkReceive (ccw : Bool) (m : MarkIn)
  /-- HEARTBEAT (R191): A hop that has had nothing to send for 10 µs carries a HEARTBEAT mark. -/
  | heartbeat (ccw incoming : Bool)
  /-- HOP_TIMEOUT (R191): An incoming hop silent for RIB_HOP_TIMEOUT is treated as failed. -/
  | hopTimeout (ccw : Bool) (t : Nat)
  /-- LAP_CLOSE (R200): On the close tally signal the controller updates its LIVE counts and records the last-closed lap. -/
  | lapClose
  /-- BLOCK_LAUNCH (R195): The home checks a block and launches it onto the ribbon in lap order, computing its CRC64. -/
  | blockLaunch (pos : Nat)
  /-- SLAB_FORWARD (R189): A member forwards an arrived 16 KiB unit to its next neighbour, holding a ribbon-port tag. -/
  | slabForward (ccw : Bool) (pos : Nat) (data : List (BitVec 8)) (bad : List Nat)
  /-- SLAB_LAND (R185): The landing feed writes an arriving or home slab into all four landing areas, allocating frames in lap order. -/
  | slabLand (pos : Nat)
  /-- MEMBER_FAILED (R214): A member lost through its hops, a fatal error or the Owl triggers MEMBER_LOST and an emergency stop. -/
  | memberFailed (m : Nat)
  /-- RIBBON_CLOSURE (R215): The ribbon closes around the failed member and becomes ESTOPPED, or enters FAILED if a block has lost every copy. -/
  | ribbonClosure (joined : Bool)
  /-- DIR_READ (R219): Copies directory entry INDEX into RIB_DIR_DATA0–7. -/
  | dirRead (a : Acc) (v : BitVec 32)
  /-- DIR_WRITE (R194): Stores RIB_DIR_DATA0–7 into a directory entry after its ENTRY_CHK is checked, or refuses the write. -/
  | dirWrite (a : Acc) (v : BitVec 32)
  /-- REGION_WRITE (R453): A write to a region register is applied, or ignored with MEM_ERR.CFG if it breaks the rules. -/
  | regionWrite (a : Acc) (r w : Nat) (v : BitVec 32)
  /-- ZERO (R226): Stores zero over a region and clears its poison. -/
  | zero (a : Acc) (r : Nat)
  /-- REBUILD (R230): Rebuilds a returned channel of a reconstructing weight region, stripe by stripe. -/
  | rebuild (a : Acc) (r : Nat)
  /-- REBUILD_STRIPE (R230): The rebuild completes one stripe; after the last one the region returns to normal. -/
  | rebuildStripe (r : Nat)
  /-- REFOLD (R231): Refolds a region's map without its failed channels and poisons every granule of it. -/
  | refold (a : Acc) (r : Nat)
  /-- HBM_READ (R226): A channel read returns a word, poisoned if listed, marked in the bitmap or uncorrectable, reconstructing from parity where needed. -/
  | hbmRead (dpa corr : Nat) (uncorr : Bool)
  /-- HBM_WRITE (R227): A channel write stores data, updates the poison records and keeps weight parity current. -/
  | hbmWrite (dpa : Nat) (data : List (BitVec 8)) (poison : Bool)
  /-- ADDER_WRITE (R237): A nib write to an adder region adds element-wise into the stored data. -/
  | adderWrite (dpa : Nat) (data : List (BitVec 8)) (poison : Bool)
  /-- REFRESH_SLOT (R234): A scheduled refresh slot takes a channel out of service for 136 cycles. -/
  | refreshSlot (ch t : Nat)
  /-- CALIBRATION_SLOT (R234): A scheduled calibration burst takes a channel out of service for up to 1,500 cycles. -/
  | calibrationSlot (ch t : Nat)
  /-- OFF_SCHEDULE_REFRESH (R236): The controller places an extra hot refresh, which sets OFF_SCHEDULE. -/
  | offScheduleRefresh (st : Nat)
  /-- STACK_TEMP_REPORT (R240): Each stack reports its temperature every 10 µs, and the controller applies the refresh class and bandwidth cap. -/
  | stackTempReport (st temp t : Nat)
  /-- CHANNEL_FAIL (R228): A channel fails, which makes weight regions reconstructing or lost and poisons ordinary regions. -/
  | channelFail (ch : Nat) (fabric : Bool)
  /-- CXL_LINK_DOWN (R244): The CXL link goes down; copies in flight complete with a far-tier error. -/
  | cxlLinkDown
  /-- BAR4_ACCESS (R352): A host access through BAR4 reads or writes a DPA of the context, or reads all ones and discards writes. -/
  | bar4Access (a : Acc) (off len : Nat) (wr : Option (List (BitVec 8) × Bool))
  /-- FLIT_SEND (R277): In each flit slot the port serves the first VC in priority order that has a flit and credit. -/
  | flitSend (p : Nat)
  /-- FLIT_RECEIVE (R275): The receiver accepts flits in SEQ order, or on a CRC failure discards and sends a negative acknowledgement. -/
  | flitReceive (p : Nat) (f : FlitIn) (errs : List Nat) (hit : Bool)
  /-- NAK_RECEIVE (R275): The sender resends every flit from the named SEQ out of its replay buffer. -/
  | nakReceive (p seq : Nat)
  /-- FEC_LOCK_LOSS (R276): Loss of FEC lock on a lane for more than 1 µs takes the port DOWN. -/
  | fecLockLoss (p lane ns : Nat)
  /-- PORT_DOWN (R276): A port leaves UP, hands over unacknowledged flits, and traffic is rerouted. -/
  | portDown (p : Nat) (lost : Bool) (apart : List (Nat × Nat))
  /-- TRAINING_TIMEOUT (R283): A training state that exceeds its time limit sends the port DOWN or QUARANTINED. -/
  | trainingTimeout (p t : Nat)
  /-- TRAINING_RETRY (R283): A DOWN port retries training every second. -/
  | trainingRetry (p t : Nat)
  /-- IDENTITY_FLIT_RECEIVE (R284): An identity flit is checked against the plan, and the port continues or becomes MISMATCHED. -/
  | identityFlitReceive (p : Nat) (id : IdentIn) (accepted : Bool)
  /-- RETRAIN (R300): Takes the port DOWN and restarts training from DETECT. -/
  | retrain (a : Acc) (p : Nat) (v : BitVec 32)
  /-- LINK_RECAL_BURST (R292): A lane whose margin falls below 10 % takes its port out for one recalibration burst. -/
  | linkRecalBurst (p lane margin t : Nat)
  /-- LANE_SPARE (R424): A failing lane is switched to the engine's spare at both ends and the port retrains, or the port goes DOWN. -/
  | laneSpare (p lane : Nat) (peerFree : Bool)
  /-- ROUTE_WIN_READ (R301): Copies a route table entry into LNK_ROUTE_DATA0–1. -/
  | routeWinRead (a : Acc) (v : BitVec 32)
  /-- ROUTE_WIN_WRITE (R289): Stores a route table entry, which takes effect for the next flit. -/
  | routeWinWrite (a : Acc) (v : BitVec 32)
  /-- FTC_EXCHANGE (R296): Parent and child exchange timestamps every 10 µs, and the child slews or steps its FTC. -/
  | ftcExchange (p : Nat)
  /-- FTC_PARENT_LOST (R297): The FTC parent port goes down; a new parent is taken, or the package enters HOLDOVER. -/
  | ftcParentLost
  /-- FTC_HOLDOVER_TICK (R297): In holdover FTC_BOUND rises by 1 ns every 20 ms, becoming OUT_OF_BOUND beyond 2 ns. -/
  | ftcHoldoverTick
  /-- FTC_REF_EDGE (R298): The root disciplines its FTC to a rising edge of the reference pulse. -/
  | ftcRefEdge
  /-- FTC_REF_TIMEOUT (R298): No reference edge within 1.1 s sets REF_LOST, and the root runs free. -/
  | ftcRefTimeout (t : Nat)
  /-- SEGMENT_ARRIVE (R322): A collective segment arrives and is CRC-checked, with a resend on a first mismatch and poison on a second. -/
  | segmentArrive (tag id src owner seq mark members : Nat) (lanes : List Nat) (poison : List Bool) (crc : Nat) (lost : Bool)
      (ecc : Nat)
  /-- SLAB_SLOT_GRANT (R316): A free slab slot is granted to the waiting segment by priority, MIN guarantee and age. -/
  | slabSlotGrant
  /-- COLL_AGREEMENT (R310): Phase 1 reduces agreement words and the grain total over the group and compares descriptor digests. -/
  | collAgreement (c id : Nat) (others : List AgreeIn) (order : List Nat)
  /-- ENDPOINT_FALLBACK (R317): A segment that waited FALLBACK_US for a slot proceeds in endpoint mode through the adder region. -/
  | endpointFallback (c id owner seq stage t : Nat)
  /-- COLL_COMPLETE (R321): Each contributing nib receives its status word and the coll's signal. -/
  | collComplete (c id : Nat)
  /-- EXACT_MODE_WRITE (R327): A write of FTC_CTXc_MODE.EXACT takes effect only while no program is loaded. -/
  | exactModeWrite (a : Acc) (c : Nat) (v : BitVec 32)
  /-- START_ARM (R338): Writing the upper half of FTC_CTXc_START arms the job start: checks, wake, and a start record sent to package 0. -/
  | startArm (a : Acc) (c : Nat) (v : BitVec 64)
  /-- START_RECORD_RECEIVE (R339): Package 0 compares an arriving start record and sends GO or REFUSE once it can decide. -/
  | startRecordReceive (c : Nat) (r : StartIn)
  /-- START_RECORD_TIMEOUT (R339): Records still missing at T - 20 µs make package 0 send REFUSE with result 6. -/
  | startRecordTimeout (c t : Nat)
  /-- GO_RECEIVE (R340): A member receives GO and fixes its job start cycle. -/
  | goReceive (c : Nat)
  /-- REFUSE_RECEIVE (R339): A member receives REFUSE and keeps its program loaded with nibs in STATE 1. -/
  | refuseReceive (c res member : Nat)
  /-- START_VERDICT_TIMEOUT (R339): A member with no verdict by T refuses with result 6. -/
  | startVerdictTimeout (c t : Nat)
  /-- JOB_START (R340): At the job start cycle each nib's first bundle issues at its stagger offset. -/
  | jobStart (c : Nat) (delay : List Nat)
  /-- LAYER_RECORD_WRITE (R345): When every nib has completed a layer in a pass, the hub writes the package layer record. -/
  | layerRecordWrite (c pass layer : Nat)
  /-- SQ_TAIL_DOORBELL (R356): A write of the SQ tail doorbell sets the index up to which commands are fetched. -/
  | sqTailDoorbell (a : Acc) (q : Nat) (v : BitVec 32)
  /-- CQ_HEAD_DOORBELL (R356): A write of the CQ head doorbell frees completion entries. -/
  | cqHeadDoorbell (a : Acc) (q : Nat) (v : BitVec 32)
  /-- COMMAND_FETCH (R359): The package fetches the next command of a pair and accepts it if its SEQ equals SEQ_NEXT, or completes it BAD_SEQ. -/
  | commandFetch (c q : Nat)
  /-- COMPLETION_WRITE (R367): A completion is numbered, written to the journal and then to the CQ. -/
  | completionWrite (c q : Nat)
  /-- QUEUE_ENABLE (R355): Setting ENABLE enables a queue pair after its checks. -/
  | queueEnable (a : Acc) (c q : Nat) (v : BitVec 32)
  /-- QUEUE_DISABLE (R370): Clearing ENABLE stops accepting work and completes fetched commands DISABLED. -/
  | queueDisable (a : Acc) (c q : Nat) (v : BitVec 32)
  /-- QUEUE_PAUSE (R368): Setting PAUSE stops fetching and sends completions to the journal only. -/
  | queuePause (a : Acc) (c q : Nat) (v : BitVec 32)
  /-- QUEUE_RESUME (R368): Clearing PAUSE replays journal entries from REPLAY into the CQ, then resumes. -/
  | queueResume (a : Acc) (c q : Nat) (v : BitVec 32)
  /-- BUS_MASTER_DISABLE (R370): Clearing a VF's Bus Master Enable disables its pairs, fetches nothing and journals completions. -/
  | busMasterDisable (c : Nat)
  /-- FUNCTION_LEVEL_RESET (R371): Halts the function's context, ends commands, clears queue state and ends the seal. -/
  | functionLevelReset (c : Nat)
  /-- CLUSTERS_WRITE (R353): A write of AVF_CTXc_CLUSTERS assigns clusters to a context, or is ignored with CFG. -/
  | clustersWrite (a : Acc) (c : Nat) (v : BitVec 64)
  /-- CONTEXT_BIND_WRITE (R374): A write of AVF_CTXc_BIND binds a context to a port, or is ignored with CFG. -/
  | contextBindWrite (a : Acc) (c : Nat) (v : BitVec 32)
  /-- NOP (R361): Avfer command that does nothing and completes. -/
  | nop (c q : Nat)
  /-- LOAD (R99): Checks a program image and loads it into the context, or rejects it with a code. -/
  | load (c q : Nat)
  /-- UNLOAD (R362): Halts the context's nibs, ends its seal, and power-gates its clusters. -/
  | unload (c q : Nat)
  /-- HOST_XFER (R365): The host transfer engine moves strips between host memory and the device, signalling as strips are delivered. -/
  | hostXfer (c q : Nat)
  /-- STRIP_DELIVERED (R365): A strip whose bytes and predecessors have all landed is delivered, possibly firing a signal. -/
  | stripDelivered (c q seq : Nat) (ep : List Nat)
  /-- PAGE_FAULT (R366): A missing page stops the strip stream and issues a page request, or ends the XFER FAULT_EXACT in Exact Mode. -/
  | pageFault (c q seq k : Nat) (refused : Bool)
  /-- PAGE_REQUEST_RESPONSE (R366): A successful page response resumes the XFER from cursor k; a failure ends it TRANSLATION. -/
  | pageRequestResponse (c q seq : Nat) (ok : Bool)
  /-- PRI_TIMEOUT (R366): No page response within AVF_PRI_TIMEOUT completes the XFER TRANSLATION. -/
  | priTimeout (c q seq t : Nat)
  /-- TALLY_SIGNAL (R362): The host signals a tally through the context's map. -/
  | tallySignal (c q : Nat)
  /-- TALLY_WAIT (R362): The host waits on a tally, queued after nib waits of the same cycle. -/
  | tallyWait (c q : Nat)
  /-- TALLY_WAIT_TIMEOUT (R360): A TALLY_WAIT that reaches LIMIT_MS completes TIMEOUT. -/
  | tallyWaitTimeout (c q seq t : Nat)
  /-- RIB_REQ (R198): Queues a request handle for admission at the next lap cut. -/
  | ribReq (c q : Nat)
  /-- TIER_COPY (R243): Copies between an HBM region and the CXL far tier and signals a tally on completion. -/
  | tierCopy (c q : Nat)
  /-- SEAL (R341): Computes the seal over input and output bytes and writes the 176 B record. -/
  | sealOutput (c q : Nat)
  /-- MANIFEST_LOAD (R389): Verifies and holds a weight manifest and write-locks its granules. -/
  | manifestLoad (c q : Nat)
  /-- VERIFY_BLOCKS (R390): Checks directory entries homed at this member against the manifest and block digests, and sends notices. -/
  | verifyBlocks (c q : Nat)
  /-- VERIFY_NOTICE_RECEIVE (R390): A member sets VERIFIED on its entry when the notices match it. -/
  | verifyNoticeReceive (pos : Nat) (body : List (BitVec 8))
  /-- ATTEST (R394): Forms and writes a signed attestation report. -/
  | attest (c q : Nat)
  /-- RECORD_WRITE (R392): Writes a valid signed record into the boot-flash slot that is not in force. -/
  | recordWrite (c q : Nat)
  /-- OWNER_CMD (R386): Judges an owner token against the nonce and the owner key, then refreshes the nonce. -/
  | ownerCmd (c q : Nat)
  /-- OWNER_SET (R386): Writes NEW_OWNER as the owner key digest. -/
  | ownerSet (wrote : Bool)
  /-- FLOOR_COMMIT (R384): Raises the rollback floors of the selected types. -/
  | floorCommit (wrote : Bool)
  /-- ACCEPT_FOUND (R286): Sets ACCEPT_FOUND on the selected ports. -/
  | acceptFound
  /-- OWNER_CLEAR (R386): Clears the owner key digest and the owner record floors. -/
  | ownerClear (wrote : Bool)
  /-- BLOCK_DIGEST (R391): Returns the digests of blocks homed at the member. -/
  | blockDigest (c q : Nat)
  /-- RELEASE_MANIFEST (R389): Releases a held manifest and its locks. -/
  | releaseManifest (c q : Nat)
  /-- GET_REPORT (R395): MCTP request for an attestation report. -/
  | getReport (b c : Nat) (nonce : BitVec 256)
  /-- GET_CERT (R395): MCTP request for the identity certificate. -/
  | getCert (b : Nat)
  /-- MCTP_OWNER_CMD (R395): MCTP request that carries an owner token. -/
  | mctpOwnerCmd (b : Nat) (token : List (BitVec 8))
  /-- GET_NONCE (R395): MCTP request for the current SEC_NONCE. -/
  | getNonce (b : Nat)
  /-- PLDM_FIRMWARE_UPDATE (R428): PLDM Type 5 update writes a checked record into the slot that is not in force. -/
  | pldmFirmwareUpdate (b : Nat) (image : List (BitVec 8))
  /-- BOOT_STAGE_0 (R378): The ROM reconstructs the PUF seed, reads the replay-protected area and verifies OWL_FW. -/
  | bootStage0 (readable : Bool) (fails : Nat)
  /-- BOOT_STAGE_1 (R378): Owl firmware verifies and applies the records, checks the stacks and loads the runtime. -/
  | bootStage1
  /-- BOOT_STAGE_2 (R378): The runtime raises AUTO_FLOOR floors, sets the H1 role, trains links and releases the host ports. -/
  | bootStage2 (w0 w1 devices gib : Nat) (equal : Bool)
  /-- INPUT_OVER_VOLTAGE (R398): Input above 62 V for 1 µs powers off all domains except CLK_AON and raises a fatal error. -/
  | inputOverVoltage
  /-- INPUT_UNDER_VOLTAGE (R398): Input below 38 V for 100 µs powers off all domains except CLK_AON and raises a fatal error. -/
  | inputUnderVoltage
  /-- INPUT_BELOW_AON_FLOOR (R398): Input below 30 V for 10 µs powers off CLK_AON as well. -/
  | inputBelowAonFloor
  /-- INPUT_CURRENT_LIMIT (R398): Input current above 75 A for 2 µs causes a clock stop on all dies. -/
  | inputCurrentLimit
  /-- POWER_UP (R400): From a valid input the package powers its domains up in the fixed order. -/
  | powerUp (stackIns : List StackIn)
  /-- CLUSTER_WAKE (R402): A cluster wake completes and the cluster reaches CLOCK_GATED or RUNNING in the wake order. -/
  | clusterWake
  /-- CLOCK_STEP (R405): A one-step change of a die's arithmetic clock takes effect at the next mesh frame boundary. -/
  | clockStep (d : Nat)
  /-- POWER_SAMPLE (R409): The power controller samples input and rail power every 10 µs. -/
  | powerSample (mv ca : Nat) (doms : List Nat)
  /-- CAP_WINDOW (R406): At the end of each cap window the controller lowers, raises or holds the clocks. -/
  | capWindow
  /-- CLOCK_STOP (R407): A 1 µs clock stop period halts the cluster and fabric clocks of the dies concerned. -/
  | clockStop (d : Nat)
  /-- THERMAL_SAMPLE (R408): Every 100 µs die temperatures are compared, and the die throttles, stops its clock or shuts down. -/
  | thermalSample (tc tw : List Nat) (hub : Nat) (optics : List Nat)
  /-- ERROR_REPORT (R416): An error report reaches a log, which writes an entry, sets class bits, counts it and sends an interrupt. -/
  | errorReport (k : Nat)
  /-- FENCE (R423): Fences a serviceable unit. -/
  | fence (a : Acc) (peerFree : Bool)
  /-- TEST (R423): Starts a test of a fenced, passed or failed unit. -/
  | testUnit (a : Acc)
  /-- TEST_END (R422): A test ends in PASSED or FAILED and records the first failing part. -/
  | testEnd (kind unit : Nat) (pass : Bool) (part index detail : Nat)
  /-- RETURN (R423): Returns a passed unit to service. -/
  | returnUnit (a : Acc)
  /-- REPAIR (R425): Tests a spare physical nib and writes a field REPAIR record that maps it in. -/
  | repair (a : Acc) (results : List Bool)
  /-- ABORT (R422): Ends a test and leaves the unit FENCED. -/
  | abort (a : Acc)
  /-- OWL_WATCHDOG_TIMEOUT (R427): An Owl watchdog timeout or an uncorrectable Owl memory error restarts the Owl. -/
  | owlWatchdogTimeout (ecc : Bool)
  /-- OWL_RESTART_COMPLETE (R427): The Owl firmware is reloaded; three restarts in 10 min make the Owl lost. -/
  | owlRestartComplete
  /-- SENSOR_REFRESH (R429): Sensor readings are refreshed every 10 ms. -/
  | sensorRefresh
  /-- HUB_SCRUB (R420): The hub scrubs its SRAM structures once per FTC hour. -/
  | hubScrub (hits : List ScrubHit)
  /-- AON_RESET (R440): RST_AON_N held low resets the always-on domain, and boot restarts. -/
  | aonReset
  /-- PACKAGE_RESET (R440): RST_PKG_N held low repeats power-up steps 3 to 6 while CLK_AON keeps running. -/
  | packageReset (aonLow : Bool)
  /-- PERST_ASSERT (R440): Hn_PERST_N low applies fundamental reset to port Hn and its contexts. -/
  | perstAssert (port : Nat)
  /-- PERST_RELEASE (R440): Hn_PERST_N rising lets port Hn retrain. -/
  | perstRelease (port width : Nat)
  /-- BYPASS (R443): JTAG BYPASS instruction. -/
  | bypass
  /-- SAMPLE_PRELOAD (R443): JTAG SAMPLE/PRELOAD instruction. -/
  | samplePreload (lands preload : Nat)
  /-- EXTEST (R443): JTAG EXTEST, accepted only while RST_PKG_N is low and otherwise treated as BYPASS. -/
  | extest (pkgLow : Bool) (lands : Nat)
  /-- IDCODE (R443): JTAG IDCODE returns 0x0A10_A3E9. -/
  | idcode
  /-- LIGHT_DETECT (R283): A port in DETECT finds light present on all four lanes and moves to EQUALISE. -/
  | lightDetect (p : Nat)
  /-- EQUALISE_COMPLETE (R283): Every lane of a port has adapted, and the port moves from EQUALISE to FEC_LOCK. -/
  | equaliseComplete (p : Nat)
  /-- FEC_LOCK_ACQUIRE (R283): Codeword alignment holds on every lane, and the port moves from FEC_LOCK to IDENTIFY. -/
  | fecLockAcquire (p lanes : Nat)
  /-- RECALIBRATION_BURST_END (R292): A link recalibration burst of at most 50 µs ends, and the port's traffic returns to it. -/
  | recalibrationBurstEnd (p : Nat)
  /-- TIER_COPY_COMPLETE (R243): A far-tier copy finishes landing, possibly with CXL-poisoned words, and signals its tally and completes. -/
  | tierCopyComplete (c q seq n : Nat)
  /-- ATS_INVALIDATION (R365): An ATS invalidation from the host arrives and completes only after the strips holding the covered translations are done. -/
  | atsInvalidation (port iova len : Nat)
  /-- OPPORTUNISTIC_CALIBRATION (R233): Without a memory slot table, the controller calibrates a channel early when it detects drift. -/
  | opportunisticCalibration (ch t : Nat)
  /-- BUS_MASTER_ENABLE (R370): A VF's Bus Master Enable is set again, and fetching and CQ writes may resume. -/
  | busMasterEnable (c : Nat)
  /-- SEGMENT_ACKNOWLEDGE (R322): A sender receives the receiver's acknowledgement or resend request for a collective segment, and it frees the slot or resends. -/
  | segmentAcknowledge (c id owner seq mark tgt : Nat) (ok : Bool)
  /-- BLOCK_HASH_COMPLETE (R390): The security engine finishes hashing one block of a VERIFY_BLOCKS run, and the entry gains VERIFIED and its notice is sent, or it fails. -/
  | blockHashComplete (no : Nat)
  /-- MCTP_ENDPOINT_ID_ASSIGN (R428): The bus owner assigns the Owl an MCTP endpoint ID on a binding through an MCTP control message. -/
  | mctpEndpointIdAssign (b eid : Nat)
deriving DecidableEq, Repr

end Sys2Proof
end

