-- ==== Sys2Proof/Decode.lean ====
section
/-!
DEFINITION. Words of the opcode table. The table gives no row of this block any bits: its commands are events, register
accesses and bundle slots, and none is a word of a command stream. The encodings that the manual does give are those of
the bundle slots, which Machine/SlotCode.lean decodes, and of the Avfer command entries, which Machine/Queues.lean reads.
-/
namespace Sys2Proof

/-- The command that a word of the opcode table spells: none, for no row has bits. -/
def decodeTableWord (nbits w : Nat) : Option Instr :=
  match nbits, w with
  | _, _ => none

end Sys2Proof
end

