-- ==== Sys2Proof/Machine/Store.lean ====
section
/-!
DEFINITION. Operations on sparse maps and byte memories, and the byte-order helpers (little-endian, R7).
-/
namespace Sys2Proof.Machine

/-- The value of key `k`; `d` where the map lists none. -/
def look {α : Type} (d : α) : NMap α → Nat → α
  | [], _ => d
  | (j, v) :: m, k => if k = j then v else look d m k

/-- Remove key `k`. -/
def drop {α : Type} : NMap α → Nat → NMap α
  | [], _ => []
  | (j, v) :: m, k => if k = j then drop m k else (j, v) :: drop m k

/-- Insert a pair in key order, in place of any pair of the same key. -/
def insert {α : Type} : NMap α → Nat → α → NMap α
  | [], k, v => [(k, v)]
  | (j, w) :: m, k, v =>
    if k < j then (k, v) :: (j, w) :: m
    else if k = j then (k, v) :: m
    else (j, w) :: insert m k v

/-- Write key `k`: writing the default removes the entry, so equal maps are equal data. -/
def put {α : Type} [DecidableEq α] (d : α) (m : NMap α) (k : Nat) (v : α) : NMap α :=
  if v = d then drop m k else insert m k v

/-- Canonical form: keys strictly rising from `lo` up, no entry equal to the default of its key. -/
def wfBy {α : Type} [DecidableEq α] (d : Nat → α) : Nat → NMap α → Bool
  | _, [] => true
  | lo, (j, v) :: m => decide (lo ≤ j) && decide (v ≠ d j) && wfBy d (j + 1) m

/-- Canonical form of a map with default `d`. -/
def wf {α : Type} [DecidableEq α] (d : α) (m : NMap α) : Bool := wfBy (fun _ => d) 0 m

/-- Keep only the pairs whose key is outside `lo .. lo + n - 1`. -/
def dropRange {α : Type} (m : NMap α) (lo n : Nat) : NMap α :=
  m.filter fun p => decide (p.1 < lo) || decide (lo + n ≤ p.1)

/-- Keep only the pairs whose key is inside `lo .. lo + n - 1`. -/
def keepRange {α : Type} (m : NMap α) (lo n : Nat) : NMap α :=
  m.filter fun p => decide (lo ≤ p.1) && decide (p.1 < lo + n)

/-- Canonical form of a byte memory whose unlisted bytes read 0. -/
def Memory.wf (m : Mem) : Bool := Machine.wf (0 : Byte) m

/-- One byte of a memory. An unlisted byte reads 0 (DESIGN CHOICE, log entry 1). -/
def readByte (m : Mem) (a : Nat) : Byte := look 0 m a

/-- Write one byte, keeping the canonical form. -/
def writeByte (m : Mem) (a : Nat) (b : Byte) : Mem := put 0 m a b

/-- `n` bytes from address `a`, lowest address first. -/
def readBytes (m : Mem) (a : Nat) : Nat → List Byte
  | 0 => []
  | n + 1 => readByte m a :: readBytes m (a + 1) n

/-- Write bytes from address `a` up. -/
def writeBytes (m : Mem) (a : Nat) : List Byte → Mem
  | [] => m
  | b :: bs => writeBytes (writeByte m a b) (a + 1) bs

/-- Set every listed key of `a .. a + n - 1` to zero, that is, unlist it. -/
def zeroBytes (m : Mem) (a n : Nat) : Mem := dropRange m a n

/-- The number that bytes spell, the first byte least significant (R7). -/
def leNat : List Byte → Nat
  | [] => 0
  | b :: bs => b.toNat + 256 * leNat bs

/-- The low `n` bytes of a number, least significant first (R7). -/
def natLE : Nat → Nat → List Byte
  | 0, _ => []
  | n + 1, x => BitVec.ofNat 8 x :: natLE n (x / 256)

/-- A little-endian field of `n` bytes at offset `o` of a byte list. -/
def field (bs : List Byte) (o n : Nat) : Nat := leNat ((bs.drop o).take n)

/-- Bits `[hi:lo]` of a number. -/
def bits (x hi lo : Nat) : Nat := (x / 2 ^ lo) % 2 ^ (hi - lo + 1)

/-- Bit `i` of a number. -/
def bitOf (x i : Nat) : Bool := x.testBit i

/-- `x` with bits `[hi:lo]` replaced by the low bits of `v`. -/
def setBits (x hi lo v : Nat) : Nat :=
  x - bits x hi lo * 2 ^ lo + (v % 2 ^ (hi - lo + 1)) * 2 ^ lo

/-- Bits `[hi:lo]` of a 32-bit register. -/
def fld (w : W32) (hi lo : Nat) : Nat := bits w.toNat hi lo

/-- A 32-bit register with bits `[hi:lo]` replaced. -/
def setFld (w : W32) (hi lo v : Nat) : W32 := BitVec.ofNat 32 (setBits w.toNat hi lo v)

/-- A saturating sum at `top`. -/
def satAdd (top a b : Nat) : Nat := if a + b ≥ top then top else a + b

/-- Two's-complement value of the low `w` bits of `x`. -/
def signed (w x : Nat) : Int :=
  let y := x % 2 ^ w
  if 2 * y ≥ 2 ^ w then (y : Int) - (2 ^ w : Nat) else y

/-- The low `w` bits of an integer. -/
def wrapNat (w : Nat) (x : Int) : Nat := (x % ((2 ^ w : Nat) : Int)).toNat

/-- Replace element `i` of a list. -/
def setNth {α : Type} : List α → Nat → α → List α
  | [], _, _ => []
  | _ :: xs, 0, y => y :: xs
  | x :: xs, i + 1, y => x :: setNth xs i y

/-- Remove element `i` of a list. -/
def eraseNth {α : Type} : List α → Nat → List α
  | [], _ => []
  | _ :: xs, 0 => xs
  | x :: xs, i + 1 => x :: eraseNth xs i

/-- The sublists of `n` elements, in order (`fuel` bounds their number). -/
def chunks {α : Type} (n : Nat) : Nat → List α → List (List α)
  | 0, _ => []
  | _ + 1, [] => []
  | f + 1, x :: xs => ((x :: xs).take n) :: chunks n f ((x :: xs).drop n)

/-- Bytes of a list of ASCII characters, without a terminator (R341). -/
def ascii (s : String) : List Byte := s.toList.map fun c => BitVec.ofNat 8 c.toNat

end Sys2Proof.Machine
end

