-- ==== Sys2Proof/Machine/Num.lean ====
section
/-!
DEFINITION. Number formats and arithmetic of the manual's chapter 3: format codes (R51), element encodings (R52),
exact values, rounding (R61, R66), conversions (R65 to R69), MX blocks (R55, R68), sums and windows (R59 to R64).

A value is exact: NaN, an infinity, or a signed dyadic number `m * 2 ^ e`. Every operation computes exactly and
rounds once at the end.
-/
namespace Sys2Proof.Machine

/-- A number as the datapath sees it: NaN, an infinity, or `(-1)^neg * m * 2^e` exactly (R59). -/
inductive Val where
  | nan
  | inf (neg : Bool)
  | fin (neg : Bool) (m : Nat) (e : Int)
deriving DecidableEq, Repr

/-- An exact dyadic sum `n * 2 ^ e`. -/
structure Dy where
  n : Int
  e : Int
deriving DecidableEq, Repr

/-- How a float format spells its specials (R52). -/
inductive Special where
  | ieee    -- infinities and NaN in the top exponent
  | e4m3    -- no infinity, NaN 0x7F and 0xFF
  | none    -- every code is a number
deriving DecidableEq, Repr

/-- A float element format: exponent bits, mantissa bits, bias, specials (R52). -/
structure Flt where
  ew : Nat
  mw : Nat
  bias : Nat
  sp : Special
deriving DecidableEq, Repr

/-- E2M1 (R52). -/
def fE2M1 : Flt := ⟨2, 1, 1, .none⟩
/-- E2M3 (R52). -/
def fE2M3 : Flt := ⟨2, 3, 1, .none⟩
/-- E3M2 (R52). -/
def fE3M2 : Flt := ⟨3, 2, 3, .none⟩
/-- E4M3 (R52). -/
def fE4M3 : Flt := ⟨4, 3, 7, .e4m3⟩
/-- E5M2 (R52). -/
def fE5M2 : Flt := ⟨5, 2, 15, .ieee⟩
/-- FP16 (R52). -/
def fFP16 : Flt := ⟨5, 10, 15, .ieee⟩
/-- BF16 (R52). -/
def fBF16 : Flt := ⟨8, 7, 127, .ieee⟩
/-- FP32 (R52). -/
def fFP32 : Flt := ⟨8, 23, 127, .ieee⟩

/-- The element of a format code of R51: a float element, or a two's-complement integer of `w` bits whose unit is
`2 ^ u` (INT4 × 2⁻² and INT8 × 2⁻⁶ in the MXINT forms). -/
inductive Elem where
  | flt (f : Flt)
  | int (w : Nat) (u : Int)
deriving DecidableEq, Repr

/-- Element of format code `c` (R51, R52). -/
def elemOf (c : Nat) : Elem :=
  match c with
  | 0 => .flt fE2M1
  | 1 => .flt fE2M1
  | 2 => .int 4 0
  | 3 => .int 4 (-2)
  | 4 => .flt fE4M3
  | 5 => .flt fE5M2
  | 6 => .flt fE4M3
  | 7 => .flt fE5M2
  | 8 => .int 8 0
  | 9 => .int 8 (-6)
  | 10 => .flt fBF16
  | 11 => .flt fFP16
  | 12 => .flt fFP32
  | 13 => .int 32 0
  | 14 => .flt fE2M3
  | _ => .flt fE3M2

/-- Whether a format code carries a shared E8M0 scale per 32 elements (R51). -/
def isMX (c : Nat) : Bool := c = 1 || c = 3 || c = 6 || c = 7 || c = 9 || c = 14 || c = 15

/-- Bits of one element of a format code (R52). -/
def elemBits (c : Nat) : Nat :=
  match elemOf c with
  | .flt f => 1 + f.ew + f.mw
  | .int w _ => w

/-- Multiply-accumulates per cell per cycle of an operand format (R21): 4 for the 4-bit formats, 2 for the 8-bit
formats, 1 for BF16 and FP16. -/
def macs (c : Nat) : Nat :=
  if elemBits c = 4 then 4 else if elemBits c = 8 then 2 else 1

/-- Whether a code is a weight format (0x0 to 0xB, R57). -/
def isOperand (c : Nat) : Bool := c < 12

/-- Operand pairs that a matrix step may name (R57). -/
def pairOk (wf af : Nat) : Bool :=
  let fl := fun c => c = 0 || c = 1 || c = 4 || c = 5 || c = 6 || c = 7 || c = 10 || c = 11
  (fl wf && fl af) || ((wf = 2 || wf = 8) && (af = 2 || af = 8)) || ((wf = 3 || wf = 9) && (af = 3 || af = 9))

/-- Whether a step of this weight format accumulates in INT32 (R57). -/
def isIntStep (wf : Nat) : Bool := wf = 2 || wf = 8

/-! ### Decoding elements -/

/-- Value of a float code (R52, R53, R54). -/
def decodeFlt (f : Flt) (code : Nat) : Val :=
  let mag := code % 2 ^ (f.ew + f.mw)
  let neg := code.testBit (f.ew + f.mw)
  let ex := mag / 2 ^ f.mw
  let fr := mag % 2 ^ f.mw
  if f.sp = .ieee ∧ ex = 2 ^ f.ew - 1 then
    if fr = 0 then .inf neg else .nan
  else if f.sp = .e4m3 ∧ mag = 2 ^ (f.ew + f.mw) - 1 then .nan
  else if ex = 0 then .fin neg fr (1 - (f.bias : Int) - f.mw)
  else .fin neg (2 ^ f.mw + fr) ((ex : Int) - f.bias - f.mw)

/-- Value of an integer. -/
def ofInt (i : Int) (e : Int) : Val := .fin (decide (i < 0)) i.natAbs e

/-- Value of an element code of format `c`, without its block scale (R52). -/
def decodeElem (c code : Nat) : Val :=
  match elemOf c with
  | .flt f => decodeFlt f code
  | .int w u => ofInt (signed w code) u

/-- An element multiplied by 2^(S − 127); scale 0xFF makes a NaN block (R55). A scale of 0x7F leaves it as it is. -/
def scaleBy (s : Nat) : Val → Val
  | v =>
    if s = 255 then .nan
    else match v with
      | .fin n m e => .fin n m (e + (s : Int) - 127)
      | w => w

/-- FP32 value of 32 bits. -/
def f32 (w : W32) : Val := decodeFlt fFP32 w.toNat

/-! ### Rounding -/

/-- `m / 2 ^ s` rounded to nearest, ties to even. -/
def rneShift (m s : Nat) : Nat :=
  let q := m / 2 ^ s
  let r := m % 2 ^ s
  if s = 0 then m
  else if 2 * r > 2 ^ s ∨ (2 * r = 2 ^ s ∧ q % 2 = 1) then q + 1 else q

/-- `m * 2 ^ e` as a multiple of `2 ^ q`, rounded to nearest, ties to even. -/
def rneTo (m : Nat) (e q : Int) : Nat :=
  if q ≤ e then m * 2 ^ (e - q).toNat else rneShift m (q - e).toNat

/-- Magnitude code of `m * 2 ^ e` rounded once to format `f` with the exponent unbounded above and gradual
underflow below (R53, R61, R66). -/
def magCode (f : Flt) (m : Nat) (e : Int) : Nat :=
  if m = 0 then 0
  else
    let qmin : Int := 1 - (f.bias : Int) - f.mw
    let q0 : Int := (Nat.log2 m : Int) + e - f.mw
    let q := if q0 < qmin then qmin else q0
    (q - qmin).toNat * 2 ^ f.mw + rneTo m e q

/-- Magnitude code of the largest finite value (R52). -/
def maxCode (f : Flt) : Nat :=
  match f.sp with
  | .ieee => (2 ^ f.ew - 1) * 2 ^ f.mw - 1
  | .e4m3 => 2 ^ (f.ew + f.mw) - 2
  | .none => 2 ^ (f.ew + f.mw) - 1

/-- Sign bit of a format. -/
def signBit (f : Flt) (neg : Bool) : Nat := if neg then 2 ^ (f.ew + f.mw) else 0

/-- Canonical NaN of a format (R54); +0 where the format has none. -/
def nanCode (f : Flt) : Nat :=
  match f.sp with
  | .ieee => (2 ^ f.ew - 1) * 2 ^ f.mw + 2 ^ (f.mw - 1)
  | .e4m3 => 2 ^ (f.ew + f.mw) - 1
  | .none => 0

/-- Infinity code of an IEEE format. -/
def infCode (f : Flt) : Nat := (2 ^ f.ew - 1) * 2 ^ f.mw

/-- The 32 bits of a value rounded once to FP32; overflow gives infinity (R61). -/
def toF32 : Val → W32
  | .nan => 0x7FC00000#32
  | .inf neg => BitVec.ofNat 32 (signBit fFP32 neg + infCode fFP32)
  | .fin neg m e =>
    let c := magCode fFP32 m e
    BitVec.ofNat 32 (signBit fFP32 neg + (if c > maxCode fFP32 then infCode fFP32 else c))

/-- The 16 bits of a value rounded once to BF16; overflow gives infinity (R47, R61). -/
def toBF16 : Val → Nat
  | .nan => nanCode fBF16
  | .inf neg => signBit fBF16 neg + infCode fBF16
  | .fin neg m e =>
    let c := magCode fBF16 m e
    signBit fBF16 neg + (if c > maxCode fBF16 then infCode fBF16 else c)

/-! ### Exact arithmetic -/

/-- Exact sum of two dyadic numbers. -/
def Dy.add (a b : Dy) : Dy :=
  if a.n = 0 then b
  else if b.n = 0 then a
  else if a.e ≤ b.e then ⟨a.n + b.n * (2 : Int) ^ (b.e - a.e).toNat, a.e⟩
  else ⟨a.n * (2 : Int) ^ (a.e - b.e).toNat + b.n, b.e⟩

/-- A finite value as a dyadic number (zero for the others). -/
def Val.dy : Val → Dy
  | .fin neg m e => ⟨if neg then -(m : Int) else m, e⟩
  | _ => ⟨0, 0⟩

/-- A dyadic number as a value; zero is +0. -/
def Dy.val (d : Dy) : Val := .fin (decide (d.n < 0)) d.n.natAbs d.e

/-- Whether a value is NaN. -/
def Val.isNan : Val → Bool
  | .nan => true
  | _ => false

/-- Whether a value is neither NaN nor infinite. -/
def Val.isFin : Val → Bool
  | .fin _ _ _ => true
  | _ => false

/-- Whether a value is a zero. -/
def Val.isZero : Val → Bool
  | .fin _ 0 _ => true
  | _ => false

/-- Sign of a value. -/
def Val.neg? : Val → Bool
  | .fin n _ _ => n
  | .inf n => n
  | .nan => false

/-- Negation. -/
def Val.negate : Val → Val
  | .fin n m e => .fin (!n) m e
  | .inf n => .inf (!n)
  | .nan => .nan

/-- Exact product; NaN for infinity × 0 (R63). -/
def Val.mul : Val → Val → Val
  | .nan, _ => .nan
  | _, .nan => .nan
  | .inf a, .inf b => .inf (a != b)
  | .inf a, .fin b m _ => if m = 0 then .nan else .inf (a != b)
  | .fin a m _, .inf b => if m = 0 then .nan else .inf (a != b)
  | .fin a m e, .fin b k f => .fin (a != b) (m * k) (e + f)

/-- Exact sum; a zero sum is −0 only where both terms are −0 (IEEE 754 for round-to-nearest-even, R53). -/
def Val.add : Val → Val → Val
  | .nan, _ => .nan
  | _, .nan => .nan
  | .inf a, .inf b => if a = b then .inf a else .nan
  | .inf a, .fin _ _ _ => .inf a
  | .fin _ _ _, .inf b => .inf b
  | .fin a m e, .fin b k f =>
    let d := (Val.fin a m e).dy.add (Val.fin b k f).dy
    if d.n = 0 then .fin (a && b && m = 0 && k = 0) 0 0 else d.val

/-- Exact difference. -/
def Val.sub (a b : Val) : Val := a.add b.negate

/-- Compare two finite or infinite values: `a < b`. NaN is never below (R90). -/
def Val.lt : Val → Val → Bool
  | .nan, _ => false
  | _, .nan => false
  | .inf a, .inf b => a && !b
  | .inf a, .fin _ _ _ => a
  | .fin _ _ _, .inf b => !b
  | .fin a m e, .fin b k f => decide (((Val.fin a m e).dy.add ((Val.fin b k f).negate).dy).n < 0)

/-- Equality of values as numbers; zeros of both signs are equal; NaN equals nothing. -/
def Val.eqv (a b : Val) : Bool := !a.isNan && !b.isNan && !(a.lt b) && !(b.lt a)

/-- `⌊log₂ |v|⌋` of a finite non-zero value. -/
def Val.expo : Val → Int
  | .fin _ m e => (Nat.log2 m : Int) + e
  | _ => 0

/-- Special values of a set of products, which take precedence over the sum (R63). -/
def specialSum (ps : List Val) : Option Val :=
  if ps.any Val.isNan then some .nan
  else
    let pos := ps.any fun p => p = .inf false
    let neg := ps.any fun p => p = .inf true
    if pos && neg then some .nan
    else if pos then some (.inf false)
    else if neg then some (.inf true)
    else none

/-- Exact sum of finite values. -/
def exactSum (ps : List Val) : Dy := ps.foldl (fun d p => d.add p.dy) ⟨0, 0⟩

/-- The group value of a term group: specials first, then the exact sum, a zero being +0 (R60, R63). -/
def groupValue (ps : List Val) : Val :=
  match specialSum ps with
  | some v => v
  | none => (exactSum ps).val

/-- `m * 2 ^ e` truncated toward minus infinity to a multiple of `2 ^ q`, as a number of units. -/
def truncTo (d : Dy) (q : Int) : Int :=
  if q ≤ d.e then d.n * (2 : Int) ^ (d.e - q).toNat else d.n / (2 : Int) ^ (q - d.e).toNat

/-- The step window of R62: products truncated toward minus infinity at `2 ^ (E − 60)`, summed exactly. -/
def stepWindow (ps : List Val) : Val :=
  match specialSum ps with
  | some v => v
  | none =>
    let nz := ps.filter fun p => !p.isZero
    match nz with
    | [] => .fin false 0 0
    | p :: rest =>
      let emax := rest.foldl (fun a v => if a < v.expo then v.expo else a) p.expo
      let q := emax - 60
      (Dy.mk (nz.foldl (fun a v => a + truncTo v.dy q) 0) q).val

/-! ### Conversions -/

/-- Flags of NIB_ARITH_STATUS (R71) as bits of a number: 1 INT_WRAP, 2 SAT, 4 NAN_CONV, 8 NAN_OUT. -/
abbrev AFlags := Nat

/-- A converted code with the flags it sets. -/
abbrev Conv := Nat × AFlags

/-- Clamp of R67 to a `w`-bit integer. -/
def clampInt (w : Nat) (i : Int) : Conv :=
  let hi : Int := (2 ^ (w - 1) : Nat) - 1
  let lo : Int := -((2 ^ (w - 1) : Nat) : Int)
  if i > hi then (wrapNat w hi, 2) else if i < lo then (wrapNat w lo, 2) else (wrapNat w i, 0)

/-- Conversion of an exact value to a non-MX target of format code `c` (R65, R66, R67, R94). -/
def convert (c : Nat) (sat : Bool) (v : Val) : Conv :=
  match elemOf c, v with
  | .int _ _, .nan => (0, 4)
  | .int w _, .inf neg => (wrapNat w (if neg then -((2 ^ (w - 1) : Nat) : Int) else (2 ^ (w - 1) : Nat) - 1), 2)
  | .int w u, .fin neg m e => clampInt w (if neg then -(rneTo m e u : Int) else rneTo m e u)
  | .flt f, .nan => (nanCode f, if f.sp = .none then 4 else 0)
  | .flt f, .inf neg =>
    match f.sp with
    | .none => (signBit f neg + maxCode f, 2)
    | .e4m3 => if sat then (signBit f neg + maxCode f, 2) else (nanCode f, 4)
    | .ieee => if sat && f.mw < 23 then (signBit f neg + maxCode f, 2) else (signBit f neg + infCode f, 0)
  | .flt f, .fin neg m e =>
    let k := magCode f m e
    if k ≤ maxCode f then (signBit f neg + k, 0)
    else match f.sp with
      | .none => (signBit f neg + maxCode f, 2)
      | .e4m3 => if sat then (signBit f neg + maxCode f, 2) else (nanCode f, 4)
      | .ieee => if sat && f.mw < 23 then (signBit f neg + maxCode f, 2) else (signBit f neg + infCode f, 0)

/-- Exponent of the element's largest normal value (R68). -/
def mxEmax (c : Nat) : Int :=
  match c with
  | 1 => 2
  | 14 => 2
  | 15 => 4
  | 6 => 8
  | 7 => 15
  | _ => 0

/-- Element of an MX block after scaling, clamped to the largest element value, without a flag (R68). -/
def mxElem (c : Nat) (v : Val) : Nat :=
  match elemOf c, v with
  | .int w u, .fin neg m e =>
    let hi := 2 ^ (w - 1) - 1
    let k := rneTo m e u
    let k := if k > hi then hi else k
    wrapNat w (if neg then -(k : Int) else k)
  | .flt f, .fin neg m e =>
    let k := magCode f m e
    signBit f neg + (if k > maxCode f then maxCode f else k)
  | _, _ => 0

/-- Conversion of the values of one MX block: scale, element codes, flags (R68). -/
def mxBlock (c : Nat) (vs : List Val) : Nat × List Nat × AFlags :=
  if vs.any (fun v => !v.isFin) then (255, vs.map (fun _ => 0), 4)
  else
    let nz := vs.filter fun v => !v.isZero
    let x : Int :=
      match nz with
      | [] => -127
      | v :: rest =>
        let a := rest.foldl (fun a w => if a < w.expo then w.expo else a) v.expo
        let y := a - mxEmax c
        if y < -127 then -127 else if y > 127 then 127 else y
    let shift : Val → Val
      | .fin n m e => .fin n m (e - x)
      | w => w
    ((x + 127).toNat, vs.map (fun v => mxElem c (shift v)), 0)

/-! ### Packing (R56, R95) -/

/-- Element codes packed from the least significant bit upward, `b` bits each, as one number. -/
def packNat (b : Nat) : List Nat → Nat
  | [] => 0
  | c :: cs => c % 2 ^ b + 2 ^ b * packNat b cs

/-- `n` codes of `b` bits read from a number. -/
def unpackNat (b : Nat) : Nat → Nat → List Nat
  | 0, _ => []
  | n + 1, x => x % 2 ^ b :: unpackNat b n (x / 2 ^ b)

/-- Integer square root by bits, from bit `k − 1` down. -/
def isqrtBits : Nat → Nat → Nat → Nat
  | 0, _, r => r
  | k + 1, n, r => let r' := r + 2 ^ k; isqrtBits k n (if r' * r' ≤ n then r' else r)

end Sys2Proof.Machine
end

