-- ==== Sys2Proof/Config.lean ====
section
/-!
DEFINITION. What an implementation fixes and the manual does not give: free values without a body, and the
fixed sizes the manual states once.
-/
namespace Sys2Proof.Config

/-- The 64-bit digest of the group fields of a collective (R304): free, the manual gives no function (log entry 146). -/
opaque collDigest : List Nat → BitVec 64
/-- Fresh random values (SEC_NONCE, R386), by a running number of State. FREE VALUE. -/
opaque freshRandom : Nat → BitVec 256
/-- The 256-bit seed reconstructed from the start-up pattern of the PUF SRAM (R381). FREE VALUE. -/
opaque pufSeed : BitVec 256
/-- The 1,793-byte identity public key derived from the seed by Falcon-1024 key generation (R381). FREE VALUE. -/
opaque identityKey : List Byte
/-- The Falcon-1024 signature in the padded format that the engine's sign operation forms over a 64-byte
message (R375, R381), by a running number of State, for signing is randomised. FREE VALUE. -/
opaque sign : Nat → List Byte → List Byte
/-- Digest of Beymir's firmware key FK, held in the boot ROM (R377). FREE VALUE. -/
opaque anchorFK : List Byte
/-- Digest of Beymir's manufacturing key MK, held in the boot ROM (R377). FREE VALUE. -/
opaque anchorMK : List Byte
/-- Values that the manual leaves open and gives no name (FTC_BOUND when locked, R297; contents written poisoned, R324), by a
running number of State. FREE VALUE. -/
opaque freeWord : Nat → BitVec 32
/-- Plane address of a package of a job, by context tag and package index: the host assigns it, and the manual gives no
map (R257, R338). FREE VALUE. -/
opaque packageAddr : Nat → Nat → Nat
/-- Rate correction that the FTC takes for a measured offset in ps (R296, R298): the manual bounds it and gives no
control law. FREE VALUE. -/
opaque ftcRate : Int → Int
/-- Cause of a unit's state change in bits [15:8] of INFO (R418, CODE 0x04): the manual gives the field and no numbers, so the
model's own number of a cause stands for it. FREE VALUE. -/
opaque causeCode : Nat → BitVec 8
/-- State number that CODE 0x04 gives for a lane that is spared; the manual lists none (R418). FREE VALUE. -/
opaque sparedState : BitVec 8
/-- Hub unit numbers of R415, which the manual does not list: 0 Owl, 1 reduction slab, 2 power controller, by the
model's own numbers. FREE VALUE. -/
opaque hubUnit : Nat → BitVec 31

/-- Compute dies of the package (R13). -/
def dies : Nat := 4
/-- Clusters of a compute die (R13). -/
def clustersPerDie : Nat := 12
/-- Contexts (R433). -/
def contexts : Nat := 16
/-- Queue pairs of a context (R373). -/
def pairs : Nat := 16
/-- Link ports (R301). -/
def ports : Nat := 32
/-- HBM channels (R222). -/
def channels : Nat := 256
/-- Granules of one channel (R222). -/
def granulesPerChannel : Nat := 524288
/-- Regions of the region table (R223). -/
def regions : Nat := 64
/-- Bytes of a well (R133). -/
def wellBytes : Nat := 2097152
/-- Bytes of a landing area (R135). -/
def landBytes : Nat := 67108864
/-- Bytes of HBM (R222). -/
def hbmBytes : Nat := 549755813888
/-- Transfer tags of a nib (R20). -/
def xferTags : Nat := 32
/-- Bytes of one nib transfer tag (R153). -/
def tagBytes : Nat := 2048
/-- Bundles of a bundle store (R74). -/
def bundleStore : Nat := 8192
/-- Directory entries (R193). -/
def dirEntries : Nat := 524288
/-- Hub tallies (R247). -/
def hubTallies : Nat := 16384
/-- Reduction slab slots (R316). -/
def slabSlots : Nat := 4096

end Sys2Proof.Config
end

