-- ==== Sys2Proof/Machine/NibState.lean ====
section
/-!
DEFINITION. The state of one nib (R20): sequencer, register files, tines, drain queues, ring buffers, well, transfer
engine, stage, expander, rotation engine, tallies, waits, seal tile and lateness.
-/
namespace Sys2Proof.Machine

/-- A column of a stationary tile in one tine: 32 bytes of elements and the E8M0 scales of its two MX blocks (R21,
R23, R56), with the poison that came with each quarter of its bytes (R45). Scale 0x7F stands for no scale. -/
structure Col where
  data : BitVec 256
  s0 : Byte
  s1 : Byte
  poison : BitVec 4
deriving DecidableEq, Repr

/-- A column that nothing has loaded. -/
def Col.zero : Col := ⟨0, 0x7F, 0x7F, 0⟩

/-- A row of a drain queue (R115): the elements and their format, FP32 or INT32 as they leave the bank and that of BRUSH
behind it (R123), the poison of the tile, whether it waits for mpop, stream-out's ring, format and saturation, the row set
it belongs to, and whether a stage drained it. -/
structure DrainRow where
  vals : List W32
  src : Nat
  poison : Bool
  toVec : Bool
  drb : Nat
  fo : Nat
  sat : Bool
  set : Nat
  stage : Bool
deriving DecidableEq, Repr

/-- A ring buffer (R107, R108, R132). `rd` and `fw` count bytes beyond the head that the weight port has consumed and
that the rotation or chain engine has forwarded (R142); a byte leaves when every reader has passed it. `part`/`col`
are the tiles and vectors already delivered of the weight group at the head (R108, R163), and `gone` the bytes of its front
that have left. `head` counts the bytes that have left since rbset. -/
structure Ring where
  valid : Bool
  log2 : Nat
  base : Nat
  offpkg : Bool
  stageOff : Bool
  chain : Bool
  head : Nat
  fill : Nat
  rd : Nat
  fw : Nat
  parts : Nat
  col : Nat
  gone : Nat
  /-- Lateness mark of the last bytes written (R332); 0 for an external event. -/
  mark : Nat
deriving DecidableEq, Repr

/-- An unconfigured ring. -/
def Ring.empty : Ring := ⟨false, 0, 0, false, false, false, 0, 0, 0, 0, 0, 0, 0, 0⟩

/-- An entry of the loop stack (R83). -/
structure Loop where
  start : Nat
  stop : Nat
  remaining : Nat
deriving DecidableEq, Repr

/-- A resolved place in memory (R105). -/
inductive Place where
  | well (n off : Nat)
  | land (d off : Nat)
  | hbm (dpa : Nat)
  | ring (n r : Nat)
deriving DecidableEq, Repr

/-- A register or memory write that waits for its latency (R77). A vector write names lanes with a mask and a value,
and quarters with their poison and whether they are written whole. -/
inductive Wr where
  | s (i : Nat) (v : W32)
  | aHalf (i : Nat) (half : Bool) (v : W32)
  | a (i : Nat) (v : W64)
  | p (i : Nat) (mask v : W64)
  | v (i : Nat) (lanes : List (Nat × W32 × W32)) (quarters : List (Nat × Bool × Bool))
  | acc (key : Nat) (v : W32)
  | accPoison (tile : Nat) (b : Bool)
  | bytes (pl : Place) (data : List Byte) (poison : List Bool)
  | append (n r : Nat) (data : List Byte) (poison : List Bool)
  | ringCfg (r : Nat) (cfg : Ring)
  | ringPop (r : Nat) (k : Nat)
deriving DecidableEq, Repr

/-- A pending write and the issue count from which it is seen. -/
structure Pend where
  due : Nat
  wr : Wr
deriving DecidableEq, Repr

/-- State of a transfer tag (R153, R154): in flight, arrived in a ring but not yet visible, or done. -/
inductive TagSt where
  | flight
  | hidden
  | done
deriving DecidableEq, Repr

/-- A transfer tag: offset in the transfer, its bytes, poison of their words, state. -/
structure Tag where
  off : Nat
  data : List Byte
  poison : List Bool
  st : TagSt
deriving DecidableEq, Repr

/-- Destination of a signal: a tally of this package, or a hub or nib tally of another package (R254). -/
inductive SigDst where
  | here (t : TalRef)
  | away (package : Nat) (nib : Option Nat) (tally : Nat)
deriving DecidableEq, Repr

/-- A signal on its way: destination, count, context, load generation (R264), lateness mark of its sender (R332). -/
structure Signal where
  dst : SigDst
  count : Nat
  ctx : Nat
  gen : Nat
  mark : Nat
deriving DecidableEq, Repr

/-- A signal held at its source until the bytes it covers have landed: the transfers and tags it still covers, and the transfer
whose completion it announces, if it does (R119, R262). -/
structure Held where
  sig : Signal
  covers : List (Nat × Nat)
  comp : Option Nat
deriving DecidableEq, Repr

/-- A transfer of a nib's transfer engine (R119): number, group, whether stage stream-in issued it, whether it has
been cancelled, destination, tags in order. -/
structure Xfer where
  id : Nat
  group : Nat
  stage : Bool
  cancelled : Bool
  dst : Place
  tags : List Tag
  /-- Lateness of the nib at issue (R332). -/
  late : Nat
deriving DecidableEq, Repr

/-- A tally: count, overflow flag, lateness mark, and whether it has saturated since the load (R247, R249, R252, R332). -/
structure Tally where
  count : Nat
  ovf : Bool
  mark : Nat
  seen : Bool
deriving DecidableEq, Repr

/-- A cleared tally. -/
def Tally.zero : Tally := ⟨0, false, 0, false⟩

/-- Causes of a frozen cycle (R34, R37): weight port, activation port, drain queue, and whether every port that is
not ready waits on a ring fed from off-package. -/
structure Frz where
  wp : Bool
  ap : Bool
  dr : Bool
  ext : Bool
deriving DecidableEq, Repr

/-- A bundle held before issue: the cycle in which it was due, the rings whose lack of bytes held it, whether the
nib's own units (the expander, the drain queue) held it, the largest mark of a tally that held it (R332), the causes
of the last frozen cycle (none: held by a wait), whether a wait has held it, and the syndrome with which it was fetched where
its ECC found it uncorrectable (R101). -/
structure Hold where
  b : Bundle
  due : Nat
  rings : List Nat
  own : Bool
  stamp : Nat
  frz : Option Frz
  waited : Bool
  ecc : Option W32
deriving DecidableEq, Repr

/-- The wait that holds issue, or the last one (NIB_TAL_WAIT, R271). `back` is the reply on its way: the count test
for a remote test, or a grant. -/
structure WaitSt where
  valid : Bool
  granted : Bool
  tid : Nat
  k : Nat
  queued : Bool
  reply : Option Bool
deriving DecidableEq, Repr

/-- No wait since load. -/
def WaitSt.none : WaitSt := ⟨false, false, 0, 0, false, Option.none⟩

/-- A stg whose descriptor is still to be read or checked (R124): well address, PC and NIB_CYCLE of stg, the bytes that had
left each ring then (R122), the descriptor once it has been read, whether a stgs has followed. -/
structure StgReq where
  addr : W64
  pc : Nat
  cyc : Nat
  heads : List Nat
  desc : Option (List Byte)
  stopping : Bool
deriving DecidableEq, Repr

/-- An active stage command (R121 to R126). `pc` and `cyc` are PC and NIB_CYCLE of its stg, `wins` the bytes that had left
each ring then, where its activation windows begin (R122), `tau` counts its unfrozen cycles since stg, `step` the steps
issued, `stop` the step after which it ends. -/
structure Stage where
  pc : Nat
  cyc : Nat
  wins : List Nat
  q : Nat
  steps : Nat
  tpred : Pred
  tp : MatF
  vop : Nat
  vt : VecF
  vpred : Pred
  expand : Bool
  brush : Bool
  streamOut : Bool
  streamIn : Bool
  sealOn : Bool
  done : Option Nat
  offpkg : Nat
  inSrc : W64
  inLen : Nat
  inDone : Nat
  tau : Nat
  step : Nat
  stop : Nat
  loads : Nat
  drained : Nat
  sets : Nat
  stopping : Bool
deriving DecidableEq, Repr

/-- A block header as the expander and the ribbon read it (R160). -/
structure BlockHdr where
  magic : Nat
  version : Nat
  kind : Nat
  outFmt : Nat
  factFmt : Nat
  resFmt : Nat
  resLayout : Nat
  bands : Nat
  rank : Nat
  rows : Nat
  cols : Nat
  expSize : Nat
  compSize : Nat
  commonSize : Nat
  pieceSize : Nat
  crc : Nat
  dirIndex : Nat
  epoch : Nat
deriving DecidableEq, Repr

/-- A block in the expander's factor buffer (R174): header, the U area as far as it has been read, its poison, the pass over
the slab's piece to which it belongs, and whether it is unusable (R178). -/
structure ExpBlock where
  hdr : BlockHdr
  u : List Byte
  uPoison : Bool
  pass : Nat
  bad : Bool
deriving DecidableEq, Repr

/-- A weight group in the expander's output buffer: its bytes, the poison of its 64 B words, and the tiles produced so far. -/
structure OutGroup where
  data : List Byte
  poison : List Bool
  tiles : Nat
deriving DecidableEq, Repr

/-- The expander (R170 to R179). A pass of the chain arrangement goes over one piece of a slab; passes are counted from the
job's first. `blocks` is the factor buffer, the block being expanded first; `hpass` the pass whose headers are read next and
`comPos` the bytes of the slab's common part read in it; `pass` the pass in production and `pos` the bytes of its piece taken;
`band` the band of a streamed block; `left` the bytes still to take of the present piece of a block and `skip` bytes to
discard before anything else; `piece` V_ROWS, NNZ and RES_SCALE; `v` the V area as far as it has been read; `nnz` the sparse
entries taken, `ents` those of the group in production; `grp` that group, `costs` the cycles of its tiles; `pois` a poison that
covers the rest of the piece; `fresh` that no block has been loaded since the stage began; `out` the output buffer; `parts`
and `col` the tiles and vectors that the weight port has taken of its first group. -/
structure Expander where
  blocks : List ExpBlock
  hpass : Nat
  comPos : Nat
  pass : Nat
  pos : Nat
  band : Nat
  left : Nat
  skip : Nat
  piece : Option (Nat × Nat × Nat)
  v : List Byte
  nnz : Nat
  ents : List Nat
  grp : Nat
  costs : List Nat
  pois : Bool
  fresh : Bool
  out : List OutGroup
  parts : Nat
  col : Nat
deriving DecidableEq, Repr

/-- An expander that has read nothing. -/
def Expander.idle : Expander := ⟨[], 0, 0, 0, 0, 0, 0, 0, none, [], 0, [], 0, [], false, true, [], 0, 0⟩

/-- A layer that a nib has completed in a pass (R344, R345): sum of its tile digests, tiles, whether a word was
poisoned. -/
structure SealDone where
  pass : Nat
  layer : Nat
  sum : Nat
  tiles : Nat
  poison : Bool
deriving DecidableEq, Repr

/-- The seal tile of a nib (R344): bytes of the current tile, tiles of the current layer, layer, pass, sum and poison
of the layer so far, layers completed. -/
structure SealTile where
  bytes : List Byte
  tile : Nat
  layer : Nat
  pass : Nat
  sum : Nat
  poison : Bool
  done : List SealDone
deriving DecidableEq, Repr

/-- A seal tile after load. -/
def SealTile.start : SealTile := ⟨[], 0, 0, 0, 0, false, []⟩

/-- A failed comparison that is not reported yet (R42): the cycle in which it is, its NIB_ABFT_LAST, and the cycle of the
comparison. -/
structure Check where
  due : Nat
  word : Nat
  cyc : Nat
deriving DecidableEq, Repr

/-- One nib. -/
structure Nib where
  /-- NIB_SEQ_STATUS.STATE (R104). -/
  st : Nat
  /-- PC of the next bundle (R74). -/
  pc : Nat
  /-- Bundles issued since load (NIB_ISSUED, R78); the count by which latencies are measured. -/
  clk : Nat
  /-- NIB_CYCLE (R78). -/
  cycle : Nat
  /-- NIB_WAIT_CYC (R78). -/
  waitCyc : Nat
  /-- The nib's own latch of NIB_CYCLE (R87). -/
  latch : Option W32
  /-- Scalar registers s1 to s31 (R75). -/
  sregs : NMap W32
  /-- Address registers (R75). -/
  aregs : NMap W64
  /-- Vector registers, lane by lane: key 64 v + lane (R75). -/
  vregs : NMap W32
  /-- Poison of the 64 B quarters of the vector registers: key 4 v + quarter (R116). -/
  vpoison : NMap Bool
  /-- Predicate registers p1 to p7 (R75). -/
  pregs : NMap W64
  /-- Accumulators (R24): key ((tine * 8 + bank) * 16 + row) * 16 + column. -/
  acc : NMap W32
  /-- Whether a tile's last step was an integer step (R58): key tine * 8 + bank. -/
  accInt : NMap Bool
  /-- Poison flags of the accumulator tiles (R24): key tine * 8 + bank. -/
  accPoison : NMap Bool
  /-- Writes that wait for their latency, oldest first (R77). -/
  pend : List Pend
  /-- Accumulator updates of stage steps, with the stage cycle from which they are seen (R29). -/
  stagePend : List Pend
  /-- Failed comparisons of steps still in the pipeline, oldest first (R28, R42). -/
  checks : List Check
  /-- A taken branch: target and delay bundles still to issue (R80). -/
  branch : Option (Nat × Nat)
  /-- The loop stack, innermost first (R83). -/
  loops : List Loop
  /-- Active stationary registers (R23): key tine * 16 + column. -/
  active : NMap Col
  /-- Shadow stationary registers (R23). -/
  shadow : NMap Col
  /-- Drain queues by tine (R20). -/
  drains : NMap (List DrainRow)
  /-- Running number of row sets (the model's own). -/
  drainSet : Nat
  /-- The sixteen ring buffers (R107). -/
  rings : NMap Ring
  /-- The well (R133). -/
  well : Mem
  /-- Poison bits of the well's 64 B words (R133). -/
  wellPoison : NMap Bool
  /-- Transfers with tags outstanding (R119). -/
  xfers : List Xfer
  /-- Running number of transfers (the model's own). -/
  xferNo : Nat
  /-- Signals held at the nib (R262). -/
  held : List Held
  /-- The nib's sixteen tallies (R247). -/
  tallies : NMap Tally
  /-- The wait registers (R271). -/
  wait : WaitSt
  /-- A bundle held before issue (R34, R128). -/
  hold : Option Hold
  /-- A stg whose descriptor is being read or checked (R124). -/
  stgReq : Option StgReq
  /-- The active stage (R121). -/
  stage : Option Stage
  /-- The expander (R170 to R179). -/
  exp : Expander
  /-- Bytes that the rotation engine has written into ROT since the job start (R141). -/
  rotBytes : Nat
  /-- Issue count and passes of the last vtopk (R93). -/
  topk : Option (Nat × Nat)
  /-- The layer-seal tile (R344). -/
  sealT : SealTile
  /-- Fabric time of the last bundle issued, for the hang watchdog (R267). -/
  lastIssue : Nat
  /-- halt has issued and work in flight has not completed (R88). -/
  ending : Bool
  /-- Lateness L (R332). -/
  late : Nat
  /-- Start offset in the job's stagger (R403). -/
  stagger : Nat
  /-- Bundle store (R74). -/
  code : List (BitVec 256)
  /-- The other registers of the nib's window, by window offset, absent = reset value (R50, R71, R104, R132, R159, R181, R271). -/
  regs : NMap W32
deriving DecidableEq, Repr

/-- A nib at package reset: no program, nothing held. -/
def Nib.reset : Nib :=
  { st := 0, pc := 0, clk := 0, cycle := 0, waitCyc := 0, latch := none, sregs := [], aregs := [], vregs := [],
    vpoison := [], pregs := [], acc := [], accInt := [], accPoison := [], pend := [], stagePend := [], checks := [], branch := none,
    loops := [], active := [], shadow := [], drains := [], drainSet := 0, rings := [], well := [], wellPoison := [], xfers := [],
    xferNo := 0, held := [], tallies := [], wait := WaitSt.none, hold := none, stgReq := none, stage := none, exp := Expander.idle,
    rotBytes := 0, topk := none, sealT := SealTile.start, lastIssue := 0, ending := false, late := 0, stagger := 0, code := [],
    regs := [] }

end Sys2Proof.Machine
end

