-- ==== Sys2Proof/Machine/Regs.lean ====
section
/-!
DEFINITION. The register map: one row per register (array) of the manual's register tables, with its BAR0 offset
(R8, R432), strides, access masks (R9) and reset value. Hub rows have absolute BAR0 offsets; nib rows are relative to
the nib window of R14.
-/
namespace Sys2Proof.Machine

/-- A register or an array of registers: base offset, two index ranges with their strides, the masks of the bits
with access RW, W1C and RWL (R9), the reset value, and its part in a 64-bit pair (R11): 0 none, 1 lower, 2 higher. -/
structure RegRow where
  base : Nat
  n1 : Nat
  s1 : Nat
  n2 : Nat
  s2 : Nat
  rw : Nat
  w1c : Nat
  rwl : Nat
  rst : Nat
  pair : Nat
deriving DecidableEq, Repr

/-- The indices of an offset in a row, if it lies in the row. -/
def RegRow.index (r : RegRow) (off : Nat) : Option (Nat × Nat) :=
  if off < r.base then none
  else
    let d := off - r.base
    let i := if r.s1 = 0 then 0 else d / r.s1
    let e := d - i * r.s1
    let j := if r.s2 = 0 then 0 else e / r.s2
    if i < r.n1 ∧ j < r.n2 ∧ e = j * r.s2 then some (i, j) else none

/-- NIB_ID (R50). -/
def Reg.NIB_ID : Nat := 0x0
/-- NIB_FRZ_TOTAL (R50). -/
def Reg.NIB_FRZ_TOTAL : Nat := 0x100
/-- NIB_FRZ_TOTAL (higher half) (R50). -/
def Reg.NIB_FRZ_TOTAL_HI : Nat := 0x104
/-- NIB_FRZ_WP (R50). -/
def Reg.NIB_FRZ_WP : Nat := 0x108
/-- NIB_FRZ_WP (higher half) (R50). -/
def Reg.NIB_FRZ_WP_HI : Nat := 0x10C
/-- NIB_FRZ_AP (R50). -/
def Reg.NIB_FRZ_AP : Nat := 0x110
/-- NIB_FRZ_AP (higher half) (R50). -/
def Reg.NIB_FRZ_AP_HI : Nat := 0x114
/-- NIB_FRZ_DR (R50). -/
def Reg.NIB_FRZ_DR : Nat := 0x118
/-- NIB_FRZ_DR (higher half) (R50). -/
def Reg.NIB_FRZ_DR_HI : Nat := 0x11C
/-- NIB_FRZ_EXT (R50). -/
def Reg.NIB_FRZ_EXT : Nat := 0x120
/-- NIB_FRZ_EXT (higher half) (R50). -/
def Reg.NIB_FRZ_EXT_HI : Nat := 0x124
/-- NIB_FRZ_CTRL (R50). -/
def Reg.NIB_FRZ_CTRL : Nat := 0x128
/-- NIB_ABFT_CTRL (R50). -/
def Reg.NIB_ABFT_CTRL : Nat := 0x200
/-- NIB_ABFT_STATUS (R50). -/
def Reg.NIB_ABFT_STATUS : Nat := 0x204
/-- NIB_ABFT_FENCE_COUNT (R50). -/
def Reg.NIB_ABFT_FENCE_COUNT : Nat := 0x208
/-- NIB_ABFT_LAST (R50). -/
def Reg.NIB_ABFT_LAST : Nat := 0x20C
/-- NIB_ABFT_LAST_CYC (R50). -/
def Reg.NIB_ABFT_LAST_CYC : Nat := 0x210
/-- NIB_ABFT_LAST_CYC (higher half) (R50). -/
def Reg.NIB_ABFT_LAST_CYC_HI : Nat := 0x214
/-- NIB_ARITH_STATUS (R71). -/
def Reg.NIB_ARITH_STATUS : Nat := 0x300
/-- NIB_SEQ_STATUS (R104). -/
def Reg.NIB_SEQ_STATUS : Nat := 0x400
/-- NIB_PC (R104). -/
def Reg.NIB_PC : Nat := 0x404
/-- NIB_CYCLE (R104). -/
def Reg.NIB_CYCLE : Nat := 0x408
/-- NIB_CYCLE (higher half) (R104). -/
def Reg.NIB_CYCLE_HI : Nat := 0x40C
/-- NIB_ISSUED (R104). -/
def Reg.NIB_ISSUED : Nat := 0x410
/-- NIB_ISSUED (higher half) (R104). -/
def Reg.NIB_ISSUED_HI : Nat := 0x414
/-- NIB_WAIT_CYC (R104). -/
def Reg.NIB_WAIT_CYC : Nat := 0x418
/-- NIB_WAIT_CYC (higher half) (R104). -/
def Reg.NIB_WAIT_CYC_HI : Nat := 0x41C
/-- NIB_FAULT (R104). -/
def Reg.NIB_FAULT : Nat := 0x420
/-- NIB_FAULT_PC (R104). -/
def Reg.NIB_FAULT_PC : Nat := 0x424
/-- NIB_FAULT_INFO (R104). -/
def Reg.NIB_FAULT_INFO : Nat := 0x428
/-- NIB_FAULT_CYC (R104). -/
def Reg.NIB_FAULT_CYC : Nat := 0x430
/-- NIB_FAULT_CYC (higher half) (R104). -/
def Reg.NIB_FAULT_CYC_HI : Nat := 0x434
/-- NIB_MTX_STATUS (R132). -/
def Reg.NIB_MTX_STATUS : Nat := 0x500
/-- NIB_STG_STATUS (R132). -/
def Reg.NIB_STG_STATUS : Nat := 0x504
/-- NIB_STG_STEPS (R132). -/
def Reg.NIB_STG_STEPS : Nat := 0x508
/-- NIB_STG_STEPS (higher half) (R132). -/
def Reg.NIB_STG_STEPS_HI : Nat := 0x50C
/-- NIB_RBi_CFG (R132). -/
def Reg.NIB_RB_CFG : Nat := 0x600
/-- NIB_RBi_FILL (R132). -/
def Reg.NIB_RB_FILL : Nat := 0x604
/-- NIB_WELL_CONFLICT (R159). -/
def Reg.NIB_WELL_CONFLICT : Nat := 0x700
/-- NIB_WELL_CONFLICT (higher half) (R159). -/
def Reg.NIB_WELL_CONFLICT_HI : Nat := 0x704
/-- NIB_WELL_ECC (R159). -/
def Reg.NIB_WELL_ECC : Nat := 0x708
/-- NIB_XFER_TAGS (R159). -/
def Reg.NIB_XFER_TAGS : Nat := 0x70C
/-- NIB_ROT_STATUS (R159). -/
def Reg.NIB_ROT_STATUS : Nat := 0x710
/-- NIB_POISON_DET (R159). -/
def Reg.NIB_POISON_DET : Nat := 0x714
/-- NIB_EXP_STATUS (R181). -/
def Reg.NIB_EXP_STATUS : Nat := 0x800
/-- NIB_EXP_BLOCK (R181). -/
def Reg.NIB_EXP_BLOCK : Nat := 0x804
/-- NIB_EXP_EPOCH (R181). -/
def Reg.NIB_EXP_EPOCH : Nat := 0x808
/-- NIB_EXP_ERR (R181). -/
def Reg.NIB_EXP_ERR : Nat := 0x80C
/-- NIB_EXP_GROUPS (R181). -/
def Reg.NIB_EXP_GROUPS : Nat := 0x810
/-- NIB_EXP_GROUPS (higher half) (R181). -/
def Reg.NIB_EXP_GROUPS_HI : Nat := 0x814
/-- NIB_EXP_BUSY (R181). -/
def Reg.NIB_EXP_BUSY : Nat := 0x818
/-- NIB_EXP_BUSY (higher half) (R181). -/
def Reg.NIB_EXP_BUSY_HI : Nat := 0x81C
/-- NIB_TALi (R271). -/
def Reg.NIB_TAL : Nat := 0x900
/-- NIB_TAL_WAIT (R271). -/
def Reg.NIB_TAL_WAIT : Nat := 0x940
/-- NIB_TAL_WAIT_K (R271). -/
def Reg.NIB_TAL_WAIT_K : Nat := 0x944
/-- NIB_TAL_SIGQ (R271). -/
def Reg.NIB_TAL_SIGQ : Nat := 0x948
/-- NIB_XM_LATE (R347). -/
def Reg.NIB_XM_LATE : Nat := 0xA00
/-- NIB_XM_LATE (higher half) (R347). -/
def Reg.NIB_XM_LATE_HI : Nat := 0xA04
/-- NIB_XM_SEAL (R347). -/
def Reg.NIB_XM_SEAL : Nat := 0xA08
/-- NIB_DIE_ID (R159). -/
def Reg.NIB_DIE_ID : Nat := 0x1600000
/-- NIB_DIE_LAND_STATUS (R159). -/
def Reg.NIB_DIE_LAND_STATUS : Nat := 0x1600010
/-- NIB_DIE_POISON (R159). -/
def Reg.NIB_DIE_POISON : Nat := 0x1600014
/-- NIB_DIE_MESH_STATUS (R159). -/
def Reg.NIB_DIE_MESH_STATUS : Nat := 0x1600020
/-- NIB_DIE_MESH_MISS (R159). -/
def Reg.NIB_DIE_MESH_MISS : Nat := 0x1600028
/-- NIB_DIE_MESH_MISS (higher half) (R159). -/
def Reg.NIB_DIE_MESH_MISS_HI : Nat := 0x160002C
/-- HUB_ID (R433). -/
def Reg.HUB_ID : Nat := 0x0
/-- HUB_CAP (R433). -/
def Reg.HUB_CAP : Nat := 0x4
/-- HUB_STATUS (R433). -/
def Reg.HUB_STATUS : Nat := 0x8
/-- HUB_ERR_SUMMARY (R435). -/
def Reg.HUB_ERR_SUMMARY : Nat := 0x20
/-- HUB_ERR_BLOCKS (R435). -/
def Reg.HUB_ERR_BLOCKS : Nat := 0x24
/-- HUB_ERR_PORTS (R435). -/
def Reg.HUB_ERR_PORTS : Nat := 0x28
/-- HUB_ERR_STACKS (R435). -/
def Reg.HUB_ERR_STACKS : Nat := 0x2C
/-- HUB_ERR_CLUSTERS (R435). -/
def Reg.HUB_ERR_CLUSTERS : Nat := 0x30
/-- HUB_ERR_CLUSTERS (higher half) (R435). -/
def Reg.HUB_ERR_CLUSTERS_HI : Nat := 0x34
/-- HUB_UNMAPPED_INFO (R433). -/
def Reg.HUB_UNMAPPED_INFO : Nat := 0x38
/-- HUB_UNMAPPED_ADDR (R433). -/
def Reg.HUB_UNMAPPED_ADDR : Nat := 0x3C
/-- HUB_SVC_UNIT (R431). -/
def Reg.HUB_SVC_UNIT : Nat := 0x2000
/-- HUB_SVC_CMD (R431). -/
def Reg.HUB_SVC_CMD : Nat := 0x2004
/-- HUB_SVC_STATUS (R431). -/
def Reg.HUB_SVC_STATUS : Nat := 0x2008
/-- HUB_SVC_INFO (R431). -/
def Reg.HUB_SVC_INFO : Nat := 0x200C
/-- HUB_OWL_STATUS (R431). -/
def Reg.HUB_OWL_STATUS : Nat := 0x2100
/-- HUB_FATAL_CODE (R431). -/
def Reg.HUB_FATAL_CODE : Nat := 0x2108
/-- HUB_FATAL_TIME (R431). -/
def Reg.HUB_FATAL_TIME : Nat := 0x2110
/-- HUB_FATAL_TIME (higher half) (R431). -/
def Reg.HUB_FATAL_TIME_HI : Nat := 0x2114
/-- HUB_CORR_THR (R431). -/
def Reg.HUB_CORR_THR : Nat := 0x2200
/-- HUB_SERIALw (R433). -/
def Reg.HUB_SERIAL : Nat := 0x10
/-- HUB_LOGn_CTRL (R431). -/
def Reg.HUB_LOG_CTRL : Nat := 0x10C00
/-- HUB_LOGn_STATUS (R431). -/
def Reg.HUB_LOG_STATUS : Nat := 0x10C04
/-- HUB_LOGn_SEQ (R431). -/
def Reg.HUB_LOG_SEQ : Nat := 0x10C08
/-- HUB_LOGn_SEQ_READ (R431). -/
def Reg.HUB_LOG_SEQ_READ : Nat := 0x10C0C
/-- HUB_LOGn_CNTk (R431). -/
def Reg.HUB_LOG_CNT : Nat := 0x10C10
/-- AVF_ID (R373). -/
def Reg.AVF_ID : Nat := 0x100000
/-- AVF_PORT0_STATUS (R373). -/
def Reg.AVF_PORT0_STATUS : Nat := 0x100004
/-- AVF_PORT1_STATUS (R373). -/
def Reg.AVF_PORT1_STATUS : Nat := 0x100008
/-- AVF_ERR (R373). -/
def Reg.AVF_ERR : Nat := 0x10000C
/-- AVF_PRI_TIMEOUT (R373). -/
def Reg.AVF_PRI_TIMEOUT : Nat := 0x100010
/-- AVF_CTXc_BIND (R373). -/
def Reg.AVF_CTX_BIND : Nat := 0x110000
/-- AVF_CTXc_POISON (R374). -/
def Reg.AVF_CTX_POISON : Nat := 0x110004
/-- AVF_CTXc_BAR4 (R374). -/
def Reg.AVF_CTX_BAR4 : Nat := 0x110008
/-- AVF_CTXc_BAR4 (higher half) (R374). -/
def Reg.AVF_CTX_BAR4_HI : Nat := 0x11000C
/-- AVF_CTXc_CLUSTERS (R374). -/
def Reg.AVF_CTX_CLUSTERS : Nat := 0x110010
/-- AVF_CTXc_CLUSTERS (higher half) (R374). -/
def Reg.AVF_CTX_CLUSTERS_HI : Nat := 0x110014
/-- AVF_Qq_CTRL (R374). -/
def Reg.AVF_Q_CTRL : Nat := 0x110400
/-- AVF_Qq_STATUS (R374). -/
def Reg.AVF_Q_STATUS : Nat := 0x110404
/-- AVF_Qq_SQ_BASE (R374). -/
def Reg.AVF_Q_SQ_BASE : Nat := 0x110408
/-- AVF_Qq_SQ_BASE (higher half) (R374). -/
def Reg.AVF_Q_SQ_BASE_HI : Nat := 0x11040C
/-- AVF_Qq_CQ_BASE (R374). -/
def Reg.AVF_Q_CQ_BASE : Nat := 0x110410
/-- AVF_Qq_CQ_BASE (higher half) (R374). -/
def Reg.AVF_Q_CQ_BASE_HI : Nat := 0x110414
/-- AVF_Qq_SIZE (R374). -/
def Reg.AVF_Q_SIZE : Nat := 0x110418
/-- AVF_Qq_SEQ_NEXT (R374). -/
def Reg.AVF_Q_SEQ_NEXT : Nat := 0x11041C
/-- AVF_Qq_ACCEPTED (R374). -/
def Reg.AVF_Q_ACCEPTED : Nat := 0x110420
/-- AVF_Qq_CSEQ (R374). -/
def Reg.AVF_Q_CSEQ : Nat := 0x110424
/-- AVF_Qq_JRNL (R374). -/
def Reg.AVF_Q_JRNL : Nat := 0x110428
/-- AVF_Qq_JRNL (higher half) (R374). -/
def Reg.AVF_Q_JRNL_HI : Nat := 0x11042C
/-- AVF_Qq_REPLAY (R374). -/
def Reg.AVF_Q_REPLAY : Nat := 0x110430
/-- AVF_Qq_OLDEST (R374). -/
def Reg.AVF_Q_OLDEST : Nat := 0x110434
/-- RIB_ID (R219). -/
def Reg.RIB_ID : Nat := 0x200000
/-- RIB_CTRL (R219). -/
def Reg.RIB_CTRL : Nat := 0x200004
/-- RIB_CMD (R219). -/
def Reg.RIB_CMD : Nat := 0x200008
/-- RIB_STATUS (R219). -/
def Reg.RIB_STATUS : Nat := 0x20000C
/-- RIB_SHAPE (R219). -/
def Reg.RIB_SHAPE : Nat := 0x200010
/-- RIB_LAYOUT (R219). -/
def Reg.RIB_LAYOUT : Nat := 0x200014
/-- RIB_LAYOUT_BLOCKS (R219). -/
def Reg.RIB_LAYOUT_BLOCKS : Nat := 0x200018
/-- RIB_LAP (R219). -/
def Reg.RIB_LAP : Nat := 0x200020
/-- RIB_EPOCH_A (R219). -/
def Reg.RIB_EPOCH_A : Nat := 0x200024
/-- RIB_EPOCH_B (R219). -/
def Reg.RIB_EPOCH_B : Nat := 0x200028
/-- RIB_SETS (R219). -/
def Reg.RIB_SETS : Nat := 0x20002C
/-- RIB_SWITCH (R219). -/
def Reg.RIB_SWITCH : Nat := 0x200030
/-- RIB_SWITCH_LAP (R219). -/
def Reg.RIB_SWITCH_LAP : Nat := 0x200034
/-- RIB_LIVE_A (R219). -/
def Reg.RIB_LIVE_A : Nat := 0x200038
/-- RIB_LIVE_B (R219). -/
def Reg.RIB_LIVE_B : Nat := 0x20003C
/-- RIB_LAP_TIME (R219). -/
def Reg.RIB_LAP_TIME : Nat := 0x200040
/-- RIB_LAP_TIME (higher half) (R219). -/
def Reg.RIB_LAP_TIME_HI : Nat := 0x200044
/-- RIB_ADMIT_TALLY (R219). -/
def Reg.RIB_ADMIT_TALLY : Nat := 0x200048
/-- RIB_CLOSE_TALLY (R219). -/
def Reg.RIB_CLOSE_TALLY : Nat := 0x20004C
/-- RIB_LAPREC_BASE (R219). -/
def Reg.RIB_LAPREC_BASE : Nat := 0x200050
/-- RIB_LAPREC_BASE (higher half) (R219). -/
def Reg.RIB_LAPREC_BASE_HI : Nat := 0x200054
/-- RIB_HOP_TIMEOUT (R219). -/
def Reg.RIB_HOP_TIMEOUT : Nat := 0x200058
/-- RIB_ERR (R219). -/
def Reg.RIB_ERR : Nat := 0x200060
/-- RIB_ERR_INFO (R219). -/
def Reg.RIB_ERR_INFO : Nat := 0x200064
/-- RIB_POISON_BLOCKS (R219). -/
def Reg.RIB_POISON_BLOCKS : Nat := 0x200068
/-- RIB_DIR_INDEX (R219). -/
def Reg.RIB_DIR_INDEX : Nat := 0x200100
/-- RIB_DIR_DATAw (R219). -/
def Reg.RIB_DIR_DATA : Nat := 0x200120
/-- RTR_ID (R326). -/
def Reg.RTR_ID : Nat := 0x300000
/-- RTR_SLAB_STATUS (R326). -/
def Reg.RTR_SLAB_STATUS : Nat := 0x300004
/-- RTR_SLAB_ECC (R326). -/
def Reg.RTR_SLAB_ECC : Nat := 0x300008
/-- RTR_COLL_ERR (R326). -/
def Reg.RTR_COLL_ERR : Nat := 0x300010
/-- RTR_COLL_ERR_INFO (R326). -/
def Reg.RTR_COLL_ERR_INFO : Nat := 0x300014
/-- RTR_COLL_POISON (R326). -/
def Reg.RTR_COLL_POISON : Nat := 0x300018
/-- RTR_COLL_ENDPOINT (R326). -/
def Reg.RTR_COLL_ENDPOINT : Nat := 0x30001C
/-- RTR_CTXc_SLAB (R326). -/
def Reg.RTR_CTX_SLAB : Nat := 0x300100
/-- RTR_CTXc_COLL (R326). -/
def Reg.RTR_CTX_COLL : Nat := 0x300104
/-- RTR_CTXc_DONE (R326). -/
def Reg.RTR_CTX_DONE : Nat := 0x300108
/-- RTR_CTXc_HOLES (R326). -/
def Reg.RTR_CTX_HOLES : Nat := 0x30010C
/-- RTR_CTXc_HOLEn (R326). -/
def Reg.RTR_CTX_HOLE : Nat := 0x300110
/-- LNK_STATUS (R300). -/
def Reg.LNK_STATUS : Nat := 0x400000
/-- LNK_CTRL (R300). -/
def Reg.LNK_CTRL : Nat := 0x400004
/-- LNK_PLAN_PEER (R300). -/
def Reg.LNK_PLAN_PEER : Nat := 0x400008
/-- LNK_FOUND_PEER (R300). -/
def Reg.LNK_FOUND_PEER : Nat := 0x40000C
/-- LNK_PEER_INFO (R300). -/
def Reg.LNK_PEER_INFO : Nat := 0x400010
/-- LNK_PEER_IDENT (R300). -/
def Reg.LNK_PEER_IDENT : Nat := 0x400018
/-- LNK_PEER_IDENT (higher half) (R300). -/
def Reg.LNK_PEER_IDENT_HI : Nat := 0x40001C
/-- LNK_FEC_CORR (R300). -/
def Reg.LNK_FEC_CORR : Nat := 0x400020
/-- LNK_FEC_CORR (higher half) (R300). -/
def Reg.LNK_FEC_CORR_HI : Nat := 0x400024
/-- LNK_FEC_UNCORR (R300). -/
def Reg.LNK_FEC_UNCORR : Nat := 0x400028
/-- LNK_FEC_UNCORR (higher half) (R300). -/
def Reg.LNK_FEC_UNCORR_HI : Nat := 0x40002C
/-- LNK_REPLAYS (R300). -/
def Reg.LNK_REPLAYS : Nat := 0x400030
/-- LNK_ERR (R300). -/
def Reg.LNK_ERR : Nat := 0x400034
/-- LNK_TRANSIT (R300). -/
def Reg.LNK_TRANSIT : Nat := 0x400038
/-- LNK_LANE_MARGIN (R300). -/
def Reg.LNK_LANE_MARGIN : Nat := 0x40003C
/-- LNK_CAL (R300). -/
def Reg.LNK_CAL : Nat := 0x400040
/-- LNK_ARB (R300). -/
def Reg.LNK_ARB : Nat := 0x400044
/-- LNK_ID (R301). -/
def Reg.LNK_ID : Nat := 0x420000
/-- LNK_PROFILE (R301). -/
def Reg.LNK_PROFILE : Nat := 0x420004
/-- LNK_ADDR (R301). -/
def Reg.LNK_ADDR : Nat := 0x420008
/-- LNK_SWAP (R301). -/
def Reg.LNK_SWAP : Nat := 0x42000C
/-- LNK_JOBTAG_DROP (R301). -/
def Reg.LNK_JOBTAG_DROP : Nat := 0x420010
/-- LNK_ROUTE_WIN (R301). -/
def Reg.LNK_ROUTE_WIN : Nat := 0x420100
/-- LNK_ROUTE_DATA0 (R301). -/
def Reg.LNK_ROUTE_DATA0 : Nat := 0x420104
/-- LNK_ROUTE_DATA1 (R301). -/
def Reg.LNK_ROUTE_DATA1 : Nat := 0x420108
/-- LNK_CTXc_TAG (R301). -/
def Reg.LNK_CTX_TAG : Nat := 0x420040
/-- LNK_CTXc_BLOCK (R301). -/
def Reg.LNK_CTX_BLOCK : Nat := 0x420080
/-- MEM_STK_ID (R453). -/
def Reg.MEM_STK_ID : Nat := 0x500000
/-- MEM_STK_STATUS (R453). -/
def Reg.MEM_STK_STATUS : Nat := 0x500004
/-- MEM_CHc_STATUS (R453). -/
def Reg.MEM_CH_STATUS : Nat := 0x500100
/-- MEM_CHc_ECC (R453). -/
def Reg.MEM_CH_ECC : Nat := 0x500104
/-- MEM_CHc_POISON (R453). -/
def Reg.MEM_CH_POISON : Nat := 0x500108
/-- MEM_CHc_CAL (R453). -/
def Reg.MEM_CH_CAL : Nat := 0x50010C
/-- MEM_ID (R246). -/
def Reg.MEM_ID : Nat := 0x580000
/-- MEM_CMD (R246). -/
def Reg.MEM_CMD : Nat := 0x580004
/-- MEM_CMD_STATUS (R246). -/
def Reg.MEM_CMD_STATUS : Nat := 0x580008
/-- MEM_ERR (R246). -/
def Reg.MEM_ERR : Nat := 0x58000C
/-- MEM_ERR_INFO (R246). -/
def Reg.MEM_ERR_INFO : Nat := 0x580010
/-- MEM_FAR_STATUS (R246). -/
def Reg.MEM_FAR_STATUS : Nat := 0x580020
/-- MEM_FAR_SIZE (R246). -/
def Reg.MEM_FAR_SIZE : Nat := 0x580024
/-- MEM_REGr_BASE (R453). -/
def Reg.MEM_REG_BASE : Nat := 0x581000
/-- MEM_REGr_EXTENT (R453). -/
def Reg.MEM_REG_EXTENT : Nat := 0x581004
/-- MEM_REGr_CHBASE (R453). -/
def Reg.MEM_REG_CHBASE : Nat := 0x581008
/-- MEM_REGr_CFG (R453). -/
def Reg.MEM_REG_CFG : Nat := 0x58100C
/-- MEM_REGr_STATUS (R453). -/
def Reg.MEM_REG_STATUS : Nat := 0x581010
/-- SEC_ID (R397). -/
def Reg.SEC_ID : Nat := 0x600000
/-- SEC_BOOT_STATUS (R397). -/
def Reg.SEC_BOOT_STATUS : Nat := 0x600004
/-- SEC_ERR (R397). -/
def Reg.SEC_ERR : Nat := 0x600008
/-- SEC_ERR_INFO (R397). -/
def Reg.SEC_ERR_INFO : Nat := 0x60000C
/-- SEC_VERIFY_FAIL (R397). -/
def Reg.SEC_VERIFY_FAIL : Nat := 0x600010
/-- SEC_IDENTw (R397). -/
def Reg.SEC_IDENT : Nat := 0x600020
/-- SEC_NONCEw (R397). -/
def Reg.SEC_NONCE : Nat := 0x600040
/-- SEC_OWNERw (R397). -/
def Reg.SEC_OWNER : Nat := 0x600060
/-- SEC_FLOORt (R397). -/
def Reg.SEC_FLOOR : Nat := 0x600084
/-- SEC_SVNt (R397). -/
def Reg.SEC_SVN : Nat := 0x6000C4
/-- SEC_SEALc_IMGw (R347). -/
def Reg.SEC_SEAL_IMG : Nat := 0x604000
/-- SEC_SEALc_LOG (R347). -/
def Reg.SEC_SEAL_LOG : Nat := 0x604020
/-- SEC_SEALc_LOG (higher half) (R347). -/
def Reg.SEC_SEAL_LOG_HI : Nat := 0x604024
/-- SEC_SEALc_LOGCFG (R347). -/
def Reg.SEC_SEAL_LOGCFG : Nat := 0x604028
/-- PWR_ID (R411). -/
def Reg.PWR_ID : Nat := 0x700000
/-- PWR_STATUS (R411). -/
def Reg.PWR_STATUS : Nat := 0x700004
/-- PWR_ERR (R411). -/
def Reg.PWR_ERR : Nat := 0x700008
/-- PWR_CAP (R411). -/
def Reg.PWR_CAP : Nat := 0x700010
/-- PWR_CLK_MAX (R411). -/
def Reg.PWR_CLK_MAX : Nat := 0x700014
/-- PWR_IN (R411). -/
def Reg.PWR_IN : Nat := 0x700018
/-- PWR_IN_POWER (R411). -/
def Reg.PWR_IN_POWER : Nat := 0x70001C
/-- PWR_CLKSTOP_COUNT (R411). -/
def Reg.PWR_CLKSTOP_COUNT : Nat := 0x700020
/-- PWR_HUB_TEMP (R411). -/
def Reg.PWR_HUB_TEMP : Nat := 0x700060
/-- PWR_DIEd_CLK (R411). -/
def Reg.PWR_DIE_CLK : Nat := 0x700040
/-- PWR_DIEd_TEMP (R411). -/
def Reg.PWR_DIE_TEMP : Nat := 0x700050
/-- PWR_DOMi_STATE (R411). -/
def Reg.PWR_DOM_STATE : Nat := 0x700100
/-- PWR_DOMi_POWER (R411). -/
def Reg.PWR_DOM_POWER : Nat := 0x700104
/-- FTC_ID (R302). -/
def Reg.FTC_ID : Nat := 0x800000
/-- FTC_NOW (R302). -/
def Reg.FTC_NOW : Nat := 0x800008
/-- FTC_NOW (higher half) (R302). -/
def Reg.FTC_NOW_HI : Nat := 0x80000C
/-- FTC_STATUS (R302). -/
def Reg.FTC_STATUS : Nat := 0x800010
/-- FTC_OFFSET (R302). -/
def Reg.FTC_OFFSET : Nat := 0x800014
/-- FTC_RATE (R302). -/
def Reg.FTC_RATE : Nat := 0x800018
/-- FTC_BOUND (R302). -/
def Reg.FTC_BOUND : Nat := 0x80001C
/-- FTC_CTRL (R302). -/
def Reg.FTC_CTRL : Nat := 0x800020
/-- FTC_ERR (R302). -/
def Reg.FTC_ERR : Nat := 0x800024
/-- FTC_TAL_ID (R271). -/
def Reg.FTC_TAL_ID : Nat := 0x801000
/-- FTC_TALc_HUB (R271). -/
def Reg.FTC_TALC_HUB : Nat := 0x801400
/-- FTC_TALc_POS (R271). -/
def Reg.FTC_TALC_POS : Nat := 0x801404
/-- FTC_TALc_HANG_CTRL (R271). -/
def Reg.FTC_TALC_HANG_CTRL : Nat := 0x801408
/-- FTC_TALc_STATUS (R271). -/
def Reg.FTC_TALC_STATUS : Nat := 0x80140C
/-- FTC_TALc_HANG_NIB (R271). -/
def Reg.FTC_TALC_HANG_NIB : Nat := 0x801410
/-- FTC_TALc_HANG_TID (R271). -/
def Reg.FTC_TALC_HANG_TID : Nat := 0x801414
/-- FTC_TALc_HANG_TIME (R271). -/
def Reg.FTC_TALC_HANG_TIME : Nat := 0x801418
/-- FTC_TALc_HANG_TIME (higher half) (R271). -/
def Reg.FTC_TALC_HANG_TIME_HI : Nat := 0x80141C
/-- FTC_TALc_DROPPED (R271). -/
def Reg.FTC_TALC_DROPPED : Nat := 0x801420
/-- FTC_TAL_WIN (R271). -/
def Reg.FTC_TAL_WIN : Nat := 0x801800
/-- FTC_TAL_WIN_DATAw (R271). -/
def Reg.FTC_TAL_WIN_DATA : Nat := 0x801810
/-- FTC_CTXc_MODE (R347). -/
def Reg.FTC_CTX_MODE : Nat := 0x802000
/-- FTC_CTXc_START (R347). -/
def Reg.FTC_CTX_START : Nat := 0x802008
/-- FTC_CTXc_START (higher half) (R347). -/
def Reg.FTC_CTX_START_HI : Nat := 0x80200C
/-- FTC_CTXc_START_STATUS (R347). -/
def Reg.FTC_CTX_START_STATUS : Nat := 0x802010
/-- FTC_CTXc_LEAD (R347). -/
def Reg.FTC_CTX_LEAD : Nat := 0x802014
/-- FTC_TALLYt (R271). -/
def Reg.FTC_TALLY : Nat := 0x810000
/-- Part 0 of the nib register map. -/
def nibRows0 : List RegRow :=
  [⟨Reg.NIB_ID, 1, 0x0, 1, 0x0, 0x0, 0x0, 0x0, 0x10000000, 0⟩,
   ⟨Reg.NIB_FRZ_TOTAL, 1, 0x0, 1, 0x0, 0x0, 0x0, 0x0, 0x0, 1⟩,
   ⟨Reg.NIB_FRZ_TOTAL_HI, 1, 0x0, 1, 0x0, 0x0, 0x0, 0x0, 0x0, 2⟩,
   ⟨Reg.NIB_FRZ_WP, 1, 0x0, 1, 0x0, 0x0, 0x0, 0x0, 0x0, 1⟩,
   ⟨Reg.NIB_FRZ_WP_HI, 1, 0x0, 1, 0x0, 0x0, 0x0, 0x0, 0x0, 2⟩,
   ⟨Reg.NIB_FRZ_AP, 1, 0x0, 1, 0x0, 0x0, 0x0, 0x0, 0x0, 1⟩,
   ⟨Reg.NIB_FRZ_AP_HI, 1, 0x0, 1, 0x0, 0x0, 0x0, 0x0, 0x0, 2⟩,
   ⟨Reg.NIB_FRZ_DR, 1, 0x0, 1, 0x0, 0x0, 0x0, 0x0, 0x0, 1⟩,
   ⟨Reg.NIB_FRZ_DR_HI, 1, 0x0, 1, 0x0, 0x0, 0x0, 0x0, 0x0, 2⟩,
   ⟨Reg.NIB_FRZ_EXT, 1, 0x0, 1, 0x0, 0x0, 0x0, 0x0, 0x0, 1⟩,
   ⟨Reg.NIB_FRZ_EXT_HI, 1, 0x0, 1, 0x0, 0x0, 0x0, 0x0, 0x0, 2⟩,
   ⟨Reg.NIB_FRZ_CTRL, 1, 0x0, 1, 0x0, 0x0, 0x0, 0x0, 0x0, 0⟩,
   ⟨Reg.NIB_ABFT_CTRL, 1, 0x0, 1, 0x0, 0x0, 0x0, 0xF1F01, 0x30C01, 0⟩,
   ⟨Reg.NIB_ABFT_STATUS, 1, 0x0, 1, 0x0, 0x0, 0x3, 0x0, 0x0, 0⟩,
   ⟨Reg.NIB_ABFT_FENCE_COUNT, 1, 0x0, 1, 0x0, 0x0, 0x0, 0x0, 0x0, 0⟩,
   ⟨Reg.NIB_ABFT_LAST, 1, 0x0, 1, 0x0, 0x0, 0x0, 0x0, 0x0, 0⟩,
   ⟨Reg.NIB_ABFT_LAST_CYC, 1, 0x0, 1, 0x0, 0x0, 0x0, 0x0, 0x0, 1⟩,
   ⟨Reg.NIB_ABFT_LAST_CYC_HI, 1, 0x0, 1, 0x0, 0x0, 0x0, 0x0, 0x0, 2⟩,
   ⟨Reg.NIB_ARITH_STATUS, 1, 0x0, 1, 0x0, 0x0, 0xF, 0x0, 0x0, 0⟩,
   ⟨Reg.NIB_SEQ_STATUS, 1, 0x0, 1, 0x0, 0x0, 0x0, 0x0, 0x0, 0⟩]
/-- Part 1 of the nib register map. -/
def nibRows1 : List RegRow :=
  [⟨Reg.NIB_PC, 1, 0x0, 1, 0x0, 0x0, 0x0, 0x0, 0x0, 0⟩,
   ⟨Reg.NIB_CYCLE, 1, 0x0, 1, 0x0, 0x0, 0x0, 0x0, 0x0, 1⟩,
   ⟨Reg.NIB_CYCLE_HI, 1, 0x0, 1, 0x0, 0x0, 0x0, 0x0, 0x0, 2⟩,
   ⟨Reg.NIB_ISSUED, 1, 0x0, 1, 0x0, 0x0, 0x0, 0x0, 0x0, 1⟩,
   ⟨Reg.NIB_ISSUED_HI, 1, 0x0, 1, 0x0, 0x0, 0x0, 0x0, 0x0, 2⟩,
   ⟨Reg.NIB_WAIT_CYC, 1, 0x0, 1, 0x0, 0x0, 0x0, 0x0, 0x0, 1⟩,
   ⟨Reg.NIB_WAIT_CYC_HI, 1, 0x0, 1, 0x0, 0x0, 0x0, 0x0, 0x0, 2⟩,
   ⟨Reg.NIB_FAULT, 1, 0x0, 1, 0x0, 0x0, 0x3, 0x0, 0x0, 0⟩,
   ⟨Reg.NIB_FAULT_PC, 1, 0x0, 1, 0x0, 0x0, 0x0, 0x0, 0x0, 0⟩,
   ⟨Reg.NIB_FAULT_INFO, 1, 0x0, 1, 0x0, 0x0, 0x0, 0x0, 0x0, 0⟩,
   ⟨Reg.NIB_FAULT_CYC, 1, 0x0, 1, 0x0, 0x0, 0x0, 0x0, 0x0, 1⟩,
   ⟨Reg.NIB_FAULT_CYC_HI, 1, 0x0, 1, 0x0, 0x0, 0x0, 0x0, 0x0, 2⟩,
   ⟨Reg.NIB_MTX_STATUS, 1, 0x0, 1, 0x0, 0x0, 0x1, 0x0, 0x0, 0⟩,
   ⟨Reg.NIB_STG_STATUS, 1, 0x0, 1, 0x0, 0x0, 0x4, 0x0, 0x0, 0⟩,
   ⟨Reg.NIB_STG_STEPS, 1, 0x0, 1, 0x0, 0x0, 0x0, 0x0, 0x0, 1⟩,
   ⟨Reg.NIB_STG_STEPS_HI, 1, 0x0, 1, 0x0, 0x0, 0x0, 0x0, 0x0, 2⟩,
   ⟨Reg.NIB_RB_CFG, 16, 0x8, 1, 0x0, 0x0, 0x0, 0x0, 0x0, 0⟩,
   ⟨Reg.NIB_RB_FILL, 16, 0x8, 1, 0x0, 0x0, 0x0, 0x0, 0x0, 0⟩,
   ⟨Reg.NIB_WELL_CONFLICT, 1, 0x0, 1, 0x0, 0x0, 0x0, 0x0, 0x0, 1⟩,
   ⟨Reg.NIB_WELL_CONFLICT_HI, 1, 0x0, 1, 0x0, 0x0, 0x0, 0x0, 0x0, 2⟩]
/-- Part 2 of the nib register map. -/
def nibRows2 : List RegRow :=
  [⟨Reg.NIB_WELL_ECC, 1, 0x0, 1, 0x0, 0x0, 0x10000, 0x0, 0x0, 0⟩,
   ⟨Reg.NIB_XFER_TAGS, 1, 0x0, 1, 0x0, 0x0, 0x0, 0x0, 0x20, 0⟩,
   ⟨Reg.NIB_ROT_STATUS, 1, 0x0, 1, 0x0, 0x0, 0x0, 0x0, 0x0, 0⟩,
   ⟨Reg.NIB_POISON_DET, 1, 0x0, 1, 0x0, 0x0, 0x10000, 0x0, 0x0, 0⟩,
   ⟨Reg.NIB_EXP_STATUS, 1, 0x0, 1, 0x0, 0x0, 0x7E, 0x0, 0x0, 0⟩,
   ⟨Reg.NIB_EXP_BLOCK, 1, 0x0, 1, 0x0, 0x0, 0x0, 0x0, 0x0, 0⟩,
   ⟨Reg.NIB_EXP_EPOCH, 1, 0x0, 1, 0x0, 0x0, 0x0, 0x0, 0x0, 0⟩,
   ⟨Reg.NIB_EXP_ERR, 1, 0x0, 1, 0x0, 0x0, 0x0, 0x0, 0x0, 0⟩,
   ⟨Reg.NIB_EXP_GROUPS, 1, 0x0, 1, 0x0, 0x0, 0x0, 0x0, 0x0, 1⟩,
   ⟨Reg.NIB_EXP_GROUPS_HI, 1, 0x0, 1, 0x0, 0x0, 0x0, 0x0, 0x0, 2⟩,
   ⟨Reg.NIB_EXP_BUSY, 1, 0x0, 1, 0x0, 0x0, 0x0, 0x0, 0x0, 1⟩,
   ⟨Reg.NIB_EXP_BUSY_HI, 1, 0x0, 1, 0x0, 0x0, 0x0, 0x0, 0x0, 2⟩,
   ⟨Reg.NIB_TAL, 16, 0x4, 1, 0x0, 0x0, 0x10000, 0x0, 0x0, 0⟩,
   ⟨Reg.NIB_TAL_WAIT, 1, 0x0, 1, 0x0, 0x0, 0x0, 0x0, 0x0, 0⟩,
   ⟨Reg.NIB_TAL_WAIT_K, 1, 0x0, 1, 0x0, 0x0, 0x0, 0x0, 0x0, 0⟩,
   ⟨Reg.NIB_TAL_SIGQ, 1, 0x0, 1, 0x0, 0x0, 0x0, 0x0, 0x0, 0⟩,
   ⟨Reg.NIB_XM_LATE, 1, 0x0, 1, 0x0, 0x0, 0x0, 0x0, 0x0, 1⟩,
   ⟨Reg.NIB_XM_LATE_HI, 1, 0x0, 1, 0x0, 0x0, 0x0, 0x0, 0x0, 2⟩,
   ⟨Reg.NIB_XM_SEAL, 1, 0x0, 1, 0x0, 0x0, 0x0, 0x0, 0x0, 0⟩]
/-- The nib register map. -/
def nibRows : List RegRow :=
  nibRows0 ++ nibRows1 ++ nibRows2
/-- Part 0 of the hub register map. -/
def hubRows0 : List RegRow :=
  [⟨Reg.NIB_DIE_ID, 4, 0x800000, 1, 0x0, 0x0, 0x0, 0x0, 0x10000000, 0⟩,
   ⟨Reg.NIB_DIE_LAND_STATUS, 4, 0x800000, 1, 0x0, 0x0, 0x0, 0x0, 0x400, 0⟩,
   ⟨Reg.NIB_DIE_POISON, 4, 0x800000, 1, 0x0, 0x0, 0x10000, 0x0, 0x60000, 0⟩,
   ⟨Reg.NIB_DIE_MESH_STATUS, 4, 0x800000, 1, 0x0, 0x0, 0x0, 0x0, 0x0, 0⟩,
   ⟨Reg.NIB_DIE_MESH_MISS, 4, 0x800000, 1, 0x0, 0x0, 0x0, 0x0, 0x0, 1⟩,
   ⟨Reg.NIB_DIE_MESH_MISS_HI, 4, 0x800000, 1, 0x0, 0x0, 0x0, 0x0, 0x0, 2⟩,
   ⟨Reg.HUB_ID, 1, 0x0, 1, 0x0, 0x0, 0x0, 0x0, 0x10011F4B, 0⟩,
   ⟨Reg.HUB_CAP, 1, 0x0, 1, 0x0, 0x0, 0x0, 0x0, 0x801000, 0⟩,
   ⟨Reg.HUB_STATUS, 1, 0x0, 1, 0x0, 0x0, 0x0, 0x0, 0x0, 0⟩,
   ⟨Reg.HUB_ERR_SUMMARY, 1, 0x0, 1, 0x0, 0x0, 0x20000, 0x0, 0x0, 0⟩,
   ⟨Reg.HUB_ERR_BLOCKS, 1, 0x0, 1, 0x0, 0x0, 0x0, 0x0, 0x0, 0⟩,
   ⟨Reg.HUB_ERR_PORTS, 1, 0x0, 1, 0x0, 0x0, 0x0, 0x0, 0x0, 0⟩,
   ⟨Reg.HUB_ERR_STACKS, 1, 0x0, 1, 0x0, 0x0, 0x0, 0x0, 0x0, 0⟩,
   ⟨Reg.HUB_ERR_CLUSTERS, 1, 0x0, 1, 0x0, 0x0, 0x0, 0x0, 0x0, 1⟩,
   ⟨Reg.HUB_ERR_CLUSTERS_HI, 1, 0x0, 1, 0x0, 0x0, 0x0, 0x0, 0x0, 2⟩,
   ⟨Reg.HUB_UNMAPPED_INFO, 1, 0x0, 1, 0x0, 0x0, 0x0, 0x0, 0x0, 0⟩,
   ⟨Reg.HUB_UNMAPPED_ADDR, 1, 0x0, 1, 0x0, 0x0, 0x0, 0x0, 0x0, 0⟩,
   ⟨Reg.HUB_SVC_UNIT, 1, 0x0, 1, 0x0, 0xFFFFF, 0x0, 0x0, 0x0, 0⟩,
   ⟨Reg.HUB_SVC_CMD, 1, 0x0, 1, 0x0, 0x0, 0x0, 0x0, 0x0, 0⟩,
   ⟨Reg.HUB_SVC_STATUS, 1, 0x0, 1, 0x0, 0x0, 0x0, 0x0, 0x0, 0⟩]
/-- Part 1 of the hub register map. -/
def hubRows1 : List RegRow :=
  [⟨Reg.HUB_SVC_INFO, 1, 0x0, 1, 0x0, 0x0, 0x0, 0x0, 0x0, 0⟩,
   ⟨Reg.HUB_OWL_STATUS, 1, 0x0, 1, 0x0, 0x0, 0xC00, 0x0, 0x0, 0⟩,
   ⟨Reg.HUB_FATAL_CODE, 1, 0x0, 1, 0x0, 0x0, 0x0, 0x0, 0x0, 0⟩,
   ⟨Reg.HUB_FATAL_TIME, 1, 0x0, 1, 0x0, 0x0, 0x0, 0x0, 0x0, 1⟩,
   ⟨Reg.HUB_FATAL_TIME_HI, 1, 0x0, 1, 0x0, 0x0, 0x0, 0x0, 0x0, 2⟩,
   ⟨Reg.HUB_CORR_THR, 1, 0x0, 1, 0x0, 0xFFFF, 0x0, 0x0, 0x3E8, 0⟩,
   ⟨Reg.HUB_SERIAL, 4, 0x4, 1, 0x0, 0x0, 0x0, 0x0, 0x0, 0⟩,
   ⟨Reg.HUB_LOG_CTRL, 17, 0x1000, 1, 0x0, 0x7FFF, 0x0, 0x0, 0xE, 0⟩,
   ⟨Reg.HUB_LOG_STATUS, 17, 0x1000, 1, 0x0, 0x0, 0x1F, 0x0, 0x0, 0⟩,
   ⟨Reg.HUB_LOG_SEQ, 17, 0x1000, 1, 0x0, 0x0, 0x0, 0x0, 0x0, 0⟩,
   ⟨Reg.HUB_LOG_SEQ_READ, 17, 0x1000, 1, 0x0, 0xFFFFFFFF, 0x0, 0x0, 0x0, 0⟩,
   ⟨Reg.HUB_LOG_CNT, 17, 0x1000, 4, 0x4, 0x0, 0x0, 0x0, 0x0, 0⟩,
   ⟨Reg.AVF_ID, 1, 0x0, 1, 0x0, 0x0, 0x0, 0x0, 0x10000010, 0⟩,
   ⟨Reg.AVF_PORT0_STATUS, 1, 0x0, 1, 0x0, 0x0, 0x0, 0x0, 0x0, 0⟩,
   ⟨Reg.AVF_PORT1_STATUS, 1, 0x0, 1, 0x0, 0x0, 0x0, 0x0, 0x0, 0⟩,
   ⟨Reg.AVF_ERR, 1, 0x0, 1, 0x0, 0x0, 0x7, 0x0, 0x0, 0⟩,
   ⟨Reg.AVF_PRI_TIMEOUT, 1, 0x0, 1, 0x0, 0xFFFF, 0x0, 0x0, 0x3E8, 0⟩,
   ⟨Reg.AVF_CTX_BIND, 16, 0x1000, 1, 0x0, 0x0, 0x0, 0x1, 0x0, 0⟩,
   ⟨Reg.AVF_CTX_POISON, 16, 0x1000, 1, 0x0, 0x0, 0x0, 0x0, 0x0, 0⟩,
   ⟨Reg.AVF_CTX_BAR4, 16, 0x1000, 1, 0x0, 0xFFFFFFFF, 0x0, 0x0, 0x0, 1⟩]
/-- Part 2 of the hub register map. -/
def hubRows2 : List RegRow :=
  [⟨Reg.AVF_CTX_BAR4_HI, 16, 0x1000, 1, 0x0, 0xFFFFFFFF, 0x0, 0x0, 0x0, 2⟩,
   ⟨Reg.AVF_CTX_CLUSTERS, 16, 0x1000, 1, 0x0, 0x0, 0x0, 0xFFFFFFFF, 0x0, 1⟩,
   ⟨Reg.AVF_CTX_CLUSTERS_HI, 16, 0x1000, 1, 0x0, 0x0, 0x0, 0xFFFF, 0x0, 2⟩,
   ⟨Reg.AVF_Q_CTRL, 16, 0x1000, 16, 0x40, 0x1FFF, 0x0, 0x0, 0x0, 0⟩,
   ⟨Reg.AVF_Q_STATUS, 16, 0x1000, 16, 0x40, 0x0, 0x18, 0x0, 0x4, 0⟩,
   ⟨Reg.AVF_Q_SQ_BASE, 16, 0x1000, 16, 0x40, 0xFFFFFFFF, 0x0, 0x0, 0x0, 1⟩,
   ⟨Reg.AVF_Q_SQ_BASE_HI, 16, 0x1000, 16, 0x40, 0xFFFFFFFF, 0x0, 0x0, 0x0, 2⟩,
   ⟨Reg.AVF_Q_CQ_BASE, 16, 0x1000, 16, 0x40, 0xFFFFFFFF, 0x0, 0x0, 0x0, 1⟩,
   ⟨Reg.AVF_Q_CQ_BASE_HI, 16, 0x1000, 16, 0x40, 0xFFFFFFFF, 0x0, 0x0, 0x0, 2⟩,
   ⟨Reg.AVF_Q_SIZE, 16, 0x1000, 16, 0x40, 0x1F1F, 0x0, 0x0, 0x606, 0⟩,
   ⟨Reg.AVF_Q_SEQ_NEXT, 16, 0x1000, 16, 0x40, 0xFFFFFFFF, 0x0, 0x0, 0x0, 0⟩,
   ⟨Reg.AVF_Q_ACCEPTED, 16, 0x1000, 16, 0x40, 0x0, 0x0, 0x0, 0x0, 0⟩,
   ⟨Reg.AVF_Q_CSEQ, 16, 0x1000, 16, 0x40, 0xFFFFFFFF, 0x0, 0x0, 0x0, 0⟩,
   ⟨Reg.AVF_Q_JRNL, 16, 0x1000, 16, 0x40, 0xFFFFFFFF, 0x0, 0x0, 0x0, 1⟩,
   ⟨Reg.AVF_Q_JRNL_HI, 16, 0x1000, 16, 0x40, 0xFFFFFFFF, 0x0, 0x0, 0x0, 2⟩,
   ⟨Reg.AVF_Q_REPLAY, 16, 0x1000, 16, 0x40, 0xFFFFFFFF, 0x0, 0x0, 0x0, 0⟩,
   ⟨Reg.AVF_Q_OLDEST, 16, 0x1000, 16, 0x40, 0x0, 0x0, 0x0, 0x0, 0⟩,
   ⟨Reg.RIB_ID, 1, 0x0, 1, 0x0, 0x0, 0x0, 0x0, 0x100009C0, 0⟩,
   ⟨Reg.RIB_CTRL, 1, 0x0, 1, 0x0, 0x0, 0x0, 0x3F, 0x0, 0⟩,
   ⟨Reg.RIB_CMD, 1, 0x0, 1, 0x0, 0x0, 0x0, 0x0, 0x0, 0⟩]
/-- Part 3 of the hub register map. -/
def hubRows3 : List RegRow :=
  [⟨Reg.RIB_STATUS, 1, 0x0, 1, 0x0, 0x0, 0x0, 0x0, 0x0, 0⟩,
   ⟨Reg.RIB_SHAPE, 1, 0x0, 1, 0x0, 0x0, 0x0, 0xFFFF3F7F, 0x0, 0⟩,
   ⟨Reg.RIB_LAYOUT, 1, 0x0, 1, 0x0, 0x0, 0x0, 0x3FFFF, 0x0, 0⟩,
   ⟨Reg.RIB_LAYOUT_BLOCKS, 1, 0x0, 1, 0x0, 0x0, 0x0, 0xFFFFF, 0x0, 0⟩,
   ⟨Reg.RIB_LAP, 1, 0x0, 1, 0x0, 0x0, 0x0, 0x0, 0x0, 0⟩,
   ⟨Reg.RIB_EPOCH_A, 1, 0x0, 1, 0x0, 0x0, 0x0, 0x0, 0x0, 0⟩,
   ⟨Reg.RIB_EPOCH_B, 1, 0x0, 1, 0x0, 0x0, 0x0, 0x0, 0x0, 0⟩,
   ⟨Reg.RIB_SETS, 1, 0x0, 1, 0x0, 0x0, 0x0, 0x0, 0x0, 0⟩,
   ⟨Reg.RIB_SWITCH, 1, 0x0, 1, 0x0, 0x0, 0x0, 0x0, 0x0, 0⟩,
   ⟨Reg.RIB_SWITCH_LAP, 1, 0x0, 1, 0x0, 0x0, 0x0, 0x0, 0x0, 0⟩,
   ⟨Reg.RIB_LIVE_A, 1, 0x0, 1, 0x0, 0x0, 0x0, 0x0, 0x0, 0⟩,
   ⟨Reg.RIB_LIVE_B, 1, 0x0, 1, 0x0, 0x0, 0x0, 0x0, 0x0, 0⟩,
   ⟨Reg.RIB_LAP_TIME, 1, 0x0, 1, 0x0, 0x0, 0x0, 0x0, 0x0, 1⟩,
   ⟨Reg.RIB_LAP_TIME_HI, 1, 0x0, 1, 0x0, 0x0, 0x0, 0x0, 0x0, 2⟩,
   ⟨Reg.RIB_ADMIT_TALLY, 1, 0x0, 1, 0x0, 0x0, 0x0, 0xFFFFF, 0x0, 0⟩,
   ⟨Reg.RIB_CLOSE_TALLY, 1, 0x0, 1, 0x0, 0x0, 0x0, 0xFFFFF, 0x0, 0⟩,
   ⟨Reg.RIB_LAPREC_BASE, 1, 0x0, 1, 0x0, 0x0, 0x0, 0xFFFFFFFF, 0x0, 1⟩,
   ⟨Reg.RIB_LAPREC_BASE_HI, 1, 0x0, 1, 0x0, 0x0, 0x0, 0xFFFFFFFF, 0x0, 2⟩,
   ⟨Reg.RIB_HOP_TIMEOUT, 1, 0x0, 1, 0x0, 0xFFFF, 0x0, 0x0, 0xC8, 0⟩,
   ⟨Reg.RIB_ERR, 1, 0x0, 1, 0x0, 0x0, 0x7FF, 0x0, 0x0, 0⟩]
/-- Part 4 of the hub register map. -/
def hubRows4 : List RegRow :=
  [⟨Reg.RIB_ERR_INFO, 1, 0x0, 1, 0x0, 0x0, 0x0, 0x0, 0x0, 0⟩,
   ⟨Reg.RIB_POISON_BLOCKS, 1, 0x0, 1, 0x0, 0x0, 0x0, 0x0, 0x0, 0⟩,
   ⟨Reg.RIB_DIR_INDEX, 1, 0x0, 1, 0x0, 0x7FFFF, 0x0, 0x0, 0x0, 0⟩,
   ⟨Reg.RIB_DIR_DATA, 8, 0x4, 1, 0x0, 0xFFFFFFFF, 0x0, 0x0, 0x0, 0⟩,
   ⟨Reg.RTR_ID, 1, 0x0, 1, 0x0, 0x0, 0x0, 0x0, 0x10001000, 0⟩,
   ⟨Reg.RTR_SLAB_STATUS, 1, 0x0, 1, 0x0, 0x0, 0x0, 0x0, 0x1000, 0⟩,
   ⟨Reg.RTR_SLAB_ECC, 1, 0x0, 1, 0x0, 0x0, 0x10000, 0x0, 0x0, 0⟩,
   ⟨Reg.RTR_COLL_ERR, 1, 0x0, 1, 0x0, 0x0, 0xFF, 0x0, 0x0, 0⟩,
   ⟨Reg.RTR_COLL_ERR_INFO, 1, 0x0, 1, 0x0, 0x0, 0x0, 0x0, 0x0, 0⟩,
   ⟨Reg.RTR_COLL_POISON, 1, 0x0, 1, 0x0, 0x0, 0x0, 0x0, 0x0, 0⟩,
   ⟨Reg.RTR_COLL_ENDPOINT, 1, 0x0, 1, 0x0, 0x0, 0x0, 0x0, 0x0, 0⟩,
   ⟨Reg.RTR_CTX_SLAB, 16, 0x20, 1, 0x0, 0x0, 0x0, 0x1FFF1FFF, 0x10000000, 0⟩,
   ⟨Reg.RTR_CTX_COLL, 16, 0x20, 1, 0x0, 0x0, 0x0, 0x0, 0x0, 0⟩,
   ⟨Reg.RTR_CTX_DONE, 16, 0x20, 1, 0x0, 0x0, 0x0, 0x0, 0x0, 0⟩,
   ⟨Reg.RTR_CTX_HOLES, 16, 0x20, 1, 0x0, 0x0, 0x0, 0x0, 0x0, 0⟩,
   ⟨Reg.RTR_CTX_HOLE, 16, 0x20, 4, 0x4, 0x80003FFF, 0x0, 0x0, 0x0, 0⟩,
   ⟨Reg.LNK_STATUS, 32, 0x1000, 1, 0x0, 0x0, 0x0, 0x0, 0x0, 0⟩,
   ⟨Reg.LNK_CTRL, 32, 0x1000, 1, 0x0, 0x1, 0x0, 0x0, 0x1, 0⟩,
   ⟨Reg.LNK_PLAN_PEER, 32, 0x1000, 1, 0x0, 0x0, 0x0, 0x0, 0x0, 0⟩,
   ⟨Reg.LNK_FOUND_PEER, 32, 0x1000, 1, 0x0, 0x0, 0x0, 0x0, 0x0, 0⟩]
/-- Part 5 of the hub register map. -/
def hubRows5 : List RegRow :=
  [⟨Reg.LNK_PEER_INFO, 32, 0x1000, 1, 0x0, 0x0, 0x0, 0x0, 0x0, 0⟩,
   ⟨Reg.LNK_PEER_IDENT, 32, 0x1000, 1, 0x0, 0x0, 0x0, 0x0, 0x0, 1⟩,
   ⟨Reg.LNK_PEER_IDENT_HI, 32, 0x1000, 1, 0x0, 0x0, 0x0, 0x0, 0x0, 2⟩,
   ⟨Reg.LNK_FEC_CORR, 32, 0x1000, 1, 0x0, 0x0, 0x0, 0x0, 0x0, 1⟩,
   ⟨Reg.LNK_FEC_CORR_HI, 32, 0x1000, 1, 0x0, 0x0, 0x0, 0x0, 0x0, 2⟩,
   ⟨Reg.LNK_FEC_UNCORR, 32, 0x1000, 1, 0x0, 0x0, 0x0, 0x0, 0x0, 1⟩,
   ⟨Reg.LNK_FEC_UNCORR_HI, 32, 0x1000, 1, 0x0, 0x0, 0x0, 0x0, 0x0, 2⟩,
   ⟨Reg.LNK_REPLAYS, 32, 0x1000, 1, 0x0, 0x0, 0x0, 0x0, 0x0, 0⟩,
   ⟨Reg.LNK_ERR, 32, 0x1000, 1, 0x0, 0x0, 0x7F, 0x0, 0x0, 0⟩,
   ⟨Reg.LNK_TRANSIT, 32, 0x1000, 1, 0x0, 0x0, 0x0, 0x0, 0x0, 0⟩,
   ⟨Reg.LNK_LANE_MARGIN, 32, 0x1000, 1, 0x0, 0x0, 0x0, 0x0, 0x0, 0⟩,
   ⟨Reg.LNK_CAL, 32, 0x1000, 1, 0x0, 0x0, 0x0, 0x0, 0x0, 0⟩,
   ⟨Reg.LNK_ARB, 32, 0x1000, 1, 0x0, 0xFFF, 0x0, 0x0, 0x224, 0⟩,
   ⟨Reg.LNK_ID, 1, 0x0, 1, 0x0, 0x0, 0x0, 0x0, 0x10000220, 0⟩,
   ⟨Reg.LNK_PROFILE, 1, 0x0, 1, 0x0, 0x0, 0x0, 0x0, 0x0, 0⟩,
   ⟨Reg.LNK_ADDR, 1, 0x0, 1, 0x0, 0x0, 0x0, 0x0, 0x0, 0⟩,
   ⟨Reg.LNK_SWAP, 1, 0x0, 1, 0x0, 0x0, 0x80000000, 0x0, 0x0, 0⟩,
   ⟨Reg.LNK_JOBTAG_DROP, 1, 0x0, 1, 0x0, 0x0, 0x0, 0x0, 0x0, 0⟩,
   ⟨Reg.LNK_ROUTE_WIN, 1, 0x0, 1, 0x0, 0x3FFF, 0x0, 0x0, 0x0, 0⟩,
   ⟨Reg.LNK_ROUTE_DATA0, 1, 0x0, 1, 0x0, 0xBFBFBFBF, 0x0, 0x0, 0x0, 0⟩]
/-- Part 6 of the hub register map. -/
def hubRows6 : List RegRow :=
  [⟨Reg.LNK_ROUTE_DATA1, 1, 0x0, 1, 0x0, 0xF, 0x0, 0x0, 0x0, 0⟩,
   ⟨Reg.LNK_CTX_TAG, 16, 0x4, 1, 0x0, 0x0, 0x0, 0x8000FFFF, 0x0, 0⟩,
   ⟨Reg.LNK_CTX_BLOCK, 16, 0x4, 1, 0x0, 0x0, 0x0, 0xFFFFFFF, 0x0, 0⟩,
   ⟨Reg.MEM_STK_ID, 8, 0x10000, 1, 0x0, 0x0, 0x0, 0x0, 0x10000000, 0⟩,
   ⟨Reg.MEM_STK_STATUS, 8, 0x10000, 1, 0x0, 0x0, 0x400, 0x0, 0x0, 0⟩,
   ⟨Reg.MEM_CH_STATUS, 8, 0x10000, 32, 0x10, 0x0, 0x0, 0x0, 0x0, 0⟩,
   ⟨Reg.MEM_CH_ECC, 8, 0x10000, 32, 0x10, 0x0, 0x10000, 0x0, 0x0, 0⟩,
   ⟨Reg.MEM_CH_POISON, 8, 0x10000, 32, 0x10, 0x0, 0x80000000, 0x0, 0x0, 0⟩,
   ⟨Reg.MEM_CH_CAL, 8, 0x10000, 32, 0x10, 0x0, 0x0, 0x0, 0x0, 0⟩,
   ⟨Reg.MEM_ID, 1, 0x0, 1, 0x0, 0x0, 0x0, 0x0, 0x10008100, 0⟩,
   ⟨Reg.MEM_CMD, 1, 0x0, 1, 0x0, 0x0, 0x0, 0x0, 0x0, 0⟩,
   ⟨Reg.MEM_CMD_STATUS, 1, 0x0, 1, 0x0, 0x0, 0x0, 0x0, 0x0, 0⟩,
   ⟨Reg.MEM_ERR, 1, 0x0, 1, 0x0, 0x0, 0x7F, 0x0, 0x0, 0⟩,
   ⟨Reg.MEM_ERR_INFO, 1, 0x0, 1, 0x0, 0x0, 0x0, 0x0, 0x0, 0⟩,
   ⟨Reg.MEM_FAR_STATUS, 1, 0x0, 1, 0x0, 0x0, 0x0, 0x0, 0x0, 0⟩,
   ⟨Reg.MEM_FAR_SIZE, 1, 0x0, 1, 0x0, 0x0, 0x0, 0x0, 0x0, 0⟩,
   ⟨Reg.MEM_REG_BASE, 64, 0x20, 1, 0x0, 0x7FFFFFF, 0x0, 0x0, 0x0, 0⟩,
   ⟨Reg.MEM_REG_EXTENT, 64, 0x20, 1, 0x0, 0xFFFFF, 0x0, 0x0, 0x0, 0⟩,
   ⟨Reg.MEM_REG_CHBASE, 64, 0x20, 1, 0x0, 0x7FFFF, 0x0, 0x0, 0x0, 0⟩,
   ⟨Reg.MEM_REG_CFG, 64, 0x20, 1, 0x0, 0x8000F7FF, 0x0, 0x0, 0x0, 0⟩]
/-- Part 7 of the hub register map. -/
def hubRows7 : List RegRow :=
  [⟨Reg.MEM_REG_STATUS, 64, 0x20, 1, 0x0, 0x0, 0x0, 0x0, 0x0, 0⟩,
   ⟨Reg.SEC_ID, 1, 0x0, 1, 0x0, 0x0, 0x0, 0x0, 0x10000000, 0⟩,
   ⟨Reg.SEC_BOOT_STATUS, 1, 0x0, 1, 0x0, 0x0, 0x0, 0x0, 0x0, 0⟩,
   ⟨Reg.SEC_ERR, 1, 0x0, 1, 0x0, 0x0, 0x7F, 0x0, 0x0, 0⟩,
   ⟨Reg.SEC_ERR_INFO, 1, 0x0, 1, 0x0, 0x0, 0x0, 0x0, 0x0, 0⟩,
   ⟨Reg.SEC_VERIFY_FAIL, 1, 0x0, 1, 0x0, 0x0, 0x0, 0x0, 0x0, 0⟩,
   ⟨Reg.SEC_IDENT, 8, 0x4, 1, 0x0, 0x0, 0x0, 0x0, 0x0, 0⟩,
   ⟨Reg.SEC_NONCE, 8, 0x4, 1, 0x0, 0x0, 0x0, 0x0, 0x0, 0⟩,
   ⟨Reg.SEC_OWNER, 8, 0x4, 1, 0x0, 0x0, 0x0, 0x0, 0x0, 0⟩,
   ⟨Reg.SEC_FLOOR, 10, 0x4, 1, 0x0, 0x0, 0x0, 0x0, 0x0, 0⟩,
   ⟨Reg.SEC_SVN, 10, 0x4, 1, 0x0, 0x0, 0x0, 0x0, 0x0, 0⟩,
   ⟨Reg.SEC_SEAL_IMG, 16, 0x40, 8, 0x4, 0x0, 0x0, 0x0, 0x0, 0⟩,
   ⟨Reg.SEC_SEAL_LOG, 16, 0x40, 1, 0x0, 0x0, 0x0, 0xFFFFFFFF, 0x0, 1⟩,
   ⟨Reg.SEC_SEAL_LOG_HI, 16, 0x40, 1, 0x0, 0x0, 0x0, 0xFFFFFFFF, 0x0, 2⟩,
   ⟨Reg.SEC_SEAL_LOGCFG, 16, 0x40, 1, 0x0, 0x0, 0x0, 0x1F, 0x4, 0⟩,
   ⟨Reg.PWR_ID, 1, 0x0, 1, 0x0, 0x0, 0x0, 0x0, 0x1000003C, 0⟩,
   ⟨Reg.PWR_STATUS, 1, 0x0, 1, 0x0, 0x0, 0x0, 0x0, 0x0, 0⟩,
   ⟨Reg.PWR_ERR, 1, 0x0, 1, 0x0, 0x0, 0x7F, 0x0, 0x0, 0⟩,
   ⟨Reg.PWR_CAP, 1, 0x0, 1, 0x0, 0xFFFFFF, 0x0, 0x0, 0x10A28, 0⟩,
   ⟨Reg.PWR_CLK_MAX, 1, 0x0, 1, 0x0, 0x7FF, 0x0, 0x0, 0x3E8, 0⟩]
/-- Part 8 of the hub register map. -/
def hubRows8 : List RegRow :=
  [⟨Reg.PWR_IN, 1, 0x0, 1, 0x0, 0x0, 0x0, 0x0, 0x0, 0⟩,
   ⟨Reg.PWR_IN_POWER, 1, 0x0, 1, 0x0, 0x0, 0x0, 0x0, 0x0, 0⟩,
   ⟨Reg.PWR_CLKSTOP_COUNT, 1, 0x0, 1, 0x0, 0x0, 0x0, 0x0, 0x0, 0⟩,
   ⟨Reg.PWR_HUB_TEMP, 1, 0x0, 1, 0x0, 0x0, 0x0, 0x0, 0x0, 0⟩,
   ⟨Reg.PWR_DIE_CLK, 4, 0x4, 1, 0x0, 0x0, 0x0, 0x0, 0x25803E8, 0⟩,
   ⟨Reg.PWR_DIE_TEMP, 4, 0x4, 1, 0x0, 0x0, 0x0, 0x0, 0x0, 0⟩,
   ⟨Reg.PWR_DOM_STATE, 60, 0x8, 1, 0x0, 0x0, 0x0, 0x0, 0x0, 0⟩,
   ⟨Reg.PWR_DOM_POWER, 60, 0x8, 1, 0x0, 0x0, 0x0, 0x0, 0x0, 0⟩,
   ⟨Reg.FTC_ID, 1, 0x0, 1, 0x0, 0x0, 0x0, 0x0, 0x10000000, 0⟩,
   ⟨Reg.FTC_NOW, 1, 0x0, 1, 0x0, 0x0, 0x0, 0x0, 0x0, 1⟩,
   ⟨Reg.FTC_NOW_HI, 1, 0x0, 1, 0x0, 0x0, 0x0, 0x0, 0x0, 2⟩,
   ⟨Reg.FTC_STATUS, 1, 0x0, 1, 0x0, 0x0, 0x0, 0x0, 0x0, 0⟩,
   ⟨Reg.FTC_OFFSET, 1, 0x0, 1, 0x0, 0x0, 0x0, 0x0, 0x0, 0⟩,
   ⟨Reg.FTC_RATE, 1, 0x0, 1, 0x0, 0x0, 0x0, 0x0, 0x0, 0⟩,
   ⟨Reg.FTC_BOUND, 1, 0x0, 1, 0x0, 0x0, 0x0, 0x0, 0x0, 0⟩,
   ⟨Reg.FTC_CTRL, 1, 0x0, 1, 0x0, 0x1, 0x0, 0x0, 0x0, 0⟩,
   ⟨Reg.FTC_ERR, 1, 0x0, 1, 0x0, 0x0, 0xF, 0x0, 0x0, 0⟩,
   ⟨Reg.FTC_TAL_ID, 1, 0x0, 1, 0x0, 0x0, 0x0, 0x0, 0x10204000, 0⟩,
   ⟨Reg.FTC_TALC_HUB, 16, 0x40, 1, 0x0, 0x0, 0x0, 0x7FFF3FFF, 0x0, 0⟩,
   ⟨Reg.FTC_TALC_POS, 16, 0x40, 1, 0x0, 0x0, 0x0, 0x3FFF, 0x0, 0⟩]
/-- Part 9 of the hub register map. -/
def hubRows9 : List RegRow :=
  [⟨Reg.FTC_TALC_HANG_CTRL, 16, 0x40, 1, 0x0, 0x0, 0x0, 0xFFFF, 0x64, 0⟩,
   ⟨Reg.FTC_TALC_STATUS, 16, 0x40, 1, 0x0, 0x0, 0xF, 0x0, 0x0, 0⟩,
   ⟨Reg.FTC_TALC_HANG_NIB, 16, 0x40, 1, 0x0, 0x0, 0x0, 0x0, 0x0, 0⟩,
   ⟨Reg.FTC_TALC_HANG_TID, 16, 0x40, 1, 0x0, 0x0, 0x0, 0x0, 0x0, 0⟩,
   ⟨Reg.FTC_TALC_HANG_TIME, 16, 0x40, 1, 0x0, 0x0, 0x0, 0x0, 0x0, 1⟩,
   ⟨Reg.FTC_TALC_HANG_TIME_HI, 16, 0x40, 1, 0x0, 0x0, 0x0, 0x0, 0x0, 2⟩,
   ⟨Reg.FTC_TALC_DROPPED, 16, 0x40, 1, 0x0, 0x0, 0x0, 0x0, 0x0, 0⟩,
   ⟨Reg.FTC_TAL_WIN, 1, 0x0, 1, 0x0, 0x1FFF, 0x0, 0x0, 0x0, 0⟩,
   ⟨Reg.FTC_TAL_WIN_DATA, 4, 0x4, 1, 0x0, 0xFFFFFFFF, 0x0, 0x0, 0x0, 0⟩,
   ⟨Reg.FTC_CTX_MODE, 16, 0x20, 1, 0x0, 0x1, 0x0, 0x0, 0x0, 0⟩,
   ⟨Reg.FTC_CTX_START, 16, 0x20, 1, 0x0, 0xFFFFFFFF, 0x0, 0x0, 0x0, 1⟩,
   ⟨Reg.FTC_CTX_START_HI, 16, 0x20, 1, 0x0, 0xFFFFFFFF, 0x0, 0x0, 0x0, 2⟩,
   ⟨Reg.FTC_CTX_START_STATUS, 16, 0x20, 1, 0x0, 0x0, 0x0, 0x0, 0x0, 0⟩,
   ⟨Reg.FTC_CTX_LEAD, 16, 0x20, 1, 0x0, 0x0, 0x0, 0x3FFF, 0x0, 0⟩,
   ⟨Reg.FTC_TALLY, 16384, 0x4, 1, 0x0, 0x0, 0x10000, 0x0, 0x0, 0⟩]
/-- The hub register map. -/
def hubRows : List RegRow :=
  hubRows0 ++ hubRows1 ++ hubRows2 ++ hubRows3 ++ hubRows4 ++ hubRows5 ++ hubRows6 ++ hubRows7 ++ hubRows8 ++ hubRows9

/-- The row of an offset in a map, with the indices. -/
def findRow : List RegRow → Nat → Option (RegRow × Nat × Nat)
  | [], _ => none
  | r :: rs, off =>
    match r.index off with
    | some (i, j) => some (r, i, j)
    | none => findRow rs off

/-- Reset value of a hub register; 0 where the map has none. -/
def hubReset (off : Nat) : W32 :=
  match findRow hubRows off with
  | some (r, _, _) => BitVec.ofNat 32 r.rst
  | none => 0

/-- Reset value of a nib register. -/
def nibReset (off : Nat) : W32 :=
  match findRow nibRows off with
  | some (r, _, _) => BitVec.ofNat 32 r.rst
  | none => 0

end Sys2Proof.Machine
end

