-- ==== Sys2Proof/Machine/State.lean ====
section
/-!
DEFINITION. The state of the package: every register, queue, buffer, counter, mode and memory that the manual gives
it, the environment it touches (host memory, messages that leave it), and the queue of waiting commands.
-/
namespace Sys2Proof.Machine

/-- Where a message goes that leaves the package or a unit (R191, R276, R338, R366, R416, R440): kept so that the
order and content of what is sent can be stated. -/
inductive OutMsg where
  | msix (port fn vector : Nat)
  | alert
  | remoteSignal (package : Nat) (nib : Option Nat) (tally count tag : Nat)
  | remoteHalt (ctx : Nat)
  | packet (kind : String) (dest : Nat) (body : List Nat)
  | link (kind : String) (vc dest ctx : Nat) (body : List Nat)
  | ring (kind : String) (ccw : Bool) (body : List Nat)
deriving DecidableEq, Repr

/-- An error report on its way to a log (R412 to R418). -/
structure Report where
  cls : Nat
  code : Nat
  kind : Nat
  ctx : Option Nat
  unit : Nat
  info : Nat
  time : Nat
deriving DecidableEq, Repr

/-- A wait or test queued at a tally (R251): who waits, k, and whether it only tests. -/
structure TWait where
  tal : TalRef
  who : Nat
  k : Nat
  test : Bool
deriving DecidableEq, Repr

/-- A flow of a mesh slot table (R150). -/
structure Flow where
  id : Nat
  srcNode : Nat
  srcUnit : Nat
  dstNode : Nat
  dstUnit : Nat
  links : List Nat
deriving DecidableEq, Repr

/-- A mesh slot table (R150): frame, flows, runs (start, length, flow). -/
structure MeshTab where
  frameLog2 : Nat
  flows : List Flow
  runs : List (Nat × Nat × Nat)
deriving DecidableEq, Repr

/-- One leg of a transfer on the mesh (R148): die, flow, bytes not yet sent, bytes ready at the flow's source, bytes
in the crossing before it. -/
structure Leg where
  die : Nat
  flow : Nat
  unsent : Nat
  ready : Nat
  crossing : Nat
deriving DecidableEq, Repr

/-- A part of a transfer that travels on declared flows (R148): its nib and transfer, offset and length in the
transfer, legs, and bytes in the crossing behind the last leg. -/
structure MeshXfer where
  nib : Nat
  xfer : Nat
  off : Nat
  len : Nat
  legs : List Leg
  exit : Nat
deriving DecidableEq, Repr

/-- A slab in a landing area (R135, R169): lap and first LAP_POS, first frame, frames not yet released, blocks still to
land, bytes read by K0, bytes of the common part and of each piece that its blocks have taken. -/
structure LandSlab where
  lap : Nat
  pos : Nat
  frame : Nat
  frames : Nat
  left : Nat
  rd : Nat
  com : Nat
  pie : Nat
deriving DecidableEq, Repr

/-- A landing area of one die (R135): frames allocated and not yet FREE, next frame to allocate, slabs from oldest to
newest. Its bytes and poison bits are in `landMem` and `landPoison`. -/
structure Landing where
  used : Nat
  alloc : Nat
  slabs : List LandSlab
deriving DecidableEq, Repr

/-- A landing area at package reset: 1,024 FREE frames. -/
def Landing.reset : Landing := ⟨0, 0, []⟩

/-- A cluster port of the chain (R141): slabs passed, position in the slab. -/
structure ChainPort where
  slab : Nat
  pos : Nat
deriving DecidableEq, Repr

/-- A chain plan (R151). -/
structure ChainPlan where
  clusters : Nat
  rot : Nat
  nxt : Nat
  com : Nat
  piece : Nat
  common : Nat
  rotLog : Nat
  nxtLog : Nat
  comLog : Nat
  rotBase : Nat
  nxtBase : Nat
  comBase : Nat
deriving DecidableEq, Repr

/-- A memory slot table (R234): frame, floor clock, hot slots, records (start, stack, channel, kind). -/
structure MemTab where
  frameLog2 : Nat
  floorMhz : Nat
  hotReady : Bool
  slots : List (Nat × Nat × Nat × Nat)
deriving DecidableEq, Repr

/-- A layer of a seal plan (R343). -/
structure SealLayer where
  id : Nat
  tileLog : Bool
  stride : Nat
  tiles : Nat
  pkgStride : Nat
  tlog : Nat
deriving DecidableEq, Repr

/-- A seal plan (R343): layers, and FIRST_TILE and COUNT by layer and nib. -/
structure SealPlan where
  layers : List SealLayer
  nibs : Nat
  table : List (Nat × Nat)
deriving DecidableEq, Repr

/-- A context (R433): its program (R97 to R100), tables, start state and lock. -/
structure Ctx where
  /-- A program is loaded (R99). -/
  loaded : Bool
  /-- The context is sealed: RWL registers are locked (R9, R363). -/
  locked : Bool
  /-- Load generation (R264). -/
  gen : Nat
  /-- GEOM of the image (R97). -/
  geom : Nat
  /-- EXACT of the image (R97). -/
  exactImg : Bool
  /-- Resident mode (R19). -/
  resident : Bool
  /-- PACKAGES of the image (R97). -/
  packages : Nat
  /-- SPAN_NIBS of the image (R97). -/
  spanNibs : Nat
  /-- D_IMG (R341). -/
  image : List Byte
  /-- Chain plan (R151). -/
  chain : Option ChainPlan
  /-- Memory slot table (R234). -/
  memTab : Option MemTab
  /-- Declared crossing latencies: die, node, cycles (R334). -/
  crossing : List (Nat × Nat × Nat)
  /-- Seal plan (R343). -/
  plan : Option SealPlan
  /-- Tally map, word by word: key 4 entry + word (R253). -/
  tmap : NMap W32
  /-- Span table, word by word (R258). -/
  spans : NMap W32
  /-- A halt is on its way to the nibs of the context (R102, R266). -/
  halting : Bool
  /-- Layer records written: pass and layer (R345). -/
  layerDone : List (Nat × Nat)
  /-- Expander conditions reported since load: DIR_INDEX, EPOCH, cause (R179). -/
  expErrs : List (Nat × Nat × Nat)
deriving DecidableEq, Repr

/-- A context with no program. -/
def Ctx.empty : Ctx :=
  { loaded := false, locked := false, gen := 0, geom := 0, exactImg := false, resident := false, packages := 0,
    spanNibs := 0, image := [], chain := none, memTab := none, crossing := [], plan := none, tmap := [], spans := [],
    halting := false, layerDone := [], expErrs := [] }

/-- A nib's part in a collective (R304): its descriptor, the tally it signals, its lateness-free time at issue. -/
structure CollPart where
  nib : Nat
  desc : List Byte
  dst : SigDst
  mark : Nat
deriving DecidableEq, Repr

/-- How a segment is reduced (R316, R317): no lane has arrived yet, or it waits for a slot, holds one, goes on in endpoint
mode, is only passed on, has left for another member, or is done. -/
inductive SegSt where
  | idle
  | waiting
  | pass
  | slot
  | endpoint
  | sent
  | endSent
  | done
deriving DecidableEq, Repr

/-- A segment of a collective at this package (R308, R316): rank of the shard it belongs to, its number in the shard, the
stage of R305 at which its lanes enter, what it holds, when it began to wait, member packages added so far, lanes (none
before the first), poison of its stripes, whether it has been asked for again, acknowledgements that its copies still await, and whether RTR_COLL_POISON
has counted it (R322). -/
structure CSeg where
  owner : Nat
  seq : Nat
  stage : Nat
  st : SegSt
  since : Nat
  got : Nat
  lanes : List Nat
  poison : List Bool
  resent : Bool
  acks : Nat
  counted : Bool
deriving DecidableEq, Repr

/-- A collective outstanding in the package (R304 to R324): context, COLL_ID, plane addresses of the member packages in
order of rank, this package's rank, the axes on which it runs a ring (R305), the nibs that have issued it, the agreed words
by stripe and the grain total, batches agreed, segments, status, and whether some result word is poisoned. -/
structure Coll where
  ctx : Nat
  id : Nat
  mem : List Nat
  rank : Nat
  wrap : List Bool
  parts : List CollPart
  words : List Nat
  grains : Nat
  agreed : Nat
  segs : List CSeg
  status : Nat
  bad : Bool
deriving DecidableEq, Repr

/-- A queue pair (R354 to R370): whether it has been enabled since its last reset, ring indices and use, the last CSEQ
written to the CQ, the last CSEQ of a replay in progress (R368), entries in the journal, and the CSEQs among them
whose commands asked for no interrupt. -/
structure Pair where
  opened : Bool
  sqHead : Nat
  sqTail : Nat
  cqTail : Nat
  cqUsed : Nat
  cqLast : Nat
  replay : Option Nat
  jcount : Nat
  quiet : List Nat
deriving DecidableEq, Repr

/-- A queue pair at reset. -/
def Pair.reset : Pair := ⟨false, 0, 0, 0, 0, 0, none, 0, []⟩

/-- How a transfer ends at a strip (R365, R366, R369): page absent and a page request sent at a time, translation
refused, absent in Exact Mode, or ended by a disable or reset. -/
inductive StripFault where
  | asked (t : Nat)
  | refused
  | exact
  | aborted
deriving DecidableEq, Repr

/-- An Avfer command that has been accepted (R358, R359): its number, context, pair, the 64 bytes of its entry, whether
it has started and when, strips delivered or bytes copied, a translation fault at a strip, whether a word carried was
poisoned. -/
structure AvCmd where
  no : Nat
  c : Nat
  q : Nat
  raw : List Byte
  started : Bool
  since : Nat
  count : Nat
  fault : Option (Nat × StripFault)
  poison : Bool
deriving DecidableEq, Repr

/-- A completion (R358) that has not been numbered yet. -/
structure Comp where
  c : Nat
  q : Nat
  seq : Nat
  tag : Nat
  status : Nat
  op : Nat
  notice : Bool
  noIrq : Bool
  result : Nat
  cursor : Nat
  ftc : Nat
deriving DecidableEq, Repr

/-- A lap or stop mark as a member holds it (R190): its fields, and what goes on with it about a switch (R208, R211). -/
structure Mark where
  stop : Bool
  ribbon : Nat
  lap : Nat
  epoch : Nat
  set : Nat
  origin : Nat
  hops : Nat
  liveOld : Nat
  minClosed : Nat
  ftc : Nat
  sw : SwInfo
deriving DecidableEq, Repr

/-- A block that is arriving on a hop (R189): lap, LAP_POS, its bytes with the header, what has arrived of them and which
words are poisoned, bytes that the feed has written, bytes that have gone on (all where the member does not forward it). -/
structure RibBlk where
  lap : Nat
  pos : Nat
  whole : Nat
  data : List Byte
  bad : List Nat
  land : Nat
  sent : Nat
deriving DecidableEq, Repr

/-- One direction of the ribbon at this member (R188): marks received that it has not passed on, the mark that brackets
what it sends, blocks of that lap sent, blocks received that have not both landed and gone on, units that the upstream
member still holds for want of a tag here (lap, LAP_POS, bytes, poisoned words), when the incoming hop was last heard, lap
marks received or originated (one more than the last lap), lap marks that came in on the hop, and the lap of a STOP mark
received since. -/
structure RibDir where
  recv : List Mark
  sent : Option Mark
  n : Nat
  blks : List RibBlk
  waiting : List (Nat × Nat × List Byte × List Nat)
  heard : Nat
  got : Nat
  inc : Nat
  stopped : Option Nat
deriving DecidableEq, Repr

/-- A direction with nothing in it. -/
def RibDir.idle : RibDir := ⟨[], none, 0, [], [], 0, 0, 0, none⟩

/-- A request that has been admitted (R198, R364): pair, SEQ, TAG, handle, its set. -/
structure Live where
  c : Nat
  q : Nat
  seq : Nat
  tag : Nat
  handle : Nat
  set : Nat
deriving DecidableEq, Repr

/-- One of the last laps begun (R198 to R200, R204): number, set, epoch, entries (handle, set), LIVE_A and LIVE_B at the
cut, time of its beginning; for a lap that has closed, LIVE_A and LIVE_B before that and the requests it retired. -/
structure LapRec where
  lap : Nat
  set : Nat
  epoch : Nat
  entries : List (Nat × Nat)
  liveA : Nat
  liveB : Nat
  began : Nat
  beforeA : Nat
  beforeB : Nat
  gone : List Live
deriving DecidableEq, Repr

/-- The ribbon controller: when a FORM in progress was issued; FORM marks received: direction, ribbon, position, on the
declared hops, time (R183); digests received: set, position, digest (R194); the two directions; the last laps begun; laps
begun and closed (counts from lap 0); marks whose laps have not begun; the lap that the landing feed writes, the first
LAP_POS of its next slab, blocks landed (R135); queued handles by number of their command, and whether they were accepted
after SWITCH; admitted requests; directions from which the lead's present mark has returned, and the LIVE_OLD it last
reported (R209); whether the next mark is a STOP mark (R201); last lap of the active set that has begun (R211); failed
positions (R214); nibs that have not waited on the admission tally since a SWITCH in resident mode (R218). -/
structure Rib where
  forming : Option Nat
  formFrom : List (Bool × Nat × Nat × Bool × Nat)
  digs : List (Nat × Nat × BitVec 128)
  cw : RibDir
  ccw : RibDir
  laps : List LapRec
  begun : Nat
  closed : Nat
  marks : List Mark
  feedLap : Nat
  feedNext : Nat
  fed : List Nat
  queue : List (Nat × Bool)
  live : List Live
  returned : List Bool
  report : Nat
  stopping : Bool
  oldLast : Nat
  failed : List Nat
  awaiting : List Nat
deriving DecidableEq, Repr

/-- A ribbon controller in state IDLE. -/
def Rib.reset : Rib :=
  { forming := none, formFrom := [], digs := [], cw := RibDir.idle, ccw := RibDir.idle, laps := [], begun := 0,
    closed := 0, marks := [], feedLap := 0, feedNext := 0, fed := [], queue := [], live := [], returned := [],
    report := 0, stopping := false, oldLast := 0, failed := [], awaiting := [] }

/-- What holds the write lock of a granule (R391): a manifest of a context and epoch, or a directory entry. -/
inductive LockOwner where
  | manifest (c epoch : Nat)
  | entry (x : Nat)
deriving DecidableEq, Repr

/-- A weight manifest that a context holds (R389): context, epoch, its DPA and size, D_MAN. -/
structure Manifest where
  c : Nat
  epoch : Nat
  dpa : Nat
  size : Nat
  dman : List Byte
deriving DecidableEq, Repr

/-- A copy of the replay-protected area (R383): counter, owner key digest (none: unclaimed), floors of types 1 to 10,
whether its MAC verifies. -/
structure RpCopy where
  counter : Nat
  owner : List Byte
  floors : List Nat
  ok : Bool
deriving DecidableEq, Repr

/-- A flit that waits for a port or for its acknowledgement: the flit, the message of `out` that it carries part `part` of
(none: a flit in transit). -/
structure LFlit where
  f : FlitIn
  msg : Option Nat
  part : Nat
deriving DecidableEq, Repr

/-- A link port (R272 to R296): when its state was entered; flits that wait; flits not acknowledged with their SEQ,
oldest first, and how many of the newest are still to be sent again; next SEQ; the SEQ named by the last negative
acknowledgement and how often in succession; SEQ expected, whether it discards, a negative acknowledgement to be sent;
credits used by VC; credits to be returned; flit slots passed, the latest of them that VC4 took, weights left of VC1 to
VC3; from the cable plan ASYM, REACH and LENGTH of the fibre, IDENT and PROFILE of the peer; flits of a session that has
ended, until the peer says which it accepted, and the last SEQ accepted in it; questions about failed ports and answers to
them that wait for a control flit; whether a timestamp is due, the last one received (t1) with its arrival (t2), a whole
exchange (t1 to t4, R296); when a data flit last passed; a lane whose recalibration is due, and since when; failing flits of
an FTC second (R276). -/
structure LPort where
  since : Nat
  txq : List LFlit
  replay : List (Nat × LFlit)
  resend : Nat
  seq : Nat
  nakSeq : Option Nat
  naks : Nat
  rx : Nat
  bad : Bool
  nak : Option Nat
  used : NMap Nat
  owed : List (Nat × Nat)
  slot : Nat
  transit : List Nat
  wrr : List Nat
  asym : Int
  reach : Nat
  len : Nat
  ident : Nat
  peerProfile : Nat
  left : List (Nat × LFlit)
  lastRx : Nat
  asks : List Nat
  replies : List (Nat × Nat)
  stampDue : Bool
  stampIn : Option (Nat × Nat)
  xch : Option (Nat × Nat × Nat × Nat)
  use : Nat
  calDue : Option (Nat × Nat)
  errs : Nat × Nat
deriving DecidableEq, Repr

/-- A port at reset. -/
def LPort.reset : LPort :=
  { since := 0, txq := [], replay := [], resend := 0, seq := 0, nakSeq := none, naks := 0, rx := 0, bad := false,
    nak := none, used := [], owed := [], slot := 0, transit := [], wrr := [], asym := 0, reach := 0, len := 0, ident := 0,
    peerProfile := 0, left := [], lastRx := 4095, asks := [], replies := [], stampDue := false, stampIn := none, xch := none,
    use := 0, calDue := none, errs := (0, 0) }

/-- A port record of a cable plan (R281, R282): PEER_ADDR, PEER_PORT, ROLE, REACH, ASYM, LENGTH. -/
structure PlanPort where
  peer : Nat
  port : Nat
  role : Nat
  reach : Nat
  asym : Int
  len : Nat
deriving DecidableEq, Repr

/-- A package record of a plan (R282). -/
structure PlanPkg where
  addr : Nat
  profile : Nat
  leader : Bool
  ident : Nat
  ports : List PlanPort
deriving DecidableEq, Repr

/-- A cable plan (R282): U_EXT, V_EXT, FTC_ROOT, package records, ring records. -/
structure CPlan where
  uExt : Nat
  vExt : Nat
  root : Nat
  pkgs : List PlanPkg
  rings : List (List Nat)
deriving DecidableEq, Repr

/-- A start record (R338): package index, PACKAGES, first 128 bits of the image digest, EXACT, arithmetic revision, T. -/
structure StartRec where
  idx : Nat
  packages : Nat
  image : Nat
  exact : Bool
  rev : Nat
  t : Nat
deriving DecidableEq, Repr

/-- The job start of a context (R338, R339): records received at package index 0, whether it has sent its verdict, and
whether GO has been received. -/
structure Start where
  recs : List StartRec
  judged : Bool
  go : Bool
deriving DecidableEq, Repr

/-- No start in progress. -/
def Start.idle : Start := ⟨[], false, false⟩

/-- A record in force (R379): type, slot (0 A, 1 B, 2 F), SVN, AUTO_FLOOR, D_REC, body. -/
structure RunRec where
  ty : Nat
  slot : Nat
  svn : Nat
  auto : Bool
  drec : List Byte
  body : List Byte
deriving DecidableEq, Repr

/-- Where the answer to a security request goes: to an Avfer command, or over an MCTP binding. -/
inductive Reply where
  | cmd (no : Nat)
  | mctp (binding : Nat)
deriving DecidableEq, Repr

/-- An owner command that has been judged good and is to be carried out (R386). -/
structure OwnerOp where
  op : Nat
  arg : Nat
  newOwner : List Byte
  reply : Reply
deriving DecidableEq, Repr

/-- A VERIFY_BLOCKS run (R390): its command and context, entries still to be processed, entries passed, the first
failure (code and entry). -/
structure VerifyRun where
  no : Nat
  c : Nat
  todo : List Nat
  passed : Nat
  fail : Option (Nat × Nat)
deriving DecidableEq, Repr

/-- The JTAG port (R443): instruction (0 BYPASS, 1 SAMPLE/PRELOAD, 2 EXTEST, 3 IDCODE), data register, boundary values
preloaded. -/
structure Tap where
  ir : Nat
  dr : Nat
  boundary : Nat
deriving DecidableEq, Repr

/-- Samples of one window of R406: how many, sums of the input power in W and of the domains' powers. -/
structure PowerWin where
  n : Nat
  watts : Nat
  doms : List Nat
deriving DecidableEq, Repr
/-- The package. -/
structure State where
  /-- Commands that wait, first in first out. -/
  pending : List Instr
  /-- Fabric Time Counter in ns (R295). -/
  ftc : Nat
  /-- Fractional rate accumulator of the FTC, in units of 2⁻³² ns (R295). -/
  ftcFrac : Nat
  /-- Registers by BAR0 offset; an absent one holds its reset value (R8, R432). -/
  regs : NMap W32
  /-- Latches of register pairs by accessor and offset of the lower register (R11). -/
  latches : List (Acc × Nat × W32)
  /-- Held lower writes of register pairs by accessor and offset (R11). -/
  heldLow : List (Acc × Nat × W32)
  /-- Value returned by the last register or BAR4 read (the bus, the model's own). -/
  busData : Nat
  /-- Messages that left the package, newest last (the model's own record). -/
  out : List OutMsg
  /-- Nibs by package-wide number (R14). -/
  nibs : NMap Nib
  /-- Contexts (R433). -/
  ctxs : NMap Ctx
  /-- Hub tallies (R247). -/
  hubTal : NMap Tally
  /-- Waits queued at tallies, in order of arrival (R251). -/
  waits : List TWait
  /-- Remote waits and tests on their way to their tally: nib (R251). -/
  waitsOut : List Nat
  /-- Released signals on their way to tallies of this package, oldest first (R265). -/
  signals : List Signal
  /-- Signals held at the host engines, the ribbon controller and the collective engine (R262). -/
  heldHub : List (SigSrc × Held)
  /-- Error reports on their way to a log (R416). -/
  reports : List Report
  /-- Landing areas by die (R135). -/
  landing : NMap Landing
  /-- Bytes of the landing areas (R135): key die * 64 MiB + offset. -/
  landMem : Mem
  /-- Poison bits of the landing areas (R135), by 64 B word. -/
  landPoison : NMap Bool
  /-- Cluster ports of the chain: key 12 die + cluster (R141). -/
  cports : NMap ChainPort
  /-- Mesh slot tables by die (R150). -/
  mesh : NMap (Option MeshTab)
  /-- Transfers on the mesh (R148). -/
  meshX : List MeshXfer
  /-- HBM bytes: key (channel * 524288 + granule) * 4096 + offset (R222). -/
  hbm : Mem
  /-- Poisoned words in the channels' lists: key of the word's first byte / 64 (R226). -/
  hbmPoison : NMap Bool
  /-- Poisoned granules as ranges of channel * 524288 + granule (R226). -/
  hbmGran : List (Nat × Nat)
  /-- Channels removed from a region's map by refolding (R231). -/
  regGone : NMap (List Nat)
  /-- Channels that have failed in a region since its last refold or rebuild (R228, R229). -/
  regFailed : NMap (List Nat)
  /-- Stripes rebuilt so far of a region under REBUILD (R230). -/
  regBuilt : NMap Nat
  /-- When the present calibration burst of a channel ends (R232, R246). -/
  calEnd : NMap Nat
  /-- Dies whose fabric has failed since the last package reset (R426). -/
  deadDies : List Nat
  /-- Ranges of the far tier that contexts have been granted: context, first FPA, bytes (R243). DESIGN CHOICE: which they are
  at reset (log 149). -/
  farGrants : List (Nat × Nat × Nat)
  /-- Host memory by IOVA (environment of R354, R358, R365). -/
  hostMem : Mem
  /-- Running number of the free values the block has used (the model's own). -/
  free : Nat
  /-- Logical nibs enabled per cluster, from the grade record: 64 or 56 (R1, R14). -/
  perCluster : Nat
  /-- Service states of units (R422): key kind * 65536 + unit. -/
  svc : NMap Nat
  /-- Collectives outstanding (R304). -/
  colls : List Coll
  /-- Plane addresses that the Owl or the links report lost (R214, R291, R306). -/
  lostPkgs : List Nat
  /-- Corrected errors of a unit in an FTC second (R417): key kind * 65536 + unit, the second and the count. -/
  corr : NMap (Nat × Nat)
  /-- Queue pairs (R354 to R370): key 16 context + pair. -/
  pairs : NMap Pair
  /-- Avfer commands accepted and not completed, in order of acceptance (R357, R359). -/
  cmds : List AvCmd
  /-- Running number of Avfer commands. -/
  cmdNo : Nat
  /-- Completions formed and not yet numbered (R367), oldest first. -/
  comps : List Comp
  /-- Contexts whose function has Bus Master Enable clear (R370). -/
  bmeOff : List Nat
  /-- The directory, word by word: key 8 index + word (R193). -/
  dir : NMap W32
  /-- The ribbon controller (R182 to R218). -/
  rib : Rib
  /-- Write locks: owner and key of the granule (R391). -/
  locks : List (LockOwner × Nat)
  /-- Weight manifests held (R389). -/
  manifests : List Manifest
  /-- Entries that have matching notices from other holders: DIR_INDEX and position (R390). -/
  notices : List (Nat × Nat)
  /-- Contents of the far tier by FPA (environment of R242, R243). -/
  farMem : Mem
  /-- Words of the far tier that CXL returns poisoned, by FPA / 64 (R244). -/
  farPoison : NMap Bool
  /-- Whether the last read over the bus returned a poisoned word: the EP bit (R352). -/
  busPoison : Bool
  /-- Cluster wakes not completed, in order: cluster 12 d + k and target state (R401, R402). -/
  wakes : List (Nat × Nat)
  /-- Contents of the boot flash (R377). -/
  flash : Mem
  /-- The replay-protected area: two copies, and the flash's counter (R383). -/
  rp : List RpCopy
  /-- Counter of the flash (R383). -/
  rpCount : Nat
  /-- Link ports (R272 to R292). -/
  lports : NMap LPort
  /-- Messages of `out` that the router has taken up (the model's own). -/
  routed : Nat
  /-- Next ORDER by neighbour and VC: key 8 address + VC (R288). -/
  orderOut : NMap Nat
  /-- Next ORDER expected, by neighbour and VC (R288). -/
  orderIn : NMap Nat
  /-- Flits that wait for earlier ones of their neighbour and VC, with the neighbour and the port of arrival (R288). -/
  heldRx : List (Nat × Nat × FlitIn)
  /-- Flits delivered, newest last, each with the context that holds its job tag; none for management (R293). -/
  rx : List (Option Nat × FlitIn)
  /-- Route tables: key 2 (1,024 context + sett) + word (R289). -/
  routes : NMap W32
  /-- The cable plan in force (R282). -/
  plan : Option CPlan
  /-- Pairs of packages that are reported to have no UP link between them (R291). -/
  apart : List (Nat × Nat)
  /-- Ring records of the cable plan (R282). -/
  rings : List (List Nat)
  /-- First 128 bits of the cable plan's digest (R284). -/
  planDigest : BitVec 128
  /-- Optical engines whose spare lane is in use (R424). -/
  spares : List Nat
  /-- Successive FTC offsets below 0.5 ns (R296). -/
  ftcGood : Nat
  /-- When the last edge of the FTC reference came (R298). -/
  refEdge : Nat
  /-- Job starts by context (R338, R339). -/
  starts : NMap Start
  /-- Records in force (R379). -/
  running : List RunRec
  /-- Step of R400 that has been completed: 0 unpowered, 1 always-on domain, 2 boot stage 0, 3 hub, host and link domains,
  4 memory controllers and stacks, 5 die fabrics, 6 boot stage 2, 7 powered off by R398 or R408. -/
  pstep : Nat
  /-- Stacks as step 4 of R400 found them (R221). -/
  stackIns : List StackIn
  /-- Owner command to be carried out (R386). -/
  ownerOp : Option OwnerOp
  /-- VERIFY_BLOCKS runs in progress (R390). -/
  verifies : List VerifyRun
  /-- Physical nibs that a test has marked failed: cluster and number (R425). -/
  badPhys : List (Nat × Nat)
  /-- FTC times of the Owl's restarts (R427). -/
  owlTimes : List Nat
  /-- MCTP endpoint IDs by binding (R428). -/
  eids : NMap Nat
  /-- Sensor readings by sensor ID (R429). -/
  sensors : NMap Nat
  /-- The JTAG port (R443). -/
  tap : Tap
  /-- A fatal entry has been written since the last package reset (R442). -/
  fatalSeen : Bool
  /-- Samples of the present window (R406, R409). -/
  pwin : PowerWin
  /-- Clock in MHz that the cap allows a die, where that is below the highest (R406). -/
  capClk : NMap Nat
  /-- Clock in MHz that temperature allows a die, where that is below the highest (R408). -/
  thermClk : NMap Nat
deriving DecidableEq, Repr

/-- Why the model stops with a fault. -/
inductive Fault where
  /-- Raised by any command that names a nib, port, context, region or other unit that the package does not have.
  No event of the hardware corresponds to such a command. Safe: nothing is concluded from it. -/
  | noSuchUnit
deriving DecidableEq, Repr

/-- Why the model refuses a command. -/
inductive Refusal where
  /-- Raised by a dispatch arm whose command has no meaning yet; by no meaning. Safe. -/
  | notModelled (mnemonic : String)
deriving DecidableEq, Repr

/-- The package right after an always-on reset (R440): nothing loaded, nothing stored, no command waiting. -/
def State.reset : State :=
  { pending := [], ftc := 0, ftcFrac := 0, regs := [], latches := [], heldLow := [], busData := 0, out := [], nibs := [],
    ctxs := [], hubTal := [], waits := [], waitsOut := [], signals := [], heldHub := [], reports := [],
    landing := [], landMem := [], landPoison := [], cports := [], mesh := [], meshX := [], hbm := [],
    hbmPoison := [], hbmGran := [], regGone := [], regFailed := [], regBuilt := [], calEnd := [], deadDies := [],
    farGrants := (List.range 16).map fun c => (c, 0, 2 ^ 42), hostMem := [], free := 0,
    perCluster := 64, svc := [], colls := [], lostPkgs := [], corr := [], pairs := [], cmds := [], cmdNo := 0,
    comps := [], bmeOff := [], dir := [], rib := Rib.reset, locks := [], manifests := [], notices := [],
    farMem := [], farPoison := [], busPoison := false, wakes := [], flash := [], rp := [], rpCount := 0,
    lports := [], routed := 0, orderOut := [], orderIn := [], heldRx := [], rx := [], routes := [],
    plan := none, apart := [], rings := [],
    planDigest := 0, spares := [], ftcGood := 0, refEdge := 0, starts := [], running := [], pstep := 1,
    stackIns := [], ownerOp := none, verifies := [], badPhys := [], owlTimes := [], eids := [], sensors := [],
    tap := ⟨3, 0, 0⟩, fatalSeen := false, pwin := ⟨0, 0, []⟩, capClk := [], thermClk := [] }

end Sys2Proof.Machine
end

