-- ==== Sys2Proof/Machine/Ops.lean ====
section
/-!
DEFINITION. Named operations over the package state: registers, nibs, contexts, error reports, halts, messages.
-/
namespace Sys2Proof.Machine

/-- Outcome of a command in this model. -/
abbrev Out := Host.Outcome State Fault Refusal

/-! ### Registers -/

/-- A hub register by BAR0 offset. -/
def getReg (s : State) (off : Nat) : W32 := look (hubReset off) s.regs off

/-- Set a hub register. -/
def setReg (s : State) (off : Nat) (v : W32) : State := { s with regs := put (hubReset off) s.regs off v }

/-- Bits `[hi:lo]` of a hub register. -/
def getF (s : State) (off hi lo : Nat) : Nat := fld (getReg s off) hi lo

/-- Set bits `[hi:lo]` of a hub register. -/
def setF (s : State) (off hi lo v : Nat) : State := setReg s off (setFld (getReg s off) hi lo v)

/-- Set one bit of a hub register. -/
def setBit (s : State) (off i : Nat) : State := setF s off i i 1

/-- A 64-bit hub register pair. -/
def getReg64 (s : State) (off : Nat) : Nat := (getReg s off).toNat + 2 ^ 32 * (getReg s (off + 4)).toNat

/-- Set a 64-bit hub register pair. -/
def setReg64 (s : State) (off v : Nat) : State :=
  setReg (setReg s off (BitVec.ofNat 32 v)) (off + 4) (BitVec.ofNat 32 (v / 2 ^ 32))

/-- Add to a saturating count in bits `[hi:lo]` of a hub register. -/
def bumpF (s : State) (off hi lo k : Nat) : State :=
  setF s off hi lo (satAdd (2 ^ (hi - lo + 1) - 1) (getF s off hi lo) k)

/-! ### Nibs (R14) -/

/-- A nib by number. -/
def nibOf (s : State) (n : Nat) : Nib := look Nib.reset s.nibs n

/-- Replace a nib. -/
def setNib (s : State) (n : Nat) (b : Nib) : State := { s with nibs := put Nib.reset s.nibs n b }

/-- Change a nib. -/
def onNib (s : State) (n : Nat) (f : Nib → Nib) : State := setNib s n (f (nibOf s n))

/-- Whether a nib number is populated on this grade (R14). -/
def populated (s : State) (n : Nat) : Bool := n < 3072 && n % 64 < s.perCluster

/-- Numbers of all populated nibs. -/
def allNibs (s : State) : List Nat := (List.range 3072).filter (populated s)

/-- Cluster 12 d + k of a nib (R14, R420). -/
def clusterOf (n : Nat) : Nat := n / 64

/-- Compute die of a nib. -/
def dieOf (n : Nat) : Nat := n / 768

/-- A register of a nib's window that is kept as a word. -/
def nibReg (b : Nib) (off : Nat) : W32 := look (nibReset off) b.regs off

/-- Set a register of a nib's window. -/
def setNibReg (b : Nib) (off : Nat) (v : W32) : Nib := { b with regs := put (nibReset off) b.regs off v }

/-- Set bits of a register of a nib's window. -/
def setNibF (b : Nib) (off hi lo v : Nat) : Nib := setNibReg b off (setFld (nibReg b off) hi lo v)

/-- Add to a saturating field of a register of a nib's window. -/
def bumpNibF (b : Nib) (off hi lo k : Nat) : Nib :=
  setNibF b off hi lo (satAdd (2 ^ (hi - lo + 1) - 1) (fld (nibReg b off) hi lo) k)

/-- Add to a saturating 64-bit counter pair of a nib's window (R37, R134). -/
def bumpNib64 (b : Nib) (off k : Nat) : Nib :=
  let v := satAdd (2 ^ 64 - 1) ((nibReg b off).toNat + 2 ^ 32 * (nibReg b (off + 4)).toNat) k
  setNibReg (setNibReg b off (BitVec.ofNat 32 v)) (off + 4) (BitVec.ofNat 32 (v / 2 ^ 32))

/-- Write a 64-bit pair of a nib's window. -/
def setNib64 (b : Nib) (off v : Nat) : Nib :=
  setNibReg (setNibReg b off (BitVec.ofNat 32 v)) (off + 4) (BitVec.ofNat 32 (v / 2 ^ 32))

/-! ### Contexts (R257, R353, R433) -/

/-- A context. -/
def ctxOf (s : State) (c : Nat) : Ctx := look Ctx.empty s.ctxs c

/-- Replace a context. -/
def setCtx (s : State) (c : Nat) (x : Ctx) : State := { s with ctxs := put Ctx.empty s.ctxs c x }

/-- Change a context. -/
def onCtx (s : State) (c : Nat) (f : Ctx → Ctx) : State := setCtx s c (f (ctxOf s c))

/-- Offset of an element of a per-context register. -/
def perCtx (base stride c : Nat) : Nat := base + stride * c

/-- AVF_CTXc_CLUSTERS as 48 bits: bit 12 d + k for Kk of Cd (R353). -/
def clusterMask (s : State) (c : Nat) : Nat := getReg64 s (perCtx Reg.AVF_CTX_CLUSTERS 0x1000 c) % 2 ^ 48

/-- Clusters that a context holds, in ascending package-wide order (R257). -/
def ctxClusters (s : State) (c : Nat) : List Nat :=
  (List.range 48).filter fun k => (clusterMask s c).testBit k

/-- The context that holds a cluster. -/
def ctxOfCluster (s : State) (k : Nat) : Option Nat :=
  (List.range 16).find? fun c => (clusterMask s c).testBit k

/-- The context that holds a nib. -/
def ctxOfNib (s : State) (n : Nat) : Option Nat := ctxOfCluster s (clusterOf n)

/-- Nibs per cluster of a geometry class (R97): 64 for 0x01, 56 for 0x02. -/
def geomNibs (geom : Nat) : Nat := if geom = 2 then 56 else 64

/-- The nib with span-relative index `i` of context `c` (R257). -/
def nibOfIndex (s : State) (c i : Nat) : Option Nat :=
  let g := geomNibs (ctxOf s c).geom
  if i < (ctxOf s c).spanNibs then
    match (ctxClusters s c)[i / g]? with
    | some k => some (k * 64 + i % g)
    | none => none
  else none

/-- Position of an element in a list. -/
def posOf (x : Nat) : List Nat → Nat → Option Nat
  | [], _ => none
  | y :: ys, i => if y = x then some i else posOf x ys (i + 1)

/-- Span-relative index of a nib in its context (R257). -/
def indexOfNib (s : State) (c n : Nat) : Option Nat :=
  let g := geomNibs (ctxOf s c).geom
  match posOf (clusterOf n) (ctxClusters s c) 0 with
  | some k =>
    let i := k * g + n % 64
    if n % 64 < g ∧ i < (ctxOf s c).spanNibs then some i else none
  | none => none

/-- Nibs of a context's job, in order of index (R257). -/
def jobNibs (s : State) (c : Nat) : List Nat :=
  (List.range (ctxOf s c).spanNibs).filterMap (nibOfIndex s c)

/-- Whether a context is in Exact Mode (R327). -/
def exactMode (s : State) (c : Nat) : Bool := bitOf (getReg s (perCtx Reg.FTC_CTX_MODE 0x20 c)).toNat 0

/-- Position of the package in a context's job (R257). -/
def packageIndex (s : State) (c : Nat) : Nat := getF s (perCtx Reg.FTC_TALC_POS 0x40 c) 13 0

/-! ### Messages and error reports -/

/-- Send a message out of the package. -/
def send (s : State) (m : OutMsg) : State := { s with out := s.out ++ [m] }

/-- Raise an error report (R412 to R418): class, code, unit kind, context, unit, information. -/
def raise (s : State) (cls code kind : Nat) (ctx : Option Nat) (unit info : Nat) : State :=
  { s with reports := s.reports ++ [⟨cls, code, kind, ctx, unit, info, s.ftc⟩] }

/-- Let time reach `t` at least. -/
def atTime (s : State) (t : Nat) : State := { s with ftc := Nat.max s.ftc t }

/-- The active stage ends without its DONE signal (R126): its OFFPKG flags and ACTIVE bits fall, and no block is being expanded
(R181). -/
def clearStage (b : Nib) : Nib :=
  if b.stage.isNone then
    match b.stgReq with
    | some _ => setNibF { b with stgReq := none } Reg.NIB_STG_STATUS 1 0 0
    | none => b
  else
    let rs := (b.rings.map fun p => (p.1, { p.2 with stageOff := false })).filter fun p => p.2 ≠ Ring.empty
    setNibF (setNibF (setNibF { b with stage := none, rings := rs } Reg.NIB_STG_STATUS 1 0 0) Reg.NIB_EXP_STATUS 0 0 0)
      Reg.NIB_EXP_BLOCK 31 31 0

/-! ### Clock domains of clusters (R16, R401) -/

/-- Clock domain of cluster `k`, numbered 12 d + k (R16). -/
def domOf (k : Nat) : Nat := k / 12 * 14 + k % 12

/-- STATE of a clock domain (R411): 0 power-gated or off, 1 clock-gated, 2 running, 3 waking. -/
def domState (s : State) (dom : Nat) : Nat := getF s (Reg.PWR_DOM_STATE + 8 * dom) 1 0

/-- Change the STATE of a clock domain. -/
def setDom (s : State) (dom v : Nat) : State := setF s (Reg.PWR_DOM_STATE + 8 * dom) 1 0 v

/-- A cluster of which no nib is in STATE 2 any more returns to CLOCK_GATED (R401). -/
def clusterRest (s : State) (k : Nat) : State :=
  if domState s (domOf k) = 2 && !((List.range 64).any fun j => (nibOf s (64 * k + j)).st = 2) then setDom s (domOf k) 1
  else s

/-- A nib that stops with a state number (R102, R104): it issues nothing more, its stage ends with it (R126), and its
wait is withdrawn unless the tally has granted it (R270). -/
def stopNib (s : State) (n st : Nat) : State :=
  let b := clearStage (nibOf s n)
  let s := { s with waits := s.waits.filter fun w => w.who ≠ n, waitsOut := s.waitsOut.filter fun m => m ≠ n }
  let t := setNib s n { b with st := st, hold := none, wait := { b.wait with valid := false, queued := false } }
  if b.st = 2 then clusterRest t (clusterOf n) else t

/-- Service state of a unit (R422): 0 IN_SERVICE, 1 FENCED, 2 TESTING, 3 PASSED, 4 FAILED. -/
def svcOf (s : State) (kind unit : Nat) : Nat := look 0 s.svc (kind * 65536 + unit)

/-- Change a service state; every change writes CODE 0x04 with the new state and the cause (R418, R422). -/
def setSvc (s : State) (kind unit st cause : Nat) : State :=
  if svcOf s kind unit = st then s
  else raise { s with svc := put 0 s.svc (kind * 65536 + unit) st } 0 0x04 kind none unit (st + 256 * (Config.causeCode cause).toNat)

/-- `k` corrected errors of a unit (R417): logged with `code` where the unit's count within one FTC second first
exceeds HUB_CORR_THR. -/
def corrected (s : State) (code kind unit k : Nat) : State :=
  let key := kind * 65536 + unit
  let sec := s.ftc / 1000000000
  let (t, c) := look (0, 0) s.corr key
  let old := if t = sec then c else 0
  let thr := getF s Reg.HUB_CORR_THR 15 0
  let s := { s with corr := put (0, 0) s.corr key (sec, old + k) }
  if old ≤ thr && old + k > thr then raise s 0 code kind none unit (old + k) else s

/-! ### Completions of Avfer commands (R358 to R360) -/

/-- A field of a command entry (R358, R362). -/
def AvCmd.f (x : AvCmd) (o n : Nat) : Nat := field x.raw o n

/-- Offset of a register of queue pair `q` of context `c`. -/
def pairReg (base c q : Nat) : Nat := base + 0x1000 * c + 0x40 * q

/-- An error that a completion's status raises (R360, R418). -/
def statusError (s : State) (c q seq status : Nat) : State :=
  if status = 0x0C then
    raise (bumpF s (perCtx Reg.AVF_CTX_POISON 0x1000 c) 31 0 1) 1 0x15 7 (some c) (16 * c + q) seq
  else if 5 ≤ status && status ≤ 0x0B then raise s 2 0x28 7 (some c) (16 * c + q) (status + seq * 2 ^ 32)
  else s

/-- A completion is formed (R358). -/
def formComp (s : State) (c q seq tag op status : Nat) (notice noIrq : Bool) (result cursor : Nat) : State :=
  statusError { s with comps := s.comps ++ [⟨c, q, seq, tag, status, op, notice, noIrq, result, cursor, s.ftc⟩] }
    c q seq status

/-- An accepted command ends with a status. -/
def complete (s : State) (x : AvCmd) (status result cursor : Nat) : State :=
  formComp { s with cmds := s.cmds.filter fun y => y.no ≠ x.no } x.c x.q (x.f 4 4) (x.f 8 8) (x.f 0 1) status false
    (bitOf (x.f 1 1) 1) result cursor

/-- Number under which a host command waits at a tally: above every nib number. -/
def hostWho (x : AvCmd) : Nat := 4096 + x.no

/-- A fresh number for a free value. -/
def takeFree (s : State) : Nat × State := (s.free, { s with free := s.free + 1 })

end Sys2Proof.Machine
end

