-- ==== Sys2Proof/Machine/Hbm.lean ====
section
/-!
DEFINITION. HBM: regions and the address map (R223, R224), poison records (R226), parity and lost channels (R227 to
R231), adder regions (R237).
-/
namespace Sys2Proof.Machine

/-! ### Regions -/

/-- Offset of a register of region `r`. -/
def regOff (base r : Nat) : Nat := base + 32 * r

/-- A region's four words (R223). -/
structure Region where
  base : Nat
  q : Nat
  chBase : Nat
  scope : Nat
  index : Nat
  kind : Nat
  addFmt : Nat
  ctx : Nat
  valid : Bool
deriving DecidableEq, Repr

/-- A region from its four register words (R246). -/
def regionOfWords (b e c f : W32) : Region :=
  { base := fld b 26 0, q := fld e 19 0, chBase := fld c 18 0, scope := fld f 1 0, index := fld f 5 2,
    kind := fld f 7 6, addFmt := fld f 10 8, ctx := fld f 15 12, valid := fld f 31 31 = 1 }

/-- Region `r` of the table. -/
def regionOf (s : State) (r : Nat) : Region :=
  regionOfWords (getReg s (regOff Reg.MEM_REG_BASE r)) (getReg s (regOff Reg.MEM_REG_EXTENT r))
    (getReg s (regOff Reg.MEM_REG_CHBASE r)) (getReg s (regOff Reg.MEM_REG_CFG r))

/-- Groups of an interleave set, ascending (R223). -/
def groupsOf (g : Region) : List Nat :=
  match g.scope with
  | 0 => List.range 16
  | 1 => (List.range 4).map (4 * g.index + ·)
  | 2 => (List.range 2).map (2 * g.index + ·)
  | _ => [g.index]

/-- Channels of group `γ` in the map of a region, ascending (R224, R231). -/
def mapChannels (gone : List Nat) (γ : Nat) : List Nat :=
  ((List.range 16).map (16 * γ + ·)).filter fun c => !gone.contains c

/-- Parity positions of a group: one where the region is a weight region and the group has two channels (R224, R231). -/
def parityOf (g : Region) (n : Nat) : Nat := if g.kind = 1 ∧ (n ≥ 2) then 1 else 0

/-- The data slots of a region in order: (group, d) (R224). -/
def slotsOf (g : Region) (gone : List Nat) : List (Nat × Nat) :=
  ((List.range 16).map fun d =>
    ((groupsOf g).filter fun γ =>
      let n := (mapChannels gone γ).length
      d < n - parityOf g n).map fun γ => (γ, d)).flatten

/-- Data width W (R224). -/
def widthOf (g : Region) (gone : List Nat) : Nat := (slotsOf g gone).length

/-- Where a granule lies: region, stripe, group, channel, channel-local granule, parity channel (R224). -/
structure Loc where
  r : Nat
  q : Nat
  group : Nat
  ch : Nat
  gran : Nat
  parity : Option Nat
deriving DecidableEq, Repr

/-- The region that holds a DPA granule (R223). -/
def regionAt (s : State) (dg : Nat) : Option Nat :=
  (List.range Config.regions).find? fun r =>
    let g := regionOf s r
    g.valid && g.base ≤ dg && dg < g.base + widthOf g (look [] s.regGone r) * g.q

/-- Placement of granule `i` of region `r` (R224). -/
def place (s : State) (r i : Nat) : Option Loc :=
  let g := regionOf s r
  let gone := look [] s.regGone r
  let sl := slotsOf g gone
  let w := sl.length
  match sl[i % w]? with
  | none => none
  | some (γ, d) =>
    let q := i / w
    let chs := mapChannels gone γ
    let n := chs.length
    let π := q % n
    let pos := if parityOf g n = 0 then d else if d < π then d else d + 1
    match chs[pos]? with
    | none => none
    | some ch => some ⟨r, q, γ, ch, g.chBase + q, if parityOf g n = 0 then none else chs[π]?⟩

/-- Placement of a device physical address. -/
def locate (s : State) (dpa : Nat) : Option Loc :=
  match regionAt s (dpa / 4096) with
  | none => none
  | some r => place s r (dpa / 4096 - (regionOf s r).base)

/-! ### Words of a channel -/

/-- Where a byte of a granule lies in its channel (R225): pseudo-channel, bank group, bank, SID, row, the 32 B burst
(column), the byte of the 64 B word. -/
structure HbmCell where
  pc : Nat
  bankGroup : Nat
  bank : Nat
  sid : Nat
  row : Nat
  column : Nat
  byte : Nat
deriving DecidableEq, Repr

/-- The location of offset `o` of a channel-local granule (R225). -/
def hbmCell (gran o : Nat) : HbmCell :=
  { pc := bits o 6 6, bankGroup := 2 * bits gran 0 0 + bits o 11 11, bank := bits gran 2 1, sid := bits gran 4 3
    row := bits gran 18 5, column := 2 * bits o 10 7 + bits o 5 5, byte := bits o 5 0 }

/-- The channel-local granule and offset of a location (R225). -/
def HbmCell.at (x : HbmCell) : Nat × Nat :=
  (x.row * 32 + x.sid * 8 + x.bank * 2 + x.bankGroup / 2,
    x.bankGroup % 2 * 2048 + x.column / 2 * 128 + x.pc * 64 + x.byte)

/-- Key of a byte in the HBM store (R222). -/
def hbmKey (ch gran o : Nat) : Nat := (ch * Config.granulesPerChannel + gran) * 4096 + o

/-- Key of a granule in the poison bitmap. -/
def granKey (ch gran : Nat) : Nat := ch * Config.granulesPerChannel + gran

/-- Whether a granule's poison bit is set (R226). -/
def granBit (s : State) (k : Nat) : Bool := s.hbmGran.any fun p => p.1 ≤ k && k < p.2

/-- Set the poison bits of granules `lo .. hi - 1`, keeping the ranges sorted and apart. -/
def addRange (lo hi : Nat) : List (Nat × Nat) → List (Nat × Nat)
  | [] => [(lo, hi)]
  | (a, b) :: rest =>
    if hi < a then (lo, hi) :: (a, b) :: rest
    else if b < lo then (a, b) :: addRange lo hi rest
    else addRange (Nat.min lo a) (Nat.max hi b) rest

/-- Clear the poison bits of granules `lo .. hi - 1`. -/
def delRange (lo hi : Nat) : List (Nat × Nat) → List (Nat × Nat)
  | [] => []
  | (a, b) :: rest =>
    (if a < Nat.min b lo then [(a, Nat.min b lo)] else [])
      ++ (if Nat.max a hi < b then [(Nat.max a hi, b)] else [])
      ++ delRange lo hi rest

/-- Words in a channel's poison list (R226, MEM_CHc_POISON). -/
def poisonWords (s : State) (ch : Nat) : Nat :=
  (keepRange s.hbmPoison (hbmKey ch 0 0 / 64) (Config.granulesPerChannel * 64)).length

/-- Granule bits set in a channel. -/
def poisonGranules (s : State) (ch : Nat) : Nat :=
  let lo := granKey ch 0
  let hi := granKey (ch + 1) 0
  (s.hbmGran.map fun p => Nat.min p.2 hi - Nat.max p.1 lo).sum

/-- Whether a word of a channel reads poisoned by its records (R226). -/
def wordPoison (s : State) (ch gran o : Nat) : Bool :=
  look false s.hbmPoison (hbmKey ch gran o / 64) || granBit s (granKey ch gran)

/-- Offset of a register of channel `ch` (R246). -/
def chReg (base ch : Nat) : Nat := base + 0x10000 * (ch / 32) + 16 * (ch % 32)

/-- Add a word to the list, or set its granule's bit where the list is full (R226). -/
def addPoison (s : State) (ch gran o : Nat) : State :=
  if granBit s (granKey ch gran) then s
  else if look false s.hbmPoison (hbmKey ch gran o / 64) then s
  else if poisonWords s ch ≥ 1024 then
    let s := { s with
      hbmGran := addRange (granKey ch gran) (granKey ch gran + 1) s.hbmGran
      hbmPoison := dropRange s.hbmPoison (hbmKey ch gran 0 / 64) 64 }
    setBit s (chReg Reg.MEM_CH_POISON ch) 31
  else { s with hbmPoison := put false s.hbmPoison (hbmKey ch gran o / 64) true }

/-- Remove a word from the list. -/
def clearWord (s : State) (ch gran o : Nat) : State :=
  { s with hbmPoison := drop s.hbmPoison (hbmKey ch gran o / 64) }

/-- MEM_ERR and MEM_ERR_INFO (R246). -/
def memErr (s : State) (bit r ch : Nat) : State :=
  let s := setBit s Reg.MEM_ERR bit
  setReg s Reg.MEM_ERR_INFO (BitVec.ofNat 32 (r % 64 + 256 * (ch % 256)))

/-! ### Failed channels -/

/-- Failed channels of a region's group. -/
def failedIn (s : State) (r γ : Nat) : List Nat := (look [] s.regFailed r).filter fun c => c / 16 = γ

/-- Whether the granule's stripe has been rebuilt (R230). -/
def rebuilt (s : State) (l : Loc) : Bool := l.q < look 0 s.regBuilt l.r

/-- Exclusive-OR of byte lists. -/
def xorBytes (a b : List Byte) : List Byte := List.zipWith (· ^^^ ·) a b

/-- Bytes stored on a channel. -/
def chBytes (s : State) (ch gran o n : Nat) : List Byte := readBytes s.hbm (hbmKey ch gran o) n

/-- The other channels of a group at the same channel-local number (R228). -/
def peers (s : State) (l : Loc) : List Nat := (mapChannels (look [] s.regGone l.r) l.group).filter (· ≠ l.ch)

/-- Read of `n` bytes inside one 64 B word: the bytes and the poison (R226, R228, R229, R231). -/
def readWord (s : State) (l : Loc) (o n : Nat) : List Byte × Bool :=
  let plain := (chBytes s l.ch l.gran o n, wordPoison s l.ch l.gran o)
  let failed := failedIn s l.r l.group
  if !failed.contains l.ch || rebuilt s l then plain
  else if (regionOf s l.r).kind = 1 ∧ failed.length = 1 ∧ l.parity.isSome then
    let ps := peers s l
    (ps.foldl (fun a c => xorBytes a (chBytes s c l.gran o n)) (List.replicate n 0),
      ps.any (fun c => wordPoison s c l.gran o) || wordPoison s l.ch l.gran o)
  else (chBytes s l.ch l.gran o n, true)

/-! ### Additions (R237) -/

/-- One element added in ADD_FMT: the sum and whether a signed FX64 overflow occurred. -/
def addElem (fmt : Nat) (a b : Nat) : Nat × Bool :=
  match fmt with
  | 0 => ((a + b) % 2 ^ 32, false)
  | 1 => ((a + b) % 2 ^ 64, false)
  | 2 => ((toF32 ((f32 (BitVec.ofNat 32 a)).add (f32 (BitVec.ofNat 32 b)))).toNat, false)
  | 3 => (toBF16 ((decodeFlt fBF16 a).add (decodeFlt fBF16 b)), false)
  | _ =>
    let t := signed 64 a + signed 64 b
    (wrapNat 64 t, decide (t ≥ 2 ^ 63 ∨ t < -(2 ^ 63)))

/-- Bytes of an element of ADD_FMT. -/
def addSize (fmt : Nat) : Nat := match fmt with | 0 => 4 | 1 => 8 | 2 => 4 | 3 => 2 | _ => 8

/-- Element-wise addition of a word (R237). -/
def addWord (fmt : Nat) (old new : List Byte) : List Byte × Bool :=
  let k := addSize fmt
  let rs := List.zipWith (fun a b => addElem fmt (leNat a) (leNat b)) (chunks k old.length old) (chunks k new.length new)
  ((rs.map fun r => natLE k r.1).flatten, rs.any (·.2))

/-! ### Writes -/

/-- Poison records after a write of a word (R226): `whole` where it covers all 64 bytes. -/
def notePoison (s : State) (l : Loc) (o : Nat) (poison whole : Bool) : State :=
  if poison then addPoison s l.ch l.gran o
  else if whole then clearWord s l.ch l.gran o else s

/-- Store bytes on a channel. -/
def storeCh (s : State) (ch gran o : Nat) (bs : List Byte) : State :=
  { s with hbm := writeBytes s.hbm (hbmKey ch gran o) bs }

/-- Parity of a stripe after a write of `bs` at `l`: old parity, old data and new data (R227); on a failed channel,
the new data and the other data granules (R228). -/
def storeParity (s : State) (l : Loc) (o : Nat) (bs : List Byte) (dead : Bool) : State :=
  match l.parity with
  | none => s
  | some p =>
    if (failedIn s l.r l.group).contains p && !rebuilt s l then s
    else if dead then
      let others := (peers s l).filter (· ≠ p)
      storeCh s p l.gran o (others.foldl (fun a c => xorBytes a (chBytes s c l.gran o bs.length)) bs)
    else
      let n := bs.length
      storeCh s p l.gran o (xorBytes (xorBytes (chBytes s p l.gran o n) (chBytes s l.ch l.gran o n)) bs)

/-- One write inside a 64 B word: `nib` writes to adder regions add (R237). -/
def writeWord (s : State) (l : Loc) (o : Nat) (bs : List Byte) (poison nib : Bool) : State :=
  let g := regionOf s l.r
  let whole := bs.length = 64
  let failed := failedIn s l.r l.group
  let dead := failed.contains l.ch && !rebuilt s l
  if g.kind = 2 then
    if dead then s
    else if nib then
      let (sum, ovf) := addWord g.addFmt (chBytes s l.ch l.gran o bs.length) bs
      let s := if ovf then memErr s 3 l.r l.ch else s
      let s := storeCh s l.ch l.gran o sum
      if poison then addPoison s l.ch l.gran o else s
    else notePoison (storeCh s l.ch l.gran o bs) l o poison whole
  else if g.kind = 1 then
    if dead && (failed.length ≥ 2 || l.parity.isNone) then s
    else
      let s := storeParity s l o bs dead
      let s := if dead then s else storeCh s l.ch l.gran o bs
      notePoison s l o poison whole
  else if dead then s
  else notePoison (storeCh s l.ch l.gran o bs) l o poison whole

/-- Whether a granule of a channel is write-locked (R391). -/
def locked (s : State) (ch gran : Nat) : Bool := s.locks.any fun p => p.2 = granKey ch gran

/-- A write to a locked granule: discarded, SEC_ERR.LOCKED_WRITE and its error (R391, R418). -/
def lockedWrite (s : State) (l : Loc) (dpa : Nat) : State :=
  raise (setBit s Reg.SEC_ERR 0) 2 0x29 3 (some (regionOf s l.r).ctx) l.ch dpa

/-- Bytes from `a` to the end of its 64 B word, at most `n`. -/
def inWord (a n : Nat) : Nat := Nat.min n (64 - a % 64)

/-- Write bytes at a DPA, word by word; poison is given by 64 B word of the data (`fuel` bounds the words). -/
def writeDpaWords : Nat → State → Nat → List Byte → List Bool → Bool → State
  | 0, s, _, _, _, _ => s
  | fuel + 1, s, a, bs, ps, nib =>
    match bs with
    | [] => s
    | _ =>
      let k := inWord a bs.length
      let s := match locate s a with
        | none => s
        | some l =>
          if locked s l.ch l.gran then lockedWrite s l a
          else writeWord s l (a % 4096) (bs.take k) (ps.headD false) nib
      writeDpaWords fuel s (a + k) (bs.drop k) ps.tail nib

/-- Clear the granule bits of the whole granules that one clean write covers (R226). -/
def clearGranules : Nat → State → Nat → Nat → State
  | 0, s, _, _ => s
  | fuel + 1, s, a, n =>
    if n < 4096 then s
    else
      let s := match locate s a with
        | none => s
        | some l =>
          if locked s l.ch l.gran then s
          else { s with hbmGran := delRange (granKey l.ch l.gran) (granKey l.ch l.gran + 1) s.hbmGran }
      clearGranules fuel s (a + 4096) (n - 4096)

/-- DPA granules of the data of stripe `q` of a region in a group (R224). -/
def stripeGrans (s : State) (r q γ : Nat) : List Nat :=
  let g := regionOf s r
  let sl := slotsOf g (look [] s.regGone r)
  ((List.range sl.length).filter fun i => match sl[i]? with | some x => x.1 = γ | none => false).map fun i =>
    g.base + q * sl.length + i

/-- Parity of a stripe from its data (R227); a failed channel of the group leaves it as the writes have formed it. -/
def newParity (s : State) (l : Loc) : State :=
  match l.parity with
  | none => s
  | some p =>
    if !(failedIn s l.r l.group).isEmpty || locked s p l.gran then s
    else
      let data := (mapChannels (look [] s.regGone l.r) l.group).filter (· ≠ p)
      storeCh s p l.gran 0 (data.foldl (fun a c => xorBytes a (chBytes s c l.gran 0 4096)) (List.replicate 4096 0))

/-- A transfer that covers every data granule of a stripe writes its parity from the new data (R227). -/
def wholeStripes (s : State) (a n : Nat) : State :=
  let lo := (a + 4095) / 4096
  let hi := (a + n) / 4096
  let ls := (List.range (hi - lo)).filterMap fun i => (locate s (4096 * (lo + i))).filter fun l => l.parity.isSome
  ls.foldl (fun s l =>
    let gs := stripeGrans s l.r l.q l.group
    if (gs.all fun g => lo ≤ g && g < hi) && gs.head?.bind (fun g => locate s (4096 * g)) = some l then newParity s l else s) s

/-- One write at a DPA (R226, R227, R237). Poison is given by word. -/
def writeDpa (s : State) (a : Nat) (bs : List Byte) (ps : List Bool) (nib : Bool) : State :=
  let s := wholeStripes (writeDpaWords (bs.length + 1) s a bs ps nib) a bs.length
  let skip := (4096 - a % 4096) % 4096
  if ps.any id || bs.length < skip then s
  else if nib && (match locate s a with | some l => (regionOf s l.r).kind = 2 | none => false) then s
  else clearGranules (bs.length / 4096 + 1) s (a + skip) (bs.length - skip)

/-- Read bytes at a DPA, word by word: bytes and poison by word. A DPA outside every region reads zero. -/
def readDpa : Nat → State → Nat → Nat → List Byte × List Bool
  | 0, _, _, _ => ([], [])
  | fuel + 1, s, a, n =>
    if n = 0 then ([], [])
    else
      let k := inWord a n
      let (bs, p) := match locate s a with
        | none => (List.replicate k 0, false)
        | some l => readWord s l (a % 4096) k
      let (rest, ps) := readDpa fuel s (a + k) (n - k)
      (bs ++ rest, p :: ps)

/-- Whether `n` bytes at a DPA lie in valid regions of context `c` (R106 subcode 0x08). -/
def dpaOwned : Nat → State → Nat → Nat → Nat → Bool
  | 0, _, _, _, _ => true
  | fuel + 1, s, c, a, n =>
    if n = 0 then true
    else
      let k := Nat.min n (4096 - a % 4096)
      match regionAt s (a / 4096) with
      | none => false
      | some r => (regionOf s r).ctx = c && dpaOwned fuel s c (a + k) (n - k)

end Sys2Proof.Machine
end

