-- ==== Sys2Proof/Machine/SlotCode.lean ====
section
/-!
DEFINITION. The encodings of the five slots of a bundle (R72, R84, R85, R89, R90, R109, R110, R117, R118, R127):
decoding from the 256 bits of the bundle store, encoding, and the checks for reserved values and unused fields.
-/
namespace Sys2Proof.Machine

/-- The predicate field of four bits (R73). -/
def predBits (p : Pred) : BitVec 4 := BitVec.ofBool p.neg ++ p.idx

/-- The predicate of four bits (R73). -/
def predOf (w : BitVec 4) : Pred := ⟨w.getLsbD 3, w.extractLsb' 0 3⟩

/-! ### Control slot -/

/-- Bits [27:0] of a control operation (R84, R85). -/
def ctlBits : Ctl → BitVec 28
  | .nop => 0
  | .alu sd sa sb func => 0x01#6 ++ sd ++ sa ++ sb ++ func
  | .immS op sd sa imm => (0x02#6 + op.zeroExtend 6) ++ sd ++ sa ++ imm
  | .movi sd imm => 0x09#6 ++ sd ++ imm
  | .movh sd imm => 0x0A#6 ++ sd ++ 0#1 ++ imm
  | .pset pd sa sb cond => 0x0B#6 ++ pd ++ sa ++ sb ++ cond ++ 0#5
  | .plog pd pa pb pfn => 0x0C#6 ++ pd ++ pa ++ pb ++ pfn ++ 0#11
  | .aadd ad aa sb shift => 0x0D#6 ++ ad ++ aa ++ sb ++ shift ++ 0#6
  | .aaddi ad aa imm => 0x0E#6 ++ ad ++ aa ++ imm
  | .aset ad sa half => 0x0F#6 ++ ad ++ sa ++ BitVec.ofBool half ++ 0#12
  | .amv sd aa half => 0x10#6 ++ sd ++ aa ++ BitVec.ofBool half ++ 0#12
  | .bra off => 0x11#6 ++ 0#5 ++ off
  | .jal off => 0x12#6 ++ 0#5 ++ off
  | .jr sa => 0x13#6 ++ sa ++ 0#17
  | .loops sc len => 0x14#6 ++ sc ++ len ++ 0#7
  | .loopi count len => 0x15#6 ++ count ++ len
  | .rdsys sd sel => 0x16#6 ++ sd ++ 0#13 ++ sel
  | .halt => 0x17#6 ++ 0#22
  | .trap code => 0x18#6 ++ 0#6 ++ code

/-- Bits `[lo + n - 1 : lo]` are zero. -/
def zeroAt {w : Nat} (b : BitVec w) (lo n : Nat) : Bool := b.extractLsb' lo n = 0

/-- The control operation of bits [27:0]; none where the opcode is reserved or reserved bits are set (R84, R85). -/
def ctlOf (w : BitVec 28) : Option Ctl :=
  let d := w.extractLsb' 17 5
  let a := w.extractLsb' 12 5
  match (w.extractLsb' 22 6).toNat with
  | 0x00 => if zeroAt w 0 22 then some .nop else none
  | 0x01 => some (.alu d a (w.extractLsb' 7 5) (w.extractLsb' 0 7))
  | 0x02 => some (.immS 0 d a (w.extractLsb' 0 12))
  | 0x03 => some (.immS 1 d a (w.extractLsb' 0 12))
  | 0x04 => some (.immS 2 d a (w.extractLsb' 0 12))
  | 0x05 => some (.immS 3 d a (w.extractLsb' 0 12))
  | 0x06 => some (.immS 4 d a (w.extractLsb' 0 12))
  | 0x07 => some (.immS 5 d a (w.extractLsb' 0 12))
  | 0x08 => some (.immS 6 d a (w.extractLsb' 0 12))
  | 0x09 => some (.movi d (w.extractLsb' 0 17))
  | 0x0A => if zeroAt w 16 1 then some (.movh d (w.extractLsb' 0 16)) else none
  | 0x0B =>
    if zeroAt w 0 5 then
      some (.pset (w.extractLsb' 19 3) (w.extractLsb' 14 5) (w.extractLsb' 9 5) (w.extractLsb' 5 4))
    else none
  | 0x0C =>
    if zeroAt w 0 11 then
      some (.plog (w.extractLsb' 19 3) (w.extractLsb' 16 3) (w.extractLsb' 13 3) (w.extractLsb' 11 2))
    else none
  | 0x0D =>
    if zeroAt w 0 6 then
      some (.aadd (w.extractLsb' 18 4) (w.extractLsb' 14 4) (w.extractLsb' 9 5) (w.extractLsb' 6 3))
    else none
  | 0x0E => some (.aaddi (w.extractLsb' 18 4) (w.extractLsb' 14 4) (w.extractLsb' 0 14))
  | 0x0F => if zeroAt w 0 12 then some (.aset (w.extractLsb' 18 4) (w.extractLsb' 13 5) (w.getLsbD 12)) else none
  | 0x10 => if zeroAt w 0 12 then some (.amv d (w.extractLsb' 13 4) (w.getLsbD 12)) else none
  | 0x11 => if zeroAt w 17 5 then some (.bra (w.extractLsb' 0 17)) else none
  | 0x12 => if zeroAt w 17 5 then some (.jal (w.extractLsb' 0 17)) else none
  | 0x13 => if zeroAt w 0 17 then some (.jr d) else none
  | 0x14 => if zeroAt w 0 7 then some (.loops d (w.extractLsb' 7 10)) else none
  | 0x15 => some (.loopi (w.extractLsb' 10 12) (w.extractLsb' 0 10))
  | 0x16 => if zeroAt w 4 13 then some (.rdsys d (w.extractLsb' 0 4)) else none
  | 0x17 => if zeroAt w 0 22 then some .halt else none
  | 0x18 => if zeroAt w 16 6 then some (.trap (w.extractLsb' 0 16)) else none
  | _ => none

/-- A control operation whose FUNC, COND, SEL and immediate are not reserved (R84, R86, R87). -/
def ctlOk : Ctl → Bool
  | .alu _ _ _ func => func.toNat < 0x0F
  | .immS op _ _ imm => op.toNat < 4 || (op.toNat < 7 && imm.toNat < 32)
  | .pset _ _ _ cond => cond.toNat < 6
  | .rdsys _ sel => sel.toNat < 7
  | _ => true

/-! ### Vector slot -/

/-- A vector word of opcode `op` and fields `f` under a predicate (R89). -/
def vecWord (p : Pred) (op : BitVec 8) (f : VecF) : BitVec 64 :=
  predBits p ++ op ++ f.vd ++ f.va ++ f.vb ++ f.vc ++ f.fmt ++ f.fmt2 ++ BitVec.ofBool f.sat ++ BitVec.ofBool f.sbEn
    ++ f.pd ++ f.sb ++ f.lane ++ f.q ++ f.passes ++ 0#1 ++ f.k ++ 0#4

/-- The fields of a vector word (R89). -/
def vecOf (w : BitVec 64) : VecF :=
  { vd := w.extractLsb' 48 4, va := w.extractLsb' 44 4, vb := w.extractLsb' 40 4, vc := w.extractLsb' 36 4,
    fmt := w.extractLsb' 32 4, fmt2 := w.extractLsb' 28 4, sat := w.getLsbD 27, sbEn := w.getLsbD 26,
    pd := w.extractLsb' 23 3, sb := w.extractLsb' 18 5, lane := w.extractLsb' 12 6, q := w.extractLsb' 10 2,
    passes := w.extractLsb' 8 2, k := w.extractLsb' 4 3 }

/-- Keep the fields whose bit is set in the mask: 0 VD, 1 VA, 2 VB, 3 VC, 4 FMT, 5 FMT2, 6 SAT, 7 SB_EN, 8 PD, 9 SB,
10 LANE, 11 Q, 12 PASSES, 13 K. -/
def keepVec (m : Nat) (f : VecF) : VecF :=
  { vd := if m.testBit 0 then f.vd else 0, va := if m.testBit 1 then f.va else 0,
    vb := if m.testBit 2 then f.vb else 0, vc := if m.testBit 3 then f.vc else 0,
    fmt := if m.testBit 4 then f.fmt else 0, fmt2 := if m.testBit 5 then f.fmt2 else 0,
    sat := m.testBit 6 && f.sat, sbEn := m.testBit 7 && f.sbEn,
    pd := if m.testBit 8 then f.pd else 0, sb := if m.testBit 9 then f.sb else 0,
    lane := if m.testBit 10 then f.lane else 0, q := if m.testBit 11 then f.q else 0,
    passes := if m.testBit 12 then f.passes else 0, k := if m.testBit 13 then f.k else 0 }

/-- Kinds of FMT that an opcode permits (R90). -/
inductive FmtSet where
  | none
  | fp32
  | int32
  | fpBf
  | fpBfInt
  | any
deriving DecidableEq, Repr

/-- Whether a format code is in a set. -/
def FmtSet.has (s : FmtSet) (c : Nat) : Bool :=
  match s with
  | .none => c = 0
  | .fp32 => c = 12
  | .int32 => c = 13
  | .fpBf => c = 12 || c = 10
  | .fpBfInt => c = 12 || c = 10 || c = 13
  | .any => true

/-- The row of R90 for an opcode: mask of used fields, permitted FMT, latency. -/
def vecRow (op : Nat) : Option (Nat × FmtSet × Nat) :=
  match op with
  | 0x00 => some (0, .none, 1)
  | 0x01 => some (0b1010010111, .fpBf, 4)
  | 0x02 => some (0b1010010111, .fpBf, 4)
  | 0x03 => some (0b1010010111, .fpBf, 4)
  | 0x04 => some (0b1010011111, .fpBf, 4)
  | 0x08 => some (0b1010010111, .fpBfInt, 2)
  | 0x09 => some (0b1010010111, .fpBfInt, 2)
  | 0x0A => some (0b1110110110, .fpBfInt, 2)
  | 0x0B => some (0b1110010111, .fpBfInt, 2)
  | 0x10 => some (0b1010010111, .int32, 2)
  | 0x11 => some (0b1010010111, .int32, 2)
  | 0x12 => some (0b1010010111, .int32, 2)
  | 0x13 => some (0b1010010111, .int32, 2)
  | 0x14 => some (0b1010010111, .int32, 2)
  | 0x15 => some (0b1010010111, .int32, 2)
  | 0x16 => some (0b1010010111, .int32, 2)
  | 0x17 => some (0b1010010111, .int32, 2)
  | 0x20 => some (0b10011, .fp32, 8)
  | 0x21 => some (0b10011, .fp32, 8)
  | 0x22 => some (0b10011, .fp32, 10)
  | 0x23 => some (0b10011, .fp32, 10)
  | 0x24 => some (0b10011, .fp32, 6)
  | 0x25 => some (0b10011, .fp32, 6)
  | 0x28 => some (0b10011, .fp32, 14)
  | 0x29 => some (0b10011, .fp32, 14)
  | 0x2A => some (0b10011, .fpBf, 8)
  | 0x2C => some (0b11000000010011, .fpBf, 12)
  | 0x30 => some (0b1001110011, .any, 2)
  | 0x38 => some (0b1000000001, .none, 2)
  | 0x39 => some (0b11000000010, .none, 2)
  | 0x3A => some (0b11, .none, 2)
  | 0x3C => some (0b100000000010, .none, 3)
  | _ => none

/-- Latency of a vector operation (R90); vtopk adds 4 per pass. -/
def vecLat (op : Nat) (f : VecF) : Nat :=
  match vecRow op with
  | some (_, _, l) => if op = 0x2C then l + 4 * (f.passes.toNat + 1) else l
  | none => 1

/-- Whether opcode and fields are those of a valid vector instruction (R89, R90, R93, R94); vcvt uses SB only for an
MX source or target. -/
def vecOk (op : Nat) (f : VecF) : Bool :=
  match vecRow op with
  | none => false
  | some (m, fs, _) =>
    f = keepVec m f && fs.has f.fmt.toNat
      && (op ≠ 0x0A || f.fmt2.toNat < 6)
      && (op ≠ 0x2C || f.va.toNat + f.passes.toNat < 16)
      && (op ≠ 0x30 || !(isMX f.fmt.toNat && isMX f.fmt2.toNat))
      && (op ≠ 0x30 || isMX f.fmt.toNat || isMX f.fmt2.toNat || f.sb = 0)

/-! ### Matrix slot -/

/-- A matrix word (R109). -/
def matWord (p : Pred) (op : BitVec 4) (f : MatF) : BitVec 64 :=
  predBits p ++ op ++ f.tm ++ f.wf ++ f.af ++ f.bank ++ f.mode ++ BitVec.ofBool f.swap ++ BitVec.ofBool f.tr
    ++ BitVec.ofBool f.init ++ f.wrb ++ f.arb ++ f.row ++ f.part ++ BitVec.ofBool f.dr ++ f.drow ++ f.dbank
    ++ BitVec.ofBool f.dest ++ f.drb ++ f.fo ++ BitVec.ofBool f.sat ++ f.vd

/-- The fields of a matrix word (R109). -/
def matOf (w : BitVec 64) : MatF :=
  { tm := w.extractLsb' 52 4, wf := w.extractLsb' 48 4, af := w.extractLsb' 44 4, bank := w.extractLsb' 41 3,
    mode := w.extractLsb' 39 2, swap := w.getLsbD 38, tr := w.getLsbD 37, init := w.getLsbD 36,
    wrb := w.extractLsb' 32 4, arb := w.extractLsb' 28 4, row := w.extractLsb' 24 4, part := w.extractLsb' 22 2,
    dr := w.getLsbD 21, drow := w.extractLsb' 17 4, dbank := w.extractLsb' 14 3, dest := w.getLsbD 13,
    drb := w.extractLsb' 9 4, fo := w.extractLsb' 5 4, sat := w.getLsbD 4, vd := w.extractLsb' 0 4 }

/-- Stream-out format codes that are invalid in OF (R109). -/
def foBad (c : Nat) : Bool := isMX c

/-- The larger m of two formats is that of the narrower; a step runs at the m of the wider operand (R22). -/
def stepMacs (wf af : Nat) : Nat := Nat.min (macs wf) (macs af)

/-- The drain fields of a matrix word (R110). -/
def drainOnly (f : MatF) : MatF :=
  { tm := f.tm, drow := f.drow, dbank := f.dbank, dest := f.dest, drb := f.drb, fo := f.fo, sat := f.sat }

/-- Whether opcode and fields are those of a valid matrix instruction (R58, R109, R110, R111, R114). -/
def matOk (op : Nat) (f : MatF) : Bool :=
  match op with
  | 0 => f = {}
  | 1 => f = { tm := f.tm, wf := f.wf, wrb := f.wrb, part := f.part } && f.tm ≠ 0 && isOperand f.wf.toNat
      && f.part.toNat < macs f.wf.toNat
  | 2 => f = { tm := f.tm, af := f.af, arb := f.arb, row := f.row } && f.tm ≠ 0 && isOperand f.af.toNat
  | 3 =>
    let m := stepMacs f.wf.toNat f.af.toNat
    f.vd = 0 && f.tm ≠ 0 && f.mode.toNat < 3 && pairOk f.wf.toNat f.af.toNat
      && (if f.tr && m > 1 then f.part.toNat < m else f.part = 0)
      && (if f.dr then !foBad f.fo.toNat
          else f.drow = 0 && f.dbank = 0 && !f.dest && f.drb = 0 && f.fo = 0 && !f.sat)
  | 4 => f = drainOnly f && f.tm ≠ 0 && !foBad f.fo.toNat
  | 5 => f = { tm := f.tm, vd := f.vd } && f.tm ≠ 0
  | _ => false

/-! ### Stream slot -/

/-- A stream word (R117). -/
def stmWord (p : Pred) (op : BitVec 6) (f : StmF) : BitVec 64 :=
  predBits p ++ op ++ f.ad ++ f.aa ++ f.sb ++ f.sc ++ f.rv ++ f.imm

/-- The fields of a stream word (R117). -/
def stmOf (w : BitVec 64) : StmF :=
  { ad := w.extractLsb' 50 4, aa := w.extractLsb' 46 4, sb := w.extractLsb' 41 5, sc := w.extractLsb' 36 5,
    rv := w.extractLsb' 32 4, imm := w.extractLsb' 0 32 }

/-- Whether opcode and fields are those of a valid stream instruction (R107, R117, R118). -/
def stmOk (op : Nat) (f : StmF) : Bool :=
  let i := f.imm
  match op with
  | 0 => f = {}
  | 1 => f = { f with rv := 0, imm := i &&& 0x10F }
  | 2 => f = { rv := f.rv, aa := f.aa, imm := i }
  | 3 => f = { rv := f.rv, aa := f.aa, imm := i }
  | 4 => f = { rv := f.rv, aa := f.aa, imm := i &&& 0x3F } && 11 ≤ (i &&& 0x1F).toNat && (i &&& 0x1F).toNat ≤ 20
  | 5 => f = { rv := f.rv, sb := f.sb }
  | 6 => f = { aa := f.aa }
  | 7 => f = {}
  | 8 => f = { imm := i &&& 0xF }
  | _ => false

/-! ### Sync slot -/

/-- Bits [27:0] of a sync operation (R127). -/
def synBits : Syn → BitVec 28
  | .nop => 0
  | .tsig tid n => 0x1#4 ++ tid ++ n
  | .twait tid k => 0x2#4 ++ tid ++ k
  | .ttest tid pd => 0x3#4 ++ tid ++ pd ++ 0#1
  | .tsigR sa sb => 0x4#4 ++ sa ++ sb ++ 0#14
  | .twaitR sa sb => 0x5#4 ++ sa ++ sb ++ 0#14
  | .ttestR sa sb pd => 0x6#4 ++ sa ++ sb ++ pd ++ 0#11
  | .coll aa tid => 0x7#4 ++ aa ++ tid

/-- The sync operation of bits [27:0]; none where it is invalid (R127). -/
def synOf (w : BitVec 28) : Option Syn :=
  let tid := w.extractLsb' 4 20
  let sa := w.extractLsb' 19 5
  let sb := w.extractLsb' 14 5
  match (w.extractLsb' 24 4).toNat with
  | 0 => if zeroAt w 0 24 then some .nop else none
  | 1 => some (.tsig tid (w.extractLsb' 0 4))
  | 2 => some (.twait tid (w.extractLsb' 0 4))
  | 3 => if zeroAt w 0 1 then some (.ttest tid (w.extractLsb' 1 3)) else none
  | 4 => if zeroAt w 0 14 then some (.tsigR sa sb) else none
  | 5 => if zeroAt w 0 14 then some (.twaitR sa sb) else none
  | 6 => if zeroAt w 0 11 then some (.ttestR sa sb (w.extractLsb' 11 3)) else none
  | 7 => some (.coll (w.extractLsb' 20 4) (w.extractLsb' 0 20))
  | _ => none

/-! ### Bundles -/

/-- The predicate p0 that always holds. -/
def Pred.always : Pred := ⟨false, 0⟩

/-- A slot that does nothing (R73). -/
def Slot.idle {α : Type} (op : α) : Slot α := ⟨Pred.always, some op, 0⟩

/-- A bundle of five no-operations (R73). -/
def Bundle.idle : Bundle := ⟨Slot.idle .nop, Slot.idle (0, {}), Slot.idle (0, {}), Slot.idle (0, {}), Slot.idle .nop⟩

/-- A 32-bit slot word. -/
def word32 (p : Pred) (b : BitVec 28) : BitVec 32 := predBits p ++ b

/-- The slots of a 256-bit bundle (R72). -/
def bundleOf (b : BitVec 256) : Bundle :=
  let c := b.extractLsb' 0 32
  let m := b.extractLsb' 32 64
  let v := b.extractLsb' 96 64
  let t := b.extractLsb' 160 64
  let y := b.extractLsb' 224 32
  { ctl := ⟨predOf (c.extractLsb' 28 4), ctlOf (c.extractLsb' 0 28), c⟩,
    mat := ⟨predOf (m.extractLsb' 60 4), some ((m.extractLsb' 56 4).toNat, matOf m), m.extractLsb' 0 32⟩,
    vec := ⟨predOf (v.extractLsb' 60 4),
      if zeroAt v 7 1 && zeroAt v 0 4 then some ((v.extractLsb' 52 8).toNat, vecOf v) else none, v.extractLsb' 0 32⟩,
    stm := ⟨predOf (t.extractLsb' 60 4), some ((t.extractLsb' 54 6).toNat, stmOf t), t.extractLsb' 0 32⟩,
    syn := ⟨predOf (y.extractLsb' 28 4), synOf (y.extractLsb' 0 28), y⟩ }

/-- A bundle that holds one control operation. -/
def ctlBundle (p : Pred) (o : Ctl) : Bundle := { Bundle.idle with ctl := ⟨p, some o, word32 p (ctlBits o)⟩ }
/-- A bundle that holds one matrix operation. -/
def matBundle (p : Pred) (op : BitVec 4) (f : MatF) : Bundle :=
  { Bundle.idle with mat := ⟨p, some (op.toNat, f), (matWord p op f).extractLsb' 0 32⟩ }
/-- A bundle that holds one vector operation. -/
def vecBundle (p : Pred) (op : BitVec 8) (f : VecF) : Bundle :=
  { Bundle.idle with vec := ⟨p, some (op.toNat, f), (vecWord p op f).extractLsb' 0 32⟩ }
/-- A bundle that holds one stream operation. -/
def stmBundle (p : Pred) (op : BitVec 6) (f : StmF) : Bundle :=
  { Bundle.idle with stm := ⟨p, some (op.toNat, f), (stmWord p op f).extractLsb' 0 32⟩ }
/-- A bundle that holds one sync operation. -/
def synBundle (p : Pred) (o : Syn) : Bundle := { Bundle.idle with syn := ⟨p, some o, word32 p (synBits o)⟩ }

end Sys2Proof.Machine
end

