-- ==== Sys2Proof/Machine/NibOps.lean ====
section
/-!
DEFINITION. Named operations over one nib: register files (R75), ring buffers (R107, R108, R142), wells and poison
(R133), pending writes (R77), places in memory.
-/
namespace Sys2Proof.Machine

/-! ### Register files (R75) -/

/-- Scalar register; s0 reads as zero. -/
def sreg (b : Nib) (i : Nat) : W32 := if i = 0 then 0 else look 0 b.sregs i

/-- Write a scalar register; a write of s0 is discarded. -/
def setS (b : Nib) (i : Nat) (v : W32) : Nib := if i = 0 then b else { b with sregs := put 0 b.sregs i v }

/-- Address register. -/
def areg (b : Nib) (i : Nat) : W64 := look 0 b.aregs i

/-- Write an address register. -/
def setA (b : Nib) (i : Nat) (v : W64) : Nib := { b with aregs := put 0 b.aregs i v }

/-- Predicate register; p0 reads as all ones. -/
def preg (b : Nib) (i : Nat) : W64 := if i = 0 then BitVec.allOnes 64 else look 0 b.pregs i

/-- Write a predicate register under a mask; a write of p0 is discarded. -/
def setP (b : Nib) (i : Nat) (mask v : W64) : Nib :=
  if i = 0 then b
  else { b with pregs := put 0 b.pregs i ((look 0 b.pregs i &&& ~~~mask) ||| (v &&& mask)) }

/-- Lane of a vector register. -/
def vlane (b : Nib) (v l : Nat) : W32 := look 0 b.vregs (64 * v + l)

/-- The 64 lanes of a vector register. -/
def vreg (b : Nib) (v : Nat) : List W32 := (List.range 64).map (vlane b v)

/-- Poison of the quarters of a vector register (R116). -/
def vpois (b : Nib) (v : Nat) : List Bool := (List.range 4).map fun q => look false b.vpoison (4 * v + q)

/-- Write lanes under their masks and quarter poisons of a vector register: a quarter written in part keeps its old
poison beside the new. -/
def setV (b : Nib) (v : Nat) (lanes : List (Nat × W32 × W32)) (qs : List (Nat × Bool × Bool)) : Nib :=
  { b with
    vregs := lanes.foldl (fun m p =>
      put 0 m (64 * v + p.1) ((look 0 m (64 * v + p.1) &&& ~~~p.2.1) ||| (p.2.2 &&& p.2.1))) b.vregs
    vpoison := qs.foldl (fun m p =>
      put false m (4 * v + p.1) (p.2.1 || (!p.2.2 && look false m (4 * v + p.1)))) b.vpoison }

/-- Selected value of a predicate for a lane (R74). -/
def predLane (b : Nib) (p : Pred) (l : Nat) : Bool := (preg b p.idx.toNat).getLsbD l != p.neg

/-- Whether a slot other than the vector slot executes (R74). -/
def predHolds (b : Nib) (p : Pred) : Bool := predLane b p 0

/-- Bytes of a vector register, byte 0 first (R95). -/
def vbytes (b : Nib) (v : Nat) : List Byte := ((vreg b v).map fun w => natLE 4 w.toNat).flatten

/-! ### The well (R133) -/

/-- Poison of the well words that bytes `a .. a + n - 1` touch. -/
def wellPois (b : Nib) (a n : Nat) : List Bool :=
  if n = 0 then []
  else (List.range ((a + n - 1) / 64 - a / 64 + 1)).map fun i => look false b.wellPoison (a / 64 + i)

/-- Write bytes inside one word: the word takes the poison where the write begins the word, else it keeps its own
beside it (R107, R133). -/
def writeWellWord (b : Nib) (a : Nat) (bs : List Byte) (p : Bool) : Nib :=
  let old := look false b.wellPoison (a / 64)
  { b with
    well := writeBytes b.well a bs
    wellPoison := put false b.wellPoison (a / 64) (p || (old && a % 64 ≠ 0)) }

/-- Write bytes word by word; poison by 64 B of the data (`fuel` bounds the words). -/
def writeWell : Nat → Nib → Nat → List Byte → List Bool → Nib
  | 0, b, _, _, _ => b
  | fuel + 1, b, a, bs, ps =>
    match bs with
    | [] => b
    | _ =>
      let k := inWord a bs.length
      writeWell fuel (writeWellWord b a (bs.take k) (ps.headD false)) (a + k) (bs.drop k)
        (if (a + k) % 64 = 0 then ps.tail else ps)

/-! ### Ring buffers (R107) -/

/-- Ring buffer `r` of a nib. -/
def ringOf (b : Nib) (r : Nat) : Ring := look Ring.empty b.rings r

/-- Replace a ring buffer. -/
def setRing (b : Nib) (r : Nat) (x : Ring) : Nib := { b with rings := put Ring.empty b.rings r x }

/-- Bytes a ring can hold. -/
def Ring.size (x : Ring) : Nat := 2 ^ x.log2

/-- Room left in a ring (R108). -/
def Ring.room (x : Ring) : Nat := x.size - x.fill

/-- Bytes that the weight port or an activation port can still read. -/
def Ring.avail (x : Ring) : Nat := x.fill - x.rd

/-- Whether a ring counts as fed from off-package (R37, R107, R121). -/
def Ring.isExt (x : Ring) : Bool := x.offpkg || x.stageOff

/-- Well offset of byte `o` beyond the head of a ring. -/
def ringAddr (x : Ring) (o : Nat) : Nat := x.base + (x.head + o) % x.size

/-- `n` bytes from byte `o` beyond the head. -/
def ringBytes (b : Nib) (r o n : Nat) : List Byte :=
  let x := ringOf b r
  (List.range n).map fun i => readByte b.well (ringAddr x (o + i))

/-- Whether any word under bytes `o .. o + n - 1` beyond the head is poisoned. -/
def ringPois (b : Nib) (r o n : Nat) : Bool :=
  let x := ringOf b r
  (List.range n).any fun i => (i % 32 = 0 || i + 1 = n) && look false b.wellPoison (ringAddr x (o + i) / 64)

/-- Poison by 64 B of bytes `o .. o + n - 1` beyond the head. -/
def ringPoisWords (b : Nib) (r o n : Nat) : List Bool :=
  (List.range ((n + 63) / 64)).map fun i => ringPois b r (o + 64 * i) (Nat.min 64 (n - 64 * i))

/-- Write bytes at the tail of a ring, a piece at a time up to a word's end (`fuel` bounds the pieces). -/
def appendLoop : Nat → Nib → Nat → List Byte → List Bool → Nib
  | 0, b, _, _, _ => b
  | fuel + 1, b, r, bs, ps =>
    match bs with
    | [] => b
    | _ =>
      let x := ringOf b r
      let a := ringAddr x x.fill
      let k := inWord a bs.length
      let b := writeWellWord b a (bs.take k) (ps.headD false)
      appendLoop fuel (setRing b r { x with fill := x.fill + k }) r (bs.drop k)
        (if (a + k) % 64 = 0 then ps.tail else ps)

/-- Append bytes to a ring that has room for them; `mark` is the writer's lateness mark (R332). -/
def ringAppend (b : Nib) (r : Nat) (bs : List Byte) (ps : List Bool) (mark : Nat) : Nib :=
  let b := appendLoop (bs.length + 1) b r bs ps
  setRing b r { ringOf b r with mark := mark }

/-- Take `k` bytes off the head of a ring; a count above the fill empties it (R118). -/
def ringPop (b : Nib) (r k : Nat) : Nib :=
  let x := ringOf b r
  let k := Nat.min k x.fill
  setRing b r { x with head := x.head + k, fill := x.fill - k, rd := x.rd - k, fw := x.fw - k }

/-- Let the bytes leave that every reader of a chain ring has passed (R142). -/
def ringSettle (b : Nib) (r : Nat) : Nib :=
  let x := ringOf b r
  ringPop b r (Nat.min x.rd x.fw)

/-- The weight port consumes `k` bytes: from an ordinary ring they leave at once; from a chain ring they leave when
they have also been forwarded (R108, R142). -/
def portTake (b : Nib) (r k : Nat) : Nib :=
  let x := ringOf b r
  if x.chain then ringSettle (setRing b r { x with rd := x.rd + k }) r else ringPop b r k

/-! ### Transfer tags (R119, R153) -/

/-- Tags of a transfer that are not free yet. -/
def Xfer.busy (x : Xfer) : Nat := (x.tags.filter fun t => t.st = .flight).length

/-- Tags held, of the nib's 32. -/
def tagsHeld (b : Nib) : Nat := (b.xfers.map Xfer.busy).sum

/-- Tags held by stage stream-in (R124). -/
def stageTags (b : Nib) : Nat := ((b.xfers.filter (·.stage)).map Xfer.busy).sum

/-- Free tags (NIB_XFER_TAGS.FREE). -/
def tagsFree (b : Nib) : Nat := Config.xferTags - tagsHeld b

/-! ### Room in a ring (R108, R154) -/

/-- Bytes of the tags up to number `k` that are not yet visible. -/
def hiddenBytes (ts : List Tag) (k : Nat) : Nat :=
  ((ts.take (k + 1)).filter fun t => t.st ≠ .done).foldl (fun a t => a + t.data.length) 0

/-- One more than the number of the last tag that has arrived and is not yet visible. -/
def hiddenEnd (ts : List Tag) : Nat :=
  (List.range ts.length).foldl (fun a k => match ts[k]? with
    | some t => if t.st = .hidden then k + 1 else a
    | none => a) 0

/-- Room that a transfer holds for its arrived tags and for those before them. -/
def Xfer.holds (x : Xfer) (m r : Nat) : Nat :=
  if x.dst = .ring m r && hiddenEnd x.tags > 0 then hiddenBytes x.tags (hiddenEnd x.tags - 1) else 0

/-- Room in ring `r` of nib `m` that is held for bytes on their way into it: by transfers other than number `x` of nib `n`,
and by an sst that has issued (R118, R154). -/
def ringHeld (s : State) (m r n x : Nat) : Nat :=
  (s.nibs.map fun p => ((p.2.xfers.filter fun y => p.1 ≠ n || y.id ≠ x).map fun y => y.holds m r).sum
    + (p.2.pend.map fun w => match w.wr with
        | .append m' r' bs _ => if m' = m && r' = r then bs.length else 0
        | _ => 0).sum).sum

/-- Room in ring `r` of nib `m` that nothing holds. -/
def ringFree (s : State) (m r : Nat) : Nat := (ringOf (nibOf s m) r).room - ringHeld s m r 4096 0

/-! ### Places -/

/-- Key of a landing-area byte. -/
def landKey (d off : Nat) : Nat := d * Config.landBytes + off

/-- Read `n` bytes of a place, with poison by 64 B word. A ring is read from its head and keeps its bytes. -/
def readPlace (s : State) (pl : Place) (n : Nat) : List Byte × List Bool :=
  match pl with
  | .well m a => (readBytes (nibOf s m).well a n, wellPois (nibOf s m) a n)
  | .land d a =>
    (readBytes s.landMem (landKey d a) n,
      (List.range ((n + 63) / 64)).map fun i => look false s.landPoison (landKey d a / 64 + i))
  | .hbm a => readDpa (n + 1) s a n
  | .ring m r => (ringBytes (nibOf s m) r 0 n, ringPoisWords (nibOf s m) r 0 n)

/-- Poison of landing-area words after a whole-word write. -/
def setLandPoison : State → Nat → List Bool → State
  | s, _, [] => s
  | s, k, p :: ps => setLandPoison { s with landPoison := put false s.landPoison k p } (k + 1) ps

/-- Write bytes into a place; a ring takes them at its tail (R107, R133, R226, R237). -/
def writePlace (s : State) (pl : Place) (bs : List Byte) (ps : List Bool) (mark : Nat) : State :=
  match pl with
  | .well m a => onNib s m fun b => writeWell (bs.length + 1) b a bs ps
  | .land d a =>
    let s := setLandPoison s (landKey d a / 64) ps
    { s with landMem := writeBytes s.landMem (landKey d a) bs }
  | .hbm a => writeDpa s a bs ps true
  | .ring m r => onNib s m fun b => ringAppend b r bs ps mark

/-! ### Pending writes (R77) -/

/-- Lateness-free time of the nib on the job's axis: stagger + NIB_CYCLE − L (R332, R403). -/
def ideal (b : Nib) : Nat := b.stagger + b.cycle - b.late

/-- Schedule a write of latency `lam` from the bundle that issues now. -/
def later (b : Nib) (lam : Nat) (w : Wr) : Nib := { b with pend := b.pend ++ [⟨b.clk + lam, w⟩] }

/-- One pending write takes effect. -/
def applyWr (s : State) (n : Nat) (w : Wr) : State :=
  match w with
  | .s i v => onNib s n fun b => setS b i v
  | .aHalf i half v => onNib s n fun b =>
      let o := areg b i
      setA b i (if half then v ++ o.extractLsb' 0 32 else o.extractLsb' 32 32 ++ v)
  | .a i v => onNib s n fun b => setA b i v
  | .p i mask v => onNib s n fun b => setP b i mask v
  | .v i lanes qs => onNib s n fun b => setV b i lanes qs
  | .acc k v => onNib s n fun b => { b with acc := put 0 b.acc k v }
  | .accPoison k p => onNib s n fun b => { b with accPoison := put false b.accPoison k p }
  | .bytes pl bs ps => writePlace s pl bs ps 0
  | .append m r bs ps => writePlace s (.ring m r) bs ps (ideal (nibOf s n))
  | .ringCfg r x => onNib s n fun b => setRing b r x
  | .ringPop r k => onNib s n fun b => ringPop b r k

/-- The pending writes that are due at issue count `clk` take effect, in issue order; the write of the later-issued
bundle remains (R77, R79). -/
def commit (s : State) (n : Nat) : State :=
  let b := nibOf s n
  let s := setNib s n { b with pend := b.pend.filter fun p => b.clk < p.due }
  (b.pend.filter fun p => p.due ≤ b.clk).foldl (fun s p => applyWr s n p.wr) s

/-- Every pending write takes effect, earliest first: instructions already issued complete with their latencies
(R88, R102). -/
def commitAll (s : State) (n : Nat) : State :=
  let b := nibOf s n
  let s := setNib s n { b with pend := [], stagePend := [] }
  let s := (List.range 64).foldl (fun s k =>
    (b.pend.filter fun p => p.due = b.clk + k).foldl (fun s p => applyWr s n p.wr) s) s
  b.stagePend.foldl (fun s p => applyWr s n p.wr) s

/-- Count a mismatch toward fencing (R46, R172). -/
def countMismatch (b : Nib) : Nib := bumpNibF b Reg.NIB_ABFT_FENCE_COUNT 7 0 1

/-- A failed comparison is reported: status, record, count and contained error (R42). -/
def raiseCheck (s : State) (n : Nat) (k : Check) : State :=
  let s := onNib s n fun b =>
    let b := setNibF b Reg.NIB_ABFT_STATUS 0 0 1
    let b := setNibReg b Reg.NIB_ABFT_LAST (BitVec.ofNat 32 k.word)
    countMismatch (setNib64 b Reg.NIB_ABFT_LAST_CYC k.cyc)
  raise s 2 0x21 1 (ctxOfNib s n) n k.word

/-- The failed comparisons of a nib that are due before a cycle are reported, oldest first (R42). -/
def raiseChecks (s : State) (n lim : Nat) : State :=
  let ks := (nibOf s n).checks
  if ks.all fun k => lim ≤ k.due then s
  else (ks.filter fun k => k.due < lim).foldl (fun s k => raiseCheck s n k)
    (onNib s n fun b => { b with checks := ks.filter fun k => lim ≤ k.due })

/-- Every failed comparison of a nib is reported: the steps that have issued complete (R102). -/
def raiseAllChecks (s : State) (n : Nat) : State :=
  (nibOf s n).checks.foldl (fun s k => raiseCheck s n k) (onNib s n fun b => { b with checks := [] })

/-- A nib stops at a bundle boundary; what it has issued completes (R102). -/
def haltNib (s : State) (n st : Nat) : State := raiseAllChecks (commitAll (stopNib s n st) n) n

/-- Every nib of the context that is loaded or runs stops at once, with STATE 5 (R268, R371, R419). -/
def haltAllNibs (s : State) (c : Nat) : State :=
  ((jobNibs s c).filter fun n => (nibOf s n).st = 1 || (nibOf s n).st = 2).foldl (fun s n => haltNib s n 5) s

end Sys2Proof.Machine
end

