-- ==== Sys2Proof/Machine/Flags.lean ====
section
/-!
DEFINITION. Flags and conditions: NIB_ARITH_STATUS (R71), the scalar functions and conditions of R86, the vector
conditions of R90, and integer wraps (R64).
-/
namespace Sys2Proof.Machine

/-- Set flags of NIB_ARITH_STATUS (R71): 1 INT_WRAP, 2 SAT, 4 NAN_CONV, 8 NAN_OUT. -/
def arith (b : Nib) (fl : Nat) : Nib :=
  if fl = 0 then b
  else setNibReg b Reg.NIB_ARITH_STATUS (nibReg b Reg.NIB_ARITH_STATUS ||| BitVec.ofNat 32 (fl % 16))

/-- The scalar function FUNC of R86. -/
def aluFn (func : Nat) (a b : W32) : W32 :=
  match func with
  | 0x00 => a + b
  | 0x01 => a - b
  | 0x02 => a &&& b
  | 0x03 => a ||| b
  | 0x04 => a ^^^ b
  | 0x05 => a <<< (b.toNat % 32)
  | 0x06 => a >>> (b.toNat % 32)
  | 0x07 => a.sshiftRight (b.toNat % 32)
  | 0x08 => a * b
  | 0x09 => BitVec.ofInt 32 ((a.toInt * b.toInt) / 2 ^ 32)
  | 0x0A => BitVec.ofNat 32 (a.toNat * b.toNat / 2 ^ 32)
  | 0x0B => if a.slt b then a else b
  | 0x0C => if a.slt b then b else a
  | 0x0D => if a.ult b then a else b
  | _ => if a.ult b then b else a

/-- Latency of a scalar function (R85): 3 for the multiply functions. -/
def aluLat (func : Nat) : Nat := if func = 8 ∨ func = 9 ∨ func = 10 then 3 else 1

/-- The condition COND of R86. -/
def condFn (cond : Nat) (a b : W32) : Bool :=
  match cond with
  | 0 => a = b
  | 1 => a ≠ b
  | 2 => a.slt b
  | 3 => !a.slt b
  | 4 => a.ult b
  | _ => !a.ult b

/-- The operation of an immediate form (R85). -/
def immFn (op : Nat) (a : W32) (imm : BitVec 12) : W32 :=
  let i := imm.signExtend 32
  let sh := imm.toNat % 32
  match op with
  | 0 => a + i
  | 1 => a &&& i
  | 2 => a ||| i
  | 3 => a ^^^ i
  | 4 => a <<< sh
  | 5 => a >>> sh
  | _ => a.sshiftRight sh

/-- The logic function PFN of plog (R85). -/
def plogFn (pfn : Nat) (a b : W64) : W64 :=
  match pfn with
  | 0 => a &&& b
  | 1 => a ||| b
  | 2 => a ^^^ b
  | _ => a &&& ~~~b

/-- A predicate value with every bit equal to `c`. -/
def allBits (c : Bool) : W64 := if c then BitVec.allOnes 64 else 0

/-- The compare condition of vcmp on ordered values; a NaN operand gives 0, except under ne (R90). -/
def vcmpFn (cond : Nat) (a b : Val) : Bool :=
  if a.isNan || b.isNan then cond = 1
  else match cond with
    | 0 => a.eqv b
    | 1 => !a.eqv b
    | 2 => a.lt b
    | 3 => !b.lt a
    | 4 => b.lt a
    | _ => !a.lt b

/-- Minimum of R91: the canonical NaN where either operand is NaN; −0 below +0. -/
def minV (a b : Val) : Val :=
  if a.isNan || b.isNan then .nan
  else if a.lt b then a else if b.lt a then b else if a.neg? then a else b

/-- Maximum of R91. -/
def maxV (a b : Val) : Val :=
  if a.isNan || b.isNan then .nan
  else if a.lt b then b else if b.lt a then a else if a.neg? then b else a

/-- Whether a signed 32-bit sum or difference wraps (R64). -/
def wraps (i : Int) : Bool := decide (i ≥ 2 ^ 31 ∨ i < -(2 ^ 31))

end Sys2Proof.Machine
end

