-- ==== Sys2Proof/Machine/Matrix.lean ====
section
/-!
DEFINITION. What the tines compute (R21 to R33, R39 to R45, R57 to R64): operands of a step, group values and step
windows, accumulation, and the checksum comparison of R41.
-/
namespace Sys2Proof.Machine

/-! ### Operands -/

/-- A 32-byte operand vector at a port: its elements as a number and its block scales (R56, R452). -/
structure OpVec where
  data : Nat
  s0 : Nat
  s1 : Nat
  poison : Bool
deriving DecidableEq, Repr

/-- Scale of element `k` of a vector in format `fmt` (R55): 0x7F where the format has none. -/
def scaleAt (fmt : Nat) (s0 s1 k : Nat) : Nat := if isMX fmt then (if k < 32 then s0 else s1) else 127

/-- Element `k` of a vector, without its scale. -/
def rawAt (fmt data k : Nat) : Val :=
  let w := elemBits fmt
  decodeElem fmt (data / 2 ^ (w * k) % 2 ^ w)

/-- Element `k` of a vector, with its scale (R55). -/
def valAt (fmt : Nat) (v : OpVec) (k : Nat) : Val := scaleBy (scaleAt fmt v.s0 v.s1 k) (rawAt fmt v.data k)

/-- A column of a tile as an operand vector of a step that uses its first `q` quarters (R45). -/
def colVec (q : Nat) (c : Col) : OpVec := ⟨c.data.toNat, c.s0.toNat, c.s1.toNat, c.poison.toNat % 2 ^ q ≠ 0⟩

/-- Poison of a whole column. -/
def colPoison (p : Bool) : BitVec 4 := if p then 15 else 0

/-- A column loaded from 32 bytes and two scales; a non-MX operand acts as if every scale were 0x7F (R56). -/
def mkCol (fmt : Nat) (v : OpVec) : Col :=
  if isMX fmt then ⟨BitVec.ofNat 256 v.data, BitVec.ofNat 8 v.s0, BitVec.ofNat 8 v.s1, colPoison v.poison⟩
  else ⟨BitVec.ofNat 256 v.data, 0x7F, 0x7F, colPoison v.poison⟩

/-- The active tile of tine `t`, by column, for a step that uses the first `q` quarters of each. -/
def tileOf (b : Nib) (t q : Nat) : List OpVec :=
  (List.range 16).map fun j => colVec q (look Col.zero b.active (16 * t + j))

/-! ### Sums -/

/-- Products split into term groups of 32 consecutive k (R60). -/
def termGroups (ps : List Val) : List Val := (chunks 32 4 ps).map groupValue

/-- Addends that one accumulator element receives in a direct step of reduction depth `ps.length` (R60, R62). -/
def addends (m : Nat) (ps : List Val) : List Val := if m = 1 then [stepWindow ps] else termGroups ps

/-- The dot product of a streamed vector and a tile column, as products by k (R59). -/
def dots (ff gf kk : Nat) (x y : OpVec) : List Val :=
  (List.range kk).map fun k => (valAt ff x k).mul (valAt gf y k)

/-- One accumulation: the new element and its flags (R61, R63, R64). -/
def accumulate (int : Bool) (old : W32) (add : Val) : W32 × Nat :=
  if int then
    let d := add.dy
    let t := old.toInt + truncTo d 0
    (BitVec.ofInt 32 t, if wraps t then 1 else 0)
  else
    let v := (f32 old).add add
    (toF32 v, if v.isNan then 8 else 0)

/-- The accumulations of one step: group by group in order of k in a float step (R61), the exact sum of the groups in one add in
an integer step (R64). -/
def accumulateAll (int : Bool) (old : W32) (adds : List Val) : W32 × Nat :=
  if int then accumulate true old (exactSum adds).val else
  adds.foldl (fun a v => let r := accumulate false a.1 v; (r.1, a.2 ||| r.2)) (old, 0)

/-! ### Checksum comparison (R41) -/

/-- Whether |S − C| exceeds 2^(e − shift), for results and checksum line rounded to FP32; none where a value is not
finite and the step is not compared (R41). -/
def tolMismatch (shift : Nat) (rs : List Val) (c : Val) : Option Bool :=
  let qs := rs.map fun v => f32 (toF32 v)
  let c := f32 (toF32 c)
  if (c :: qs).any (fun v => !v.isFin) then none
  else
    let nz := (c :: qs).filter fun v => !v.isZero
    match nz with
    | [] => some false
    | v :: rest =>
      let e := rest.foldl (fun a w => if a < w.expo then w.expo else a) v.expo
      let d := ((exactSum qs).add c.negate.dy)
      some ((Val.fin false 1 (e - shift)).lt (Dy.mk d.n.natAbs d.e).val)

/-- Exact sum of values where all are finite, NaN otherwise: what a checksum line holds (R39). -/
def lineSum (vs : List Val) : Val := if vs.all Val.isFin then (exactSum vs).val else .nan

/-- What a step gives for one tine: addends by accumulator element (row, column), the outcome of the tolerance
comparison (none: not compared), whether some exact comparison point is compared (R40), and the checksum line that fails
(R50): 0 for column 16, 1 for row 16. -/
structure StepOut where
  cells : List (Nat × Nat × List Val)
  tol : Option Bool
  exactPt : Bool
  line : Nat

/-- Reduction depth of a step (R21, R22). -/
def stepDepth (m : Nat) : Nat := 16 * m

/-- Quarters of a stationary column of format `fmt` that a step of depth 16 m uses. -/
def quartersUsed (m fmt : Nat) : Nat := (stepDepth m * elemBits fmt + 63) / 64

/-- Whether every product of some term group is finite in every column. -/
def somePoint (cols : List (List Val)) : Bool :=
  (List.range 2).any fun g => cols.all fun ps =>
    let c := (ps.drop (32 * g)).take 32
    c ≠ [] && c.all Val.isFin

/-- The tolerance comparison of a direct step with m = 1 (R39, R41). Column 16 holds the unscaled sums of the stationary
elements, so both sides are formed without the stationary scales (DEDUCED, log 118: R41 gives C as the line's window and
R39 leaves the scales out of the line); a step whose results are not all finite is not compared. -/
def directTol (kk shift sf xf : Nat) (tile : List OpVec) (x : OpVec) (ps : List (List Val)) : Option Bool :=
  if (ps.map stepWindow).any fun v => !(f32 (toF32 v)).isFin then none
  else
    let raw := fun (c : OpVec) k => rawAt sf c.data k
    let rs := tile.map fun c => stepWindow ((List.range kk).map fun k => (valAt xf x k).mul (raw c k))
    let line := (List.range kk).map fun k => (valAt xf x k).mul (lineSum (tile.map fun c => raw c k))
    tolMismatch shift rs (stepWindow line)

/-- A direct weight-stationary or activation-stationary step: the stationary tile has format `sf`, the streamed vector
`xf` (R27, R39). -/
def directStep (m row shift : Nat) (sf xf : Nat) (tile : List OpVec) (x : OpVec) : StepOut :=
  let kk := stepDepth m
  let ps := tile.map fun c => dots xf sf kk x c
  let outs := ps.map (addends m)
  let tol := if m = 1 then directTol kk shift sf xf tile x ps else none
  { cells := (List.range 16).map fun j => (row, j, outs.getD j []),
    tol := tol, exactPt := m > 1 && somePoint ps, line := 0 }

/-- A transposed step for element position `p` (R32, R33, R39, R62). With m > 1 it forms a step window, as R62, R33 and R41
say, and no term groups, which R60 names for it (DEDUCED, log 119). -/
def transStep (m p row shift : Nat) (sf xf : Nat) (tile : List OpVec) (x : OpVec) : StepOut :=
  let xs := (List.range 16).map fun j => scaleBy (scaleAt xf x.s0 x.s0 0) (rawAt xf x.data j)
  let at' := fun i j => valAt sf (tile.getD j ⟨0, 127, 127, false⟩) (m * i + p)
  let ps := (List.range 16).map fun i => (List.range 16).map fun j => (xs.getD j .nan).mul (at' i j)
  let line := (List.range 16).map fun j => (xs.getD j .nan).mul (lineSum ((List.range 16).map fun i => at' i j))
  { cells := (List.range 16).map fun i => (row, i, [stepWindow (ps.getD i [])]),
    tol := tolMismatch shift (ps.map stepWindow) (stepWindow line), exactPt := false, line := 1 }

/-- An output-stationary step: a 16 × m slice of activations, element m·i + p for row i, and an m × 16 slice of
weights, rows m·s to m·s + m − 1 of the weight group's columns (R27, R39, R60). The point of row i is compared with column
16 where row i of the activations and the whole slice of weights are finite, that of column j with row 16 where column j
of the weights and the whole slice of activations are (R40). LINE names the line of the points that fail; where points of
both fail it is 0, which the spec leaves open (DESIGN CHOICE, log 120). -/
def outerStep (m s shift : Nat) (wf af : Nat) (cols : List OpVec) (x : OpVec) : StepOut :=
  let a := fun i p => valAt af x (m * i + p)
  let w := fun p j => valAt wf (cols.getD j ⟨0, 127, 127, false⟩) (m * s + p)
  let prods := fun i j => (List.range m).map fun p => (a i p).mul (w p j)
  let r16 := List.range 16
  let cells := (r16.map fun i => r16.map fun j => (i, j, [groupValue (prods i j)])).flatten
  let rowLine := fun i => groupValue ((List.range m).map fun p => (a i p).mul (lineSum (r16.map fun j => w p j)))
  let colLine := fun j => groupValue ((List.range m).map fun p => (lineSum (r16.map fun i => a i p)).mul (w p j))
  let rowCmp := r16.map fun i => tolMismatch shift (r16.map fun j => groupValue (prods i j)) (rowLine i)
  let colCmp := r16.map fun j => tolMismatch shift (r16.map fun i => groupValue (prods i j)) (colLine j)
  let ps := List.range m
  let aFin := fun i => ps.all fun p => (a i p).isFin
  let wFin := fun j => ps.all fun p => (w p j).isFin
  let rowPt := r16.all wFin && r16.any aFin
  let colPt := r16.all aFin && r16.any wFin
  if m > 1 then { cells := cells, tol := none, exactPt := rowPt || colPt, line := if rowPt then 0 else 1 }
  else
    let fails := (rowCmp ++ colCmp).any (· = some true)
    let byRow := if fails then rowCmp.any (· = some true) else rowCmp.any Option.isSome
    { cells := cells, tol := if (rowCmp ++ colCmp).all Option.isNone then none else some fails,
      exactPt := false, line := if byRow then 0 else 1 }

/-- Latency L of a step (R28): 7 for BF16 and FP16, 8 for the other formats. -/
def stepLat (m : Nat) : Nat := if m = 1 then 7 else 8

/-- Key of an accumulator element (R24). -/
def accKey (t bank row col : Nat) : Nat := ((t * 8 + bank) * 16 + row) * 16 + col

/-- Latest value of an accumulator element, counting updates not yet visible: the AA stage forwards it (R30). -/
def runningAcc (b : Nib) (key : Nat) : W32 :=
  let pick := fun (o : Option W32) (p : Pend) => match p.wr with
    | .acc k v => if k = key then some v else o
    | _ => o
  match (b.pend ++ b.stagePend).foldl pick none with
  | some v => v
  | none => look 0 b.acc key

/-- Latest poison of an accumulator tile, counting updates not yet visible. -/
def runningPois (b : Nib) (tile : Nat) : Bool :=
  let pick := fun (o : Option Bool) (p : Pend) => match p.wr with
    | .accPoison k v => if k = tile then some v else o
    | _ => o
  match (b.pend ++ b.stagePend).foldl pick none with
  | some v => v
  | none => look false b.accPoison tile

end Sys2Proof.Machine
end

