-- ==== Sys2Proof/Machine/HaltOps.lean ====
section
/-!
DEFINITION. Halts (R102, R266, R203): the halt of a context, the emergency stop of the ribbon at this member, and the
fencing of a nib (R46, R423).
-/
namespace Sys2Proof.Machine

/-! ### The ribbon's registers (R219) -/

/-- Context that owns the ribbon. -/
def ribCtx (s : State) : Nat := getF s Reg.RIB_CTRL 3 0
/-- RIB_STATUS.STATE. -/
def ribState (s : State) : Nat := getF s Reg.RIB_STATUS 3 0
/-- Change the state. -/
def setRibState (s : State) (v : Nat) : State := setF s Reg.RIB_STATUS 3 0 v
/-- Members N of the ribbon. -/
def ribN (s : State) : Nat := getF s Reg.RIB_SHAPE 6 0
/-- Position of this member. -/
def ribPos (s : State) : Nat := getF s Reg.RIB_SHAPE 13 8
/-- Change the ribbon controller. -/
def onRib (s : State) (f : Rib → Rib) : State := { s with rib := f s.rib }
/-- Bytes of a piece, of the common part, and of a slab with `g` pieces, by RIB_LAYOUT (R138, R187). -/
def ribPiece (s : State) : Nat := 4096 * getF s Reg.RIB_LAYOUT 6 0
/-- Bytes of the common part. -/
def ribCommon (s : State) : Nat := 64 * getF s Reg.RIB_LAYOUT 17 7

/-- Bytes of a slab of the running ribbon, with `g` pieces (R138). -/
def slabBytes (s : State) (g : Nat) : Nat := ribCommon s + g * ribPiece s

/-- A condition of RIB_ERR (R219, R418): its bit, and the contained error of the owning context for bits 0 to 9. -/
def ribErr (s : State) (bit : Nat) : State :=
  let s := setBit s Reg.RIB_ERR bit
  if bit ≤ 9 then
    raise s 2 0x2A 0 (some (ribCtx s)) 0 ((getReg s Reg.RIB_ERR).toNat + 2 ^ 32 * (getReg s Reg.RIB_ERR_INFO).toNat)
  else s

/-- Ribbon identifier. -/
def ribId (s : State) : Nat := getF s Reg.RIB_SHAPE 31 16

/-- A message on an outgoing hop of the ribbon. -/
def ribSend (s : State) (what : String) (ccw : Bool) (body : List Nat) : State :=
  send s (.ring what ccw (ribId s :: body))

/-- A message on both outgoing hops; a ribbon of one has none (R183, R192). -/
def ribSendBoth (s : State) (what : String) (body : List Nat) : State :=
  if ribN s ≤ 1 then s else ribSend (ribSend s what false body) what true body

/-! ### Halting a context -/

/-- TALLY_WAITs of a context that halts complete HALTED (R372). -/
def haltWaits (s : State) (c : Nat) : State :=
  (s.cmds.filter fun x => x.c = c && x.f 0 1 = 5 && x.started).foldl (fun s x =>
    complete { s with waits := s.waits.filter fun w => w.who ≠ hostWho x } x 0x0D 0 0) s

/-- The context halts in this package: its TALLY_WAITs end (R372), its collectives are aborted (R325). -/
def haltHere (s : State) (c : Nat) : State :=
  let s := onCtx s c fun x => { x with halting := true }
  haltWaits { s with colls := s.colls.filter fun k => k.ctx ≠ c } c

/-- The context's halt leaves for its other nibs, and, once, for the job's other packages (R102, R266). -/
def haltNotice (s : State) (c : Nat) : State :=
  let x := ctxOf s c
  let s := haltHere s c
  if x.packages > 1 && !x.halting then send s (.remoteHalt c) else s

/-! ### Discarding slabs (R156) -/

/-- Slabs whose step 0 has begun in some nib of a cluster. -/
def slabsBegun (s : State) (g piece k : Nat) : Nat :=
  (List.range g).foldl (fun m j => Nat.max m (((nibOf s (64 * k + j)).rotBytes + g * piece - 1) / (g * piece))) 0

/-- A ring keeps all but its newest `over` bytes. -/
def dropTail (b : Nib) (r excess : Nat) : Nib :=
  let x := ringOf b r
  let f := x.fill - excess
  setRing b r { x with fill := f, rd := Nat.min x.rd f, fw := Nat.min x.fw f }

/-- A cluster discards what its NXT and COM rings hold of slabs whose step 0 has not begun. -/
def trimCluster (s : State) (p : ChainPlan) (g k : Nat) : State :=
  let n := slabsBegun s g p.piece k
  let t := look ⟨0, 0⟩ s.cports k
  let com := t.slab * p.common + Nat.min t.pos p.common
  let s := (List.range g).foldl (fun s j =>
    let got := t.slab * p.piece + Nat.min (t.pos - p.common - j * p.piece) p.piece
    onNib s (64 * k + j) fun b => dropTail (dropTail b p.nxt (got - n * p.piece)) p.com (com - n * p.common)) s
  if n ≤ t.slab then { s with cports := put ⟨0, 0⟩ s.cports k ⟨n, 0⟩ } else s

/-- A landing area keeps the slab that its chain has begun to read and not read to its end, and frees the frames of the
others. -/
def trimLanding (s : State) (d : Nat) : State :=
  let a := look Landing.reset s.landing d
  let total := slabBytes s (geomNibs (ctxOf s (ribCtx s)).geom)
  let keep := a.slabs.filter fun x => 0 < x.rd && x.rd < total
  let first := match a.slabs.drop keep.length with | x :: _ => x.frame | [] => a.alloc
  { s with landing := put Landing.reset s.landing d ⟨(keep.map (·.frames)).sum, first, keep⟩ }

/-- The slabs that have not entered the chain are discarded (R156). -/
def discardSlabs (s : State) (c : Nat) : State :=
  match (ctxOf s c).chain with
  | none => s
  | some p =>
    let s := (ctxClusters s c).foldl (fun s k => trimCluster s p (geomNibs (ctxOf s c).geom) k) s
    (List.range Config.dies).foldl trimLanding s

/-! ### Emergency stop (R203) -/

/-- Whether an emergency stop finds a ribbon to stop: FORMED, RUNNING, STOPPING or STOPPED. -/
def ribLive (s : State) : Bool := 1 ≤ ribState s && ribState s ≤ 4

/-- The member stops launching and forwarding, drains its tags, discards slabs and halts the context's nibs. -/
def estopHere (s : State) : State :=
  let c := ribCtx s
  let quiet := fun (d : RibDir) =>
    { d with recv := [], sent := none, n := 0, blks := [], waiting := [], inc := 0, stopped := none }
  let s := onRib s fun r =>
    { r with cw := quiet r.cw, ccw := quiet r.ccw, marks := [], returned := [], stopping := false }
  let s := discardSlabs s c
  let s := haltAllNibs (haltNotice s c) c
  ribErr (setRibState s 5) 9

/-- An emergency stop is raised at this member: it stops, and the stop travels in both directions. -/
def estop (s : State) : State :=
  if ribLive s then estopHere (ribSendBoth s "ESTOP" []) else s

/-- A halt of a context (R102); that of the ribbon's context raises an emergency stop (R203). -/
def haltCtx (s : State) (c : Nat) : State :=
  let s := haltNotice s c
  if c = ribCtx s then estop s else s

/-- A report that halts its context (R102, R418). -/
def raiseHalt (s : State) (code kind c unit info : Nat) : State :=
  haltCtx (raise s 2 code kind (some c) unit info) c

/-- Fence a nib: STATE 6, FENCED, and the context that holds it is halted with CODE 0x22; what it has issued completes (R46,
R423). -/
def fenceNib (s : State) (n : Nat) : State :=
  let s := commitAll (stopNib s n 6) n
  let s := onNib s n fun b => setNibF b Reg.NIB_ABFT_STATUS 2 2 1
  let s := setSvc s 1 n 1 0
  let s := match ctxOfNib s n with
    | some c => raiseHalt s 0x22 1 c n (fld (nibReg (nibOf s n) Reg.NIB_ABFT_FENCE_COUNT) 7 0)
    | none => s
  raiseAllChecks s n

end Sys2Proof.Machine
end

