-- ==== Sys2Proof/Machine/TallyOps.lean ====
section
/-!
DEFINITION. Tallies (R247 to R266): identifiers, maps and spans (R253 to R260), signals held and released (R261,
R262), arrival, saturation and the service of waits (R249 to R252, R264).
-/
namespace Sys2Proof.Machine

/-- A tally of this package. -/
def talOf (s : State) (t : TalRef) : Tally :=
  match t with
  | .nib n i => look Tally.zero (nibOf s n).tallies i
  | .hub h => look Tally.zero s.hubTal h

/-- Replace a tally of this package. -/
def setTal (s : State) (t : TalRef) (v : Tally) : State :=
  match t with
  | .nib n i => onNib s n fun b => { b with tallies := put Tally.zero b.tallies i v }
  | .hub h => { s with hubTal := put Tally.zero s.hubTal h v }

/-- First hub tally and number of hub tallies of a context's range (R247). -/
def hubRange (s : State) (c : Nat) : Nat × Nat :=
  let w := getReg s (perCtx Reg.FTC_TALC_HUB 0x40 c)
  (fld w 13 0, fld w 30 16)

/-- The context whose range holds a hub tally, or that holds the nib of a nib tally (R247). -/
def talCtx (s : State) (t : TalRef) : Option Nat :=
  match t with
  | .nib n _ => ctxOfNib s n
  | .hub h => (List.range 16).find? fun c => (hubRange s c).1 ≤ h && h < (hubRange s c).1 + (hubRange s c).2

/-! ### Identifiers (R253 to R260) -/

/-- An entry of the span table (R258): level, parent, first member, members, anchor, hub offset, valid. -/
structure Span where
  level : Nat
  parent : Nat
  first : Nat
  members : Nat
  anchor : Nat
  hubOff : Nat
  valid : Bool
deriving DecidableEq, Repr

/-- A span from the four words of its entry (R258). -/
def spanOfWords (w0 w1 w2 w3 : W32) : Span :=
  ⟨fld w0 2 0, fld w0 15 8, fld w1 13 0, fld w1 30 16, fld w2 13 0, fld w3 13 0, fld w3 31 31 = 1⟩

/-- Span `k` of a context; spans 0 and 1 are set by the package at load (R259). -/
def spanOf (x : Ctx) (k : Nat) : Span :=
  if k = 0 then ⟨4, 255, 0, x.packages, 0, 0, x.loaded⟩
  else if k = 1 then ⟨3, 255, 0, x.spanNibs, 0, 0, x.loaded⟩
  else
    let w := fun i => look 0 x.spans (4 * k + i)
    spanOfWords (w 0) (w 1) (w 2) (w 3)

/-- An entry of the tally map (R253). -/
structure MapEntry where
  base : Nat
  kind : Nat
  count : Nat
  target : Nat
  hubOff : Nat
  valid : Bool
deriving DecidableEq, Repr

/-- A map entry from its four words (R253). -/
def entryOfWords (w0 w1 w2 w3 : W32) : MapEntry :=
  ⟨fld w0 19 0, fld w0 23 20, fld w1 16 0, fld w2 13 0, fld w3 13 0, fld w3 31 31 = 1⟩

/-- Map entry `e` of a context. -/
def entryOf (x : Ctx) (e : Nat) : MapEntry :=
  let w := fun i => look 0 x.tmap (4 * e + i)
  entryOfWords (w 0) (w 1) (w 2) (w 3)

/-- The valid entry that maps an identifier. -/
def mapEntry (x : Ctx) (t : Nat) : Option MapEntry :=
  ((List.range 64).map (entryOf x)).find? fun e => e.valid && e.base ≤ t && t < e.base + e.count

/-- The hub tally at offset `h` of a context's range, if it lies in the range. -/
def hubTarget (s : State) (c h : Nat) : Option SigDst :=
  let (base, count) := hubRange s c
  if h < count then some (.here (.hub (base + h))) else none

/-- The hub tally at offset `h` of a context's range in package `p` of its job. -/
def hubTargetAt (s : State) (c p h : Nat) (waits : Bool) : Option SigDst :=
  if p = packageIndex s c then hubTarget s c h
  else if waits || p ≥ (ctxOf s c).packages then none
  else some (.away p none h)

/-- The tally that identifier `t` names for a nib (`nib = some n`) or for a host command, for a signal or for a wait or
test; none where R255 raises fault 0x05 or completes the command with ADDRESS (R254, R255). -/
def resolveTid (s : State) (c : Nat) (nib : Option Nat) (t : Nat) (waits : Bool) : Option SigDst :=
  let x := ctxOf s c
  match mapEntry x t with
  | none => none
  | some e =>
    let o := t - e.base
    match e.kind with
    | 1 => match nib with
      | some n => if o < 16 then some (.here (.nib n o)) else none
      | none => none
    | 2 => match nibOfIndex s c (e.target + o / 16) with
      | some n => some (.here (.nib n (o % 16)))
      | none => none
    | 3 => hubTarget s c (e.hubOff + o)
    | 4 => hubTargetAt s c e.target (e.hubOff + o) waits
    | 5 =>
      if e.target = packageIndex s c then
        match nibOfIndex s c (o / 16) with
        | some n => some (.here (.nib n (o % 16)))
        | none => none
      else if waits || e.target ≥ x.packages || o / 16 ≥ x.spanNibs then none
      else some (.away e.target (some (o / 16)) (o % 16))
    | 6 =>
      let sp := spanOf x e.target
      if !sp.valid then none
      else if sp.level = 4 then hubTargetAt s c sp.anchor (sp.hubOff + o) waits
      else hubTarget s c (sp.hubOff + o)
    | _ => none

/-! ### Latencies (R265) -/

/-- Row and column of a cluster node (R145). -/
def gridPos (k : Nat) : Nat × Nat := (k / 4, if k / 4 = 1 then 7 - k else k % 4)

/-- Distance of two numbers. -/
def dist (a b : Nat) : Nat := if a ≤ b then b - a else a - b

/-- Hops between two cluster nodes of a die (R265). -/
def hops (k l : Nat) : Nat := dist (gridPos k).1 (gridPos l).1 + dist (gridPos k).2 (gridPos l).2

/-- Latency of a signal from a nib to a tally of this package, in arithmetic cycles (R265). -/
def sigLat (n : Nat) (t : TalRef) : Nat :=
  match t with
  | .hub _ => 50
  | .nib m _ =>
    if m = n then 2
    else if clusterOf m = clusterOf n then 10
    else if dieOf m = dieOf n then 12 + 4 * hops (clusterOf n % 12) (clusterOf m % 12)
    else 90

/-- The context that holds a job tag (R293). -/
def tagCtx (s : State) (tag : Nat) : Option Nat :=
  (List.range 16).find? fun c =>
    getF s (Reg.LNK_CTX_TAG + 4 * c) 31 31 = 1 && getF s (Reg.LNK_CTX_TAG + 4 * c) 15 0 = tag

/-! ### Signals on their way -/

/-- A released signal leaves its source: to a tally of this package, or out of the package (R265, R266). -/
def emit (s : State) (g : Signal) : State :=
  match g.dst with
  | .here _ => { s with signals := s.signals ++ [g] }
  | .away p nib t =>
    send s (.remoteSignal p nib t g.count (getF s (Reg.LNK_CTX_TAG + 4 * g.ctx) 15 0))

/-- Whether a transfer's destination lies on the channel to a destination (R261). -/
def onChannel (dst : SigDst) (pl : Place) : Bool :=
  match dst, pl with
  | .here (.hub _), _ => true
  | .here (.nib m _), .well n _ => m = n
  | .here (.nib m _), .ring n _ => m = n
  | _, _ => false

/-- The tags of a transfer that are in flight. -/
def Xfer.flying (x : Xfer) : List (Nat × Nat) :=
  ((List.range x.tags.length).filter fun i => (x.tags[i]?.map (·.st)) = some .flight).map fun i => (x.id, i)

/-- Tags in flight that a signal issued now by a nib covers: those of a cancelled transfer until they have drained
(R129, R262, R263). -/
def coverOf (b : Nib) (dst : SigDst) : List (Nat × Nat) :=
  (b.xfers.filter fun x => onChannel dst x.dst).flatMap Xfer.flying

/-- Whether a covered tag has landed: it is no longer in flight (R262, R263). -/
def tagLanded (b : Nib) (c : Nat × Nat) : Bool :=
  match b.xfers.find? fun x => x.id = c.1 with
  | none => true
  | some x => (x.tags[c.2]?.map (·.st)) ≠ some .flight

/-- Whether two destinations lie on one channel of a source (R261). -/
def sameChannel (a b : SigDst) : Bool :=
  match a, b with
  | .here (.hub _), .here (.hub _) => true
  | .here (.nib m _), .here (.nib n _) => m = n
  | .away p _ _, .away q _ _ => p = q
  | _, _ => false

/-- Whether no signal earlier in a list lies on the channel of a signal. -/
def firstOnChannel (hs : List Held) (h : Held) : Bool := !(hs.any fun g => sameChannel g.sig.dst h.sig.dst)

/-- A nib issues a signal: it is released at once where it covers nothing and no earlier signal of the channel is
held, else it is held (R129, R262). A count of 0 has no effect (R127). -/
def nibSignal (s : State) (n c : Nat) (dst : SigDst) (count : Nat) : State :=
  let b := nibOf s n
  if count = 0 then s
  else
    let lat := match dst with | .here t => sigLat n t | .away _ _ _ => 0
    let g : Signal := ⟨dst, count, c, (ctxOf s c).gen, ideal b + lat⟩
    let cov := coverOf b dst
    if cov.isEmpty && !(b.held.any fun h => sameChannel h.sig.dst dst) then emit s g
    else setNib s n { b with held := b.held ++ [⟨g, cov, none⟩] }

/-- Signals held at a nib under R262; the completion signals of transfers that have not ended take none of its sixteen
places (log 128). -/
def heldSignals (b : Nib) : Nat := b.held.countP fun h => h.comp.isNone

/-- A unit of the hub signals a tally: behind the signals it holds for that channel, and behind what the signal covers
(R261, R262). -/
def hubSignal (s : State) (src : SigSrc) (c : Nat) (dst : SigDst) (count : Nat) (covers : List (Nat × Nat)) : State :=
  let g : Signal := ⟨dst, count, c, (ctxOf s c).gen, 0⟩
  if covers.isEmpty && !(s.heldHub.any fun h => h.1 = src && sameChannel h.2.sig.dst dst) then emit s g
  else { s with heldHub := s.heldHub ++ [(src, ⟨g, covers, none⟩)] }

/-! ### Arrival and service (R249 to R252, R264) -/

/-- A contained error of a tally (R252, R264, R454). -/
def talUnit (t : TalRef) : Nat :=
  match t with
  | .hub h => h
  | .nib n i => 2 ^ 31 + 16 * n + i

/-- Offset of a per-context tally register. -/
def talReg (base c : Nat) : Nat := base + 0x40 * c

/-- A signal is dropped and counted; every 1,024th drop, starting with the first, raises an error that names the tally by its
unit number (R264). -/
def dropSignal (s : State) (c unit : Nat) : State :=
  let off := talReg Reg.FTC_TALC_DROPPED c
  let old := getF s off 31 0
  let s := setBit (bumpF s off 31 0 1) (talReg Reg.FTC_TALC_STATUS c) 2
  if old % 1024 = 0 then raise s 2 0x24 10 (some c) unit 1 else s

/-- Signals add to a tally, saturating once on the total (R249, R250, R252). -/
def addTally (s : State) (t : TalRef) (total mark : Nat) : State :=
  if total = 0 then s
  else
    let v := talOf s t
    let excess := v.count + total > 0xFFFF
    let s := setTal s t { count := if excess then 0xFFFF else v.count + total, ovf := v.ovf || excess,
                          mark := Nat.max v.mark mark, seen := v.seen || excess }
    if excess && !v.seen then
      match talCtx s t with
      | some c => raise (setBit s (talReg Reg.FTC_TALC_STATUS c) 1) 2 0x24 10 (some c) (talUnit t) 0
      | none => s
    else s

/-- Subtract a granted wait; the mark falls to 0 with the count (R332). -/
def subTally (s : State) (t : TalRef) (k : Nat) : State :=
  let v := talOf s t
  setTal s t { v with count := v.count - k, mark := if v.count - k = 0 then 0 else v.mark }

/-- The tally answers a waiter: a nib's reply sets out, or the host's TALLY_WAIT completes (R362). -/
def answer (s : State) (w : TWait) (r : Bool) (mark : Nat) : State :=
  if w.who < 3072 then
    onNib s w.who fun b =>
      { b with
        wait := { b.wait with granted := !w.test, reply := some r }
        hold := b.hold.map fun h => { h with stamp := Nat.max h.stamp mark } }
  else match s.cmds.find? fun x => hostWho x = w.who with
    | some x => complete s x 0 0 0
    | none => s

/-- Serve the queue of a tally: the head is granted once the count suffices; a head that cannot be satisfied holds
every wait behind it (R251). `fuel` bounds the queue. -/
def serve : Nat → State → TalRef → State
  | 0, s, _ => s
  | fuel + 1, s, t =>
    match s.waits.find? fun w => w.tal = t with
    | none => s
    | some w =>
      let v := talOf s t
      if v.count ≥ w.k then
        let s := { s with waits := s.waits.erase w }
        serve fuel (answer (subTally s t w.k) w true v.mark) t
      else s

/-- A wait joins the queue of its tally and the queue is served (R251). A test is answered against the present count, and a
wait of 0 is granted: neither stands behind a wait (R249, R250). -/
def enqueue (s : State) (w : TWait) : State :=
  let v := talOf s w.tal
  if w.test || w.k = 0 then answer s w (decide (v.count ≥ w.k)) v.mark
  else
    let s := { s with waits := s.waits ++ [w] }
    serve (s.waits.length + 1) s w.tal

end Sys2Proof.Machine
end

