-- ==== Sys2Proof/Machine/Operands.lean ====
section
/-!
DEFINITION. Operand forms of the stream slot: addresses (R105, R106) and the mesh legs of a transfer (R148); and the
operands that the ports deliver to a matrix step (R108, R111, R112, R114, R163, R452).
-/
namespace Sys2Proof.Machine

/-! ### Addresses -/

/-- Bytes of each address space that OFFSET may reach (R105). -/
def spaceLimit (space : Nat) : Nat :=
  match space with
  | 0 => Config.wellBytes
  | 1 => Config.wellBytes
  | 2 => Config.landBytes
  | _ => Config.hbmBytes

/-- Whether a DPA lies in a floating-point adder region (R238). -/
def fpAdderAt (s : State) (a : Nat) : Bool :=
  match regionAt s (a / 4096) with
  | some r => (regionOf s r).kind = 2 && ((regionOf s r).addFmt = 2 || (regionOf s r).addFmt = 3)
  | none => false

/-- Whether a DPA range touches a floating-point adder region (R238): in the granule of its first byte, or in a later one. -/
def fpAdder (s : State) (a len : Nat) : Bool :=
  (List.range ((a % 4096 + len + 4095) / 4096)).any fun i => fpAdderAt s (a / 4096 * 4096 + 4096 * i)

/-- The place that an address names for an access of `len` bytes by nib `n` of context `c`, and the subcodes of R106
that it raises. `vec`: sld or sst. `write`: the access writes. -/
def resolveAddr (s : State) (n c : Nat) (a : W64) (len : Nat) (vec write : Bool) : List Nat × Option Place :=
  let w := a.toNat
  let space := bits w 63 60
  let idx := bits w 59 48
  let off := bits w 47 0
  let x := ctxOf s c
  let tgt := if space = 1 ∨ space = 5 then nibOfIndex s c idx else some n
  let far := if space = 1 ∨ space = 5 then (if tgt.isNone then [0x06] else []) else []
  let m := tgt.getD n
  if space > 5 then ([0x01], none)
  else if space ≥ 4 then
    let r := off % 16
    let g := ringOf (nibOf s m) r
    let e := if off ≥ 16 then [0x02] else []
    let e := if len % 64 ≠ 0 then e ++ [0x03] else e
    let e := if tgt.isNone then e
      else if !g.valid then e ++ [0x07]
      else if g.chain && (write || !vec) then e ++ [0x0D]
      else if write && vec && ringFree s m r < len then e ++ [0x02]
      else if !write && g.fill < len then e ++ [0x02] else e
    (e ++ far, some (.ring m r))
  else
    let align := if vec && space ≤ 1 then 256 else 64
    let e := if off + len > spaceLimit space then [0x02] else []
    let e := if off % align ≠ 0 || len % 64 ≠ 0 then e ++ [0x03] else e
    match space with
    | 0 => (e, some (.well n off))
    | 1 => (e ++ far, some (.well m off))
    | 2 => (if x.resident then e else e ++ [0x0A], some (.land (dieOf n) off))
    | _ =>
      let e := if dpaOwned (len + 1) s c off len then e else e ++ [0x08]
      (if write && exactMode s c && fpAdder s off len then e ++ [0x0C] else e, some (.hbm off))

/-- The lowest of a list of subcodes. -/
def firstSub : List Nat → Option Nat
  | [] => none
  | x :: xs => some (xs.foldl Nat.min x)

/-! ### Mesh legs (R148) -/

/-- Die, node and unit where a place lies on the mesh (R148). HBM lies at the stack of its granule. -/
def meshEnd (s : State) (pl : Place) (o : Nat) : Nat × Nat × Nat :=
  match pl with
  | .well m _ => (dieOf m, clusterOf m % 12, m % 64)
  | .ring m _ => (dieOf m, clusterOf m % 12, m % 64)
  | .land d _ => (d, 12, 0)
  | .hbm a => match locate s (a + o) with
    | some l => (l.ch / 64, 14 + l.ch / 32 % 2, 0)
    | none => (0, 14, 0)

/-- The flow of a die's table between two nodes and units. -/
def flowOf (s : State) (d sn su dn du : Nat) : Option Nat :=
  match look none s.mesh d with
  | none => none
  | some t =>
    (t.flows.find? fun f => f.srcNode = sn && f.srcUnit = su && f.dstNode = dn && f.dstUnit = du).map (·.id)

/-- Legs from an intermediate die on: `step` is 1 or 3 (minus one modulo 4). -/
def midLegs : Nat → State → Nat → Nat → Nat → Nat → Option (List (Nat × Nat))
  | 0, _, _, _, _, _ => none
  | fuel + 1, s, d, dst, step, node =>
    if d = dst then some []
    else match flowOf s d (if node = 17 then 16 else 17) 0 node dst with
      | none => none
      | some f => (midLegs fuel s ((d + step) % 4) dst step node).map fun ls => (d, f) :: ls

/-- Legs from one end to another by way of a bridge node, if every leg has a flow. -/
def legsVia (s : State) (a b : Nat × Nat × Nat) (node : Nat) : Option (List (Nat × Nat)) :=
  let (da, na, ua) := a
  let (db, nb, ub) := b
  let step := if node = 17 then 1 else 3
  let arrive := if node = 17 then 16 else if node = 16 then 17 else 13
  match flowOf s da na ua node db, flowOf s db arrive 0 nb ub with
  | some f, some g =>
    let mid := if node = 13 then some [] else midLegs 4 s ((da + step) % 4) db step node
    mid.map fun ls => (da, f) :: (ls ++ [(db, g)])
  | _, _ => none

/-- The legs of a part from one end to another: (die, flow) in order (R148); none where a leg has no declared flow. -/
def meshLegs (s : State) (a b : Nat × Nat × Nat) : Option (List (Nat × Nat)) :=
  let (da, na, ua) := a
  let (db, nb, ub) := b
  if da = db ∧ na = nb then some []
  else if da = db then (flowOf s da na ua nb ub).map fun f => [(da, f)]
  else
    let k := (db + 4 - da) % 4
    let has := fun node => (flowOf s da na ua node db).isSome
    if (k = 1 ∨ k = 2) ∧ has 17 then legsVia s a b 17
    else if (k = 3 ∨ k = 2) ∧ has 16 then legsVia s a b 16
    else legsVia s a b 13

/-- Parts of a transfer: lengths cut at the 4 KiB granules of HBM ends (R148). -/
def partLen (pl : Place) (o rest : Nat) : Nat :=
  match pl with
  | .hbm a => Nat.min rest (4096 - (a + o) % 4096)
  | _ => rest

/-- Parts with their legs: none where some leg has no declared flow. -/
def routeParts : Nat → State → Place → Place → Nat → Nat → Option (List (Nat × List (Nat × Nat)))
  | 0, _, _, _, _, _ => some []
  | fuel + 1, s, src, dst, o, len =>
    if len = 0 then some []
    else
      let k := Nat.min (partLen src o len) (partLen dst o len)
      match meshLegs s (meshEnd s src o) (meshEnd s dst o), routeParts fuel s src dst (o + k) (len - k) with
      | some l, some rest => some ((k, l) :: rest)
      | _, _ => none

/-- Whether a node's clock domain is not cycle-locked to the arithmetic clock (R147). -/
def crossingNode (k : Nat) : Bool := k ≥ 13

/-- A leg that waits to send `k` bytes: they are ready at a cycle-locked source, and in the crossing otherwise. -/
def mkLeg (s : State) (k : Nat) (first : Bool) (l : Nat × Nat) : Leg :=
  let locked := match look none s.mesh l.1 with
    | some t => match t.flows.find? fun f => f.id = l.2 with
      | some f => !crossingNode f.srcNode
      | none => true
    | none => true
  ⟨l.1, l.2, k, if first && locked then k else 0, if first && !locked then k else 0⟩

/-- Legs of one part. -/
def mkLegs (s : State) (k : Nat) : Bool → List (Nat × Nat) → List Leg
  | _, [] => []
  | first, l :: ls => mkLeg s k first l :: mkLegs s k false ls

/-! ### Operands at the ports -/

/-- Bytes that the next activation vector takes from a ring (R108, R452). -/
def vecBytes (fmt : Nat) : Nat := if isMX fmt then 64 else 32

/-- Rings of the activation ports of the selected tines (R109). -/
def arbOf (f : MatF) (t : Nat) : Nat := (f.arb.toNat + t) % 16

/-- Tines that a mask selects. -/
def tinesOf (tm : BitVec 4) : List Nat := (List.range 4).filter fun t => tm.getLsbD t

/-- The activation vector at byte `o` of a ring (R452). -/
def actVec (b : Nib) (r fmt o : Nat) : OpVec :=
  let bs := ringBytes b r o (vecBytes fmt)
  ⟨leNat (bs.take 32), if isMX fmt then field bs 32 1 else 127, if isMX fmt then field bs 33 1 else 127,
    ringPois b r o (vecBytes fmt)⟩

/-- Bytes of a weight group (R163). -/
def groupBytes (fmt : Nat) : Nat := if isMX fmt then 544 else 512

/-- What a weight-port read needs of the group: tile `p` of the group (mld), the next column as a vector
(activation-stationary), or the next row slice of `m` elements of each column (output-stationary). -/
inductive WUse where
  | tile (p : Nat)
  | vector
  | slice (m : Nat)
deriving DecidableEq, Repr

/-- Bytes of the group that must be present (R108): the whole group in an MX form, else every byte up to the last
one that is delivered. Vectors of a non-MX format leave as they are consumed, so the next one is at the head. -/
def groupNeed (fmt : Nat) (u : WUse) (col : Nat) : Nat :=
  if isMX fmt then 544
  else match u with
    | .tile p => 480 + (32 / macs fmt) * (p + 1)
    | .vector => 32
    | .slice m => 480 + ((col + 1) * m * elemBits fmt + 7) / 8

/-- First byte and number of bytes of a column that a weight-port read delivers; `s` is the slice. -/
def useBytes (fmt s : Nat) : WUse → Nat × Nat
  | .tile p => (32 / macs fmt * p, 32 / macs fmt)
  | .vector => (0, 32)
  | .slice m => (s * m * elemBits fmt / 8, ((s * m + m) * elemBits fmt + 7) / 8 - s * m * elemBits fmt / 8)

/-- A group at the weight port: its bytes, and whether any word under a range of them is poisoned. -/
structure PortGroup where
  data : List Byte
  pois : Nat → Nat → Bool

/-- Column `c` of a group as an operand vector (R163), with the poison of the bytes that the read delivers and of the
column's scales (R45). -/
def groupCol (fmt : Nat) (g : PortGroup) (u : WUse) (s c : Nat) : OpVec :=
  let kb := if macs fmt = 4 then 2 else 1
  let sc := fun b => if isMX fmt then field g.data (512 + kb * c + b) 1 else 127
  let (o, n) := useBytes fmt s u
  ⟨leNat ((g.data.drop (32 * c)).take 32), sc 0, if kb = 2 then sc 1 else 127,
    g.pois (32 * c + o) n || (isMX fmt && g.pois (512 + kb * c) kb)⟩

/-- Whether a stage with EXPAND is active, so that the weight port takes from the expander (R124). -/
def viaExpander (b : Nib) : Bool :=
  match b.stage with
  | some g => g.expand
  | none => false

/-- Whether the weight port can deliver (R108, R174): from the expander's output buffer, or from ring `r`. -/
def weightReady (b : Nib) (viaExp : Bool) (r fmt : Nat) (u : WUse) : Bool :=
  if viaExp then
    match b.exp.out with
    | [] => false
    | g :: _ => match u with
      | .tile p => p < g.tiles
      | _ => macs fmt ≤ g.tiles
  else
    let x := ringOf b r
    x.avail + x.gone ≥ groupNeed fmt u x.col

/-- The group at the port. Bytes of its front that have left the ring read as zero; no later read delivers them. -/
def weightGroup (b : Nib) (viaExp : Bool) (r fmt : Nat) (u : WUse) : PortGroup :=
  if viaExp then
    match b.exp.out with
    | [] => ⟨[], fun _ _ => false⟩
    | g :: _ => ⟨g.data, fun o n => n > 0 && (List.range ((o + n - 1) / 64 - o / 64 + 1)).any fun i =>
        g.poison.getD (o / 64 + i) false⟩
  else
    let x := ringOf b r
    let k := match u with | .vector => if isMX fmt then 544 else 32 | _ => Nat.min (groupBytes fmt - x.gone) x.avail
    ⟨List.replicate x.gone 0 ++ ringBytes b r x.rd k, fun o n => ringPois b r (x.rd + o - x.gone) n⟩

/-- The column that the next streamed weight vector takes (R163): in a ring of a non-MX format it is at the head. -/
def weightCol (b : Nib) (viaExp : Bool) (r fmt : Nat) : Nat :=
  if viaExp then b.exp.col else if isMX fmt then (ringOf b r).col else 0

/-- The slice that the next output-stationary step takes. -/
def weightSlice (b : Nib) (viaExp : Bool) (r : Nat) : Nat := if viaExp then b.exp.col else (ringOf b r).col

/-- Tiles from part 0 on that have been delivered without a gap. -/
def partsRun (parts : Nat) : Nat → Nat
  | 0 => 0
  | k + 1 => if (List.range (k + 1)).all parts.testBit then k + 1 else partsRun parts k

/-- Bytes of a group's front that have been delivered after `parts` tiles or `col` slices: they leave an ordinary ring, a
non-MX group's at once (R108; of bytes delivered behind others that have not been, none leaves a ring, which keeps its
bytes in order: DEDUCED, log 123). -/
def groupGone (fmt parts col : Nat) : WUse → Nat
  | .tile _ => if isMX fmt then 0 else 32 / macs fmt * partsRun parts (macs fmt)
  | .vector => 0
  | .slice m => if isMX fmt then 0 else col * m * elemBits fmt / 8

/-- The rest of the group, or what it has left behind, leaves ring `r`. -/
def groupTake (b : Nib) (r fmt parts col : Nat) (u : WUse) (last : Bool) : Nib :=
  let x := ringOf b r
  if last then portTake (setRing b r { x with parts := 0, col := 0, gone := 0 }) r (groupBytes fmt - x.gone)
  else
    let k := groupGone fmt parts col u
    portTake (setRing b r { x with parts := parts, col := col, gone := Nat.max x.gone k }) r (k - x.gone)

/-- The weight port has delivered a tile, a vector or a slice: in an MX form the group leaves with its last one, else bytes
leave as they have been delivered (R108). -/
def weightTake (b : Nib) (viaExp : Bool) (r fmt : Nat) (u : WUse) : Nib :=
  let m := macs fmt
  if viaExp then
    let e := b.exp
    let (parts, col, gone) := match u with
      | .tile p => let q := e.parts ||| 2 ^ p; (q, 0, decide (q = 2 ^ m - 1))
      | _ => (0, e.col + 1, decide (e.col + 1 = 16))
    if gone then { b with exp := { e with out := e.out.drop 1, parts := 0, col := 0 } }
    else { b with exp := { e with parts := parts, col := col } }
  else
    let x := ringOf b r
    match u with
    | .tile p =>
      let q := x.parts ||| 2 ^ p
      groupTake b r fmt q 0 u (q = 2 ^ m - 1)
    | .vector =>
      if !isMX fmt then portTake b r 32 else groupTake b r fmt 0 (x.col + 1) u (x.col + 1 = 16)
    | .slice _ => groupTake b r fmt 0 (x.col + 1) u (x.col + 1 = 16)

end Sys2Proof.Machine
end

