-- ==== Sys2Proof/Machine/CollOps.lean ====
section
/-!
DEFINITION. Groups of collectives (R303, R306), the group descriptor (R307, R308) and the checks that coll makes
(R320).
-/
namespace Sys2Proof.Machine

/-! ### Plane addresses and groups (R280, R293, R303) -/

/-- Coordinates (x, y, u, v) of a plane address (R280). -/
def coords (a : Nat) : List Nat := [a % 16 % 4, a % 16 / 4, a / 16 / 32, a / 16 % 32]

/-- The package's plane address (R301). -/
def planeAddr (s : State) : Nat := getF s Reg.LNK_ADDR 13 0

/-- First and last coordinate of the sub-block of context `c` on each axis x, y, u, v (R293, R301). -/
def subBlock (s : State) (c : Nat) : List (Nat × Nat) :=
  let w := getReg s (Reg.LNK_CTX_BLOCK + 4 * c)
  [(fld w 21 20, fld w 23 22), (fld w 25 24, fld w 27 26), (fld w 4 0, fld w 9 5), (fld w 14 10, fld w 19 15)]

/-- Whether the sub-block of a context covers its plane on axis 2 (u) or 3 (v), so that the axis is closed (R294). -/
def wrapAxis (s : State) (c i : Nat) : Bool :=
  let b := (subBlock s c).getD i (1, 0)
  getF s (Reg.LNK_CTX_TAG + 4 * c) 31 31 = 1 && b.1 = 0
    && b.2 = if i = 2 then getF s Reg.LNK_ADDR 20 16 else getF s Reg.LNK_ADDR 25 21

/-- Fields of a group descriptor (R307). -/
structure CDesc where
  op : Nat
  red : Nat
  inFmt : Nat
  outFmt : Nat
  flags : Nat
  axes : Nat
  span : Nat
  ext : List Nat
  grains : Nat
  root : Nat
  count : Nat
  addends : Nat
  fallback : Nat
  src : W64
  dst : W64
  endpoint : W64
  id : Nat
  status : W64
deriving DecidableEq, Repr

/-- The descriptor in 64 bytes (R307). -/
def cdescOf (bs : List Byte) : CDesc :=
  { op := field bs 1 1, red := field bs 2 1, inFmt := field bs 3 1, outFmt := field bs 4 1, flags := field bs 5 1,
    axes := field bs 6 1, span := field bs 7 1,
    ext := [field bs 8 1, field bs 9 1, field bs 10 1, field bs 11 1],
    grains := field bs 0x0C 1, root := field bs 0x0E 2, count := field bs 0x10 4, addends := field bs 0x14 2,
    fallback := field bs 0x16 2, src := BitVec.ofNat 64 (field bs 0x18 8), dst := BitVec.ofNat 64 (field bs 0x20 8),
    endpoint := BitVec.ofNat 64 (field bs 0x28 8), id := field bs 0x30 4, status := BitVec.ofNat 64 (field bs 0x38 8) }

/-- FLAGS.SAT. -/
def CDesc.sat (d : CDesc) : Bool := bitOf d.flags 0
/-- FLAGS.DRIP. -/
def CDesc.drip (d : CDesc) : Bool := bitOf d.flags 1
/-- FLAGS.DST_MODE. -/
def CDesc.own (d : CDesc) : Bool := bitOf d.flags 2

/-- Whether EXT fits an axis of a sub-block (R303, R307). -/
def extOk (d : CDesc) (blk : List (Nat × Nat)) : Bool :=
  (List.range 4).all fun i =>
    let e := d.ext.getD i 0
    let (lo, hi) := blk.getD i (0, 0)
    1 ≤ e && e ≤ (if i < 2 then 4 else 32) && (bitOf d.axes i || e = 1) && (hi + 1 - lo) % e = 0

/-- Position of a coordinate in the group's tile, and the tile's first coordinate. -/
def tileFirst (x lo e : Nat) : Nat := lo + (x - lo) / e * e

/-- Plane addresses of the group's tile in order of rank, before holes (R303). -/
def tileOfGroup (s : State) (c : Nat) (d : CDesc) : List Nat :=
  let me := coords (planeAddr s)
  let blk := subBlock s c
  let first := (List.range 4).map fun i => tileFirst (me.getD i 0) (blk.getD i (0, 0)).1 (d.ext.getD i 1)
  let at' := fun i k => first.getD i 0 + k
  ((List.range (d.ext.getD 3 1)).map fun v => (List.range (d.ext.getD 2 1)).map fun u =>
    (List.range (d.ext.getD 1 1)).map fun y => (List.range (d.ext.getD 0 1)).map fun x =>
      (32 * at' 2 u + at' 3 v) * 16 + 4 * at' 1 y + at' 0 x).flatten.flatten.flatten

/-- Holes of a context (R306). -/
def holesOf (s : State) (c : Nat) : List Nat :=
  (List.range 4).filterMap fun n =>
    let w := getReg s (Reg.RTR_CTX_HOLE + 0x20 * c + 4 * n)
    if fld w 31 31 = 1 then some (fld w 13 0) else none

/-- Member packages in order of rank (R306). -/
def groupMembers (s : State) (c : Nat) (d : CDesc) : List Nat :=
  (tileOfGroup s c d).filter fun a => !(holesOf s c).contains a

/-- Nibs of the span that takes part in the package (R258, R309). -/
def spanNibs (s : State) (c k : Nat) : List Nat :=
  let p := spanOf (ctxOf s c) k
  (List.range p.members).filterMap fun i => nibOfIndex s c (p.first + i)

/-! ### Formats (R308) -/

/-- Whether OP, RED, IN_FMT and OUT_FMT are a row of R308. -/
def comboOk (d : CDesc) : Bool :=
  let f := d.inFmt
  let g := d.outFmt
  let flt := fun x => x = 12 || x = 10
  match d.op, d.red with
  | 1, 1 => flt f && flt g
  | 1, 2 => flt f && flt g
  | 1, 3 => flt f && flt g
  | 1, 4 => f = 13 && g = 13
  | 1, 5 => (flt f || f = 13) && f = g
  | 2, 0 => f = 13 && g = 13
  | 3, 0 => f = 13 && g = 13
  | 4, 0 => f = 13 && g = 13
  | _, _ => false

/-- Bytes of an element of a collective's format. -/
def fmtBytes (f : Nat) : Nat := if f = 10 then 2 else 4

/-- Elements per segment (R308). -/
def segElems (red : Nat) : Nat := if red = 1 then 2048 else 4096

/-- Bytes of a lane. -/
def laneBytes (red : Nat) : Nat := if red = 1 then 8 else 4

/-- Elements of a shard: of the whole vector in a broadcast (R308). -/
def shardElems (d : CDesc) (m : Nat) : Nat := if d.op = 3 then d.count else d.count / m

/-- Bytes that a nib's source holds: GRAINS vectors, the shard or the whole vector (R308). -/
def srcBytes (d : CDesc) (m : Nat) : Nat :=
  match d.op with
  | 1 => d.grains * d.count * fmtBytes d.inFmt
  | 2 => d.count / m * 4
  | 3 => d.count * 4
  | _ => 0

/-- Bytes of the result at a member (R308). -/
def dstBytes (d : CDesc) (m : Nat) : Nat :=
  match d.op with
  | 1 => d.count / m * fmtBytes d.outFmt
  | 2 => d.count * 4
  | 3 => d.count * 4
  | _ => 0

/-- Whether nib `n` supplies data: by GRAINS, or as span member 0 (R308, R309). -/
def supplies (d : CDesc) (member0 : Bool) (rank : Nat) : Bool :=
  match d.op with
  | 1 => d.grains > 0
  | 2 => member0
  | 3 => member0 && d.root = rank
  | _ => false

/-- ADDENDS within R307 and R311. -/
def addendsOk (d : CDesc) : Bool :=
  match d.red with
  | 1 => 1 ≤ d.addends && d.addends ≤ 32768
  | 2 => 1 ≤ d.addends && d.addends ≤ 2048
  | _ => d.addends = 0

/-- Reserved bytes and bits of the descriptor (R307). -/
def cdescReserved (bs : List Byte) : Bool :=
  field bs 0x0D 1 = 0 && field bs 0x34 4 = 0 && field bs 5 1 < 32 && field bs 6 1 < 16

/-- Whether ENDPOINT lies in an adder region of the collective's ADD_FMT (R317). A collective that has no endpoint mode
does not use ENDPOINT, and its value is not tested (R317, R320). -/
def endpointOk (s : State) (c : Nat) (d : CDesc) (m : Nat) : List Nat :=
  let a := d.endpoint.toNat
  if a = 0 || d.op ≠ 1 || d.red = 5 then []
  else
    let len := shardElems d m * laneBytes d.red
    let want := match d.red with | 1 => 4 | 2 => 0 | 4 => 0 | 3 => 2 | _ => 16
    let o := bits a 47 0
    if bits a 63 60 ≠ 3 then [0x01]
    else
      let e := if o + len > Config.hbmBytes then [0x02] else []
      let e := if o % 64 ≠ 0 then e ++ [0x03] else e
      let fmtAt := fun x => match regionAt s (x / 4096) with
        | some r => (regionOf s r).kind = 2 && (regionOf s r).addFmt = want
        | none => false
      let granules := (List.range ((o + len - 1) / 4096 + 1 - o / 4096)).map fun i => 4096 * (o / 4096 + i)
      if dpaOwned (len + 1) s c o len && granules.all fmtAt then e else e ++ [0x08]

/-- Subcodes of R106 that the addresses of a collective raise (R320, subcode 0x08). -/
def collAddr (s : State) (n c : Nat) (d : CDesc) (m rank : Nat) (member0 : Bool) : List Nat :=
  let src := if supplies d member0 rank then
      if d.drip then
        let r := bits d.src.toNat 47 0
        if r ≥ 16 then [0x02] else if (ringOf (nibOf s n) r).valid then [] else [0x07]
      else (resolveAddr s n c d.src (srcBytes d m) false false).1
    else []
  let dst := if d.op = 4 then []
    else if d.own then
      (if bits d.dst.toNat 63 60 = 0 then [] else [0x01]) ++ (resolveAddr s n c d.dst (dstBytes d m) false true).1
    else if member0 then
      (if bits d.dst.toNat 63 60 = 3 then [] else [0x01]) ++ (resolveAddr s n c d.dst (dstBytes d m) false true).1
    else []
  let st := d.status.toNat
  let sts := (if bits st 63 60 ≠ 0 then [0x01] else []) ++ (if bits st 47 0 + 8 > Config.wellBytes then [0x02] else [])
    ++ (if st % 8 ≠ 0 then [0x03] else [])
  src ++ dst ++ sts ++ endpointOk s c d m

/-- Collectives that nib `n` has outstanding. -/
def collsOf (s : State) (n : Nat) : List Coll := s.colls.filter fun k => k.parts.any fun p => p.nib = n

/-- The subcodes that coll raises at nib `n` of context `c` (R320), and the R106 subcode beside 0x08. -/
def collSubs (s : State) (n c : Nat) (bs : List Byte) : List Nat × Nat :=
  let d := cdescOf bs
  let x := ctxOf s c
  let p := spanOf x d.span
  let member := match indexOfNib s c n with
    | some i => p.first ≤ i && i < p.first + p.members
    | none => false
  let member0 := indexOfNib s c n = some p.first
  let ext := extOk d (subBlock s c)
  let mem := if ext then groupMembers s c d else []
  let m := Nat.max 1 mem.length
  let rank := (posOf (planeAddr s) mem 0).getD 0
  let addr := collAddr s n c d m rank member0
  let e := if field bs 0 1 ≠ 1 || !cdescReserved bs || d.op = 0 || d.op > 4 || d.red > 5 then [0x01] else []
  let e := if comboOk d then e else e ++ [0x02]
  let e := if ext then e else e ++ [0x03]
  let e := if d.span < 256 && p.valid && p.level < 4 && member then e else e ++ [0x04]
  let e := if (if d.op = 4 then d.count = 0 else d.count ≠ 0 && d.count % (256 * m) = 0) then e else e ++ [0x05]
  let e := if (d.red = 3 && exactMode s c) || (d.drip && (d.grains ≠ 1 || bits d.src.toNat 63 60 ≠ 4))
    then e ++ [0x06] else e
  let e := if addendsOk d then e else e ++ [0x07]
  let e := if addr.isEmpty then e else e ++ [0x08]
  let e := if (collsOf s n).any fun k => k.ctx = c && k.id = d.id then e ++ [0x09] else e
  let lost := fun a => s.lostPkgs.contains a && !(holesOf s c).contains a
  let e := if ext && (tileOfGroup s c d).any lost then e ++ [0x0A] else e
  let e := if (collsOf s n).length ≥ 16 then e ++ [0x0B] else e
  (e, (firstSub addr).getD 0)

/-- The faults of coll with group descriptor address `a` (R131, R320): its address, code 0x04, or code 0x09. -/
def collFault (s : State) (n c : Nat) (a : W64) : Option (Nat × Nat) :=
  let w := a.toNat
  let o := bits w 47 0
  let e := (if bits w 63 60 ≠ 0 then [0x01] else []) ++ (if o + 64 > Config.wellBytes then [0x02] else [])
    ++ (if o % 64 ≠ 0 then [0x03] else [])
  match firstSub e with
  | some k => some (0x04, k)
  | none =>
    let (es, r) := collSubs s n c (readBytes (nibOf s n).well o 64)
    match firstSub es with
    | some k => some (0x09, if k = 0x08 then k + 256 * r else k)
    | none => none

/-- coll starts or joins its collective (R304, R131, R309): the descriptor is read in the cycle of issue. -/
def collIssue (s : State) (n c : Nat) (a : W64) (dst : SigDst) : State :=
  let bs := readBytes (nibOf s n).well (bits a.toNat 47 0) 64
  let d := cdescOf bs
  let part : CollPart := ⟨n, bs, dst, ideal (nibOf s n)⟩
  let mem := groupMembers s c d
  if s.colls.any fun k => k.ctx = c && k.id = d.id then
    { s with colls := s.colls.map fun k => if k.ctx = c && k.id = d.id then { k with parts := k.parts ++ [part] } else k }
  else
    { s with colls := s.colls ++ [{ ctx := c, id := d.id, mem := mem, rank := (posOf (planeAddr s) mem 0).getD 0,
                                    wrap := (List.range 4).map fun i => 2 ≤ i && wrapAxis s c i
                                      && (let b := (subBlock s c).getD i (0, 0); d.ext.getD i 0 = b.2 + 1 - b.1)
                                    parts := [part], words := [], grains := 0, agreed := 0, segs := [], status := 0,
                                    bad := false }] }

end Sys2Proof.Machine
end

