-- ==== Sys2Proof/Machine/Hash.lean ====
section
/-!
DEFINITION. The digests and checks of the manual: SHAKE256 (R194, R341, R376, R381), CRC-32C (R193, R273, R322),
CRC64 (R162) and the verification of a Falcon-1024 signature (R376), from the published standards it names.
-/
namespace Sys2Proof.Machine

/-! ### CRC -/

/-- One bit of a reflected CRC. -/
def crcBit (poly c : Nat) : Nat := if c % 2 = 1 then (c / 2) ^^^ poly else c / 2

/-- Eight bits of a reflected CRC. -/
def crcByte (poly c : Nat) : Nat :=
  let f := crcBit poly
  f (f (f (f (f (f (f (f c)))))))

/-- A reflected CRC of all-ones initial value and final exclusive-OR; `poly` is the reflected polynomial. -/
def crc (poly ones : Nat) (bs : List Byte) : Nat :=
  (bs.foldl (fun c b => crcByte poly (c ^^^ b.toNat)) ones) ^^^ ones

/-- CRC-32C: polynomial 0x1EDC_6F41, reflected 0x82F6_3B78. -/
def crc32c (bs : List Byte) : Nat := crc 0x82F63B78 0xFFFFFFFF bs

/-- CRC64 of R162: polynomial 0x42F0_E1EB_A9EA_3693, here with its bits reversed. -/
def crc64 (bs : List Byte) : Nat := crc 0xC96C5795D7870F42 0xFFFFFFFFFFFFFFFF bs

/-! ### Keccak -/

/-- Lane rotation offsets, lane `x + 5 y`. -/
def keccakRot : List Nat :=
  [0, 1, 62, 28, 27, 36, 44, 6, 55, 20, 3, 10, 43, 25, 39, 41, 45, 15, 21, 8, 18, 2, 61, 56, 14]

/-- Round constants. -/
def keccakRC : List Nat :=
  [0x1, 0x8082, 0x800000000000808A, 0x8000000080008000, 0x808B, 0x80000001, 0x8000000080008081,
   0x8000000000008009, 0x8A, 0x88, 0x80008009, 0x8000000A] ++
  [0x8000808B, 0x800000000000008B, 0x8000000000008089, 0x8000000000008003, 0x8000000000008002,
   0x8000000000000080, 0x800A, 0x800000008000000A, 0x8000000080008081, 0x8000000000008080, 0x80000001,
   0x8000000080008008]

/-- 64-bit rotation to the left. -/
def rotl64 (x n : Nat) : Nat := (x * 2 ^ n) % 2 ^ 64 + x / 2 ^ (64 - n)

/-- The indices 0 to 24 of the lanes. -/
def laneIdx : List Nat := List.range 25

/-- One round of Keccak-f[1600] on 25 lanes. -/
def keccakRound (a : List Nat) (rc : Nat) : List Nat :=
  let at' := fun (l : List Nat) i => l.getD i 0
  let c := (List.range 5).map fun x =>
    at' a x ^^^ at' a (x + 5) ^^^ at' a (x + 10) ^^^ at' a (x + 15) ^^^ at' a (x + 20)
  let d := (List.range 5).map fun x => at' c ((x + 4) % 5) ^^^ rotl64 (at' c ((x + 1) % 5)) 1
  let t := laneIdx.map fun i => at' a i ^^^ at' d (i % 5)
  -- lane (x, y) of the result of rho and pi comes from lane (x', y') with x = y', y = 2x' + 3y'
  let b := laneIdx.map fun i =>
    let x := i % 5
    let y := i / 5
    let x' := (x + 3 * y) % 5
    let j := x' + 5 * x
    rotl64 (at' t j) (keccakRot.getD j 0)
  let e := laneIdx.map fun i =>
    let x := i % 5
    let y := i / 5 * 5
    at' b i ^^^ ((2 ^ 64 - 1 - at' b ((x + 1) % 5 + y)) &&& at' b ((x + 2) % 5 + y))
  match e with
  | [] => []
  | l :: ls => (l ^^^ rc) :: ls

/-- The Keccak-f[1600] permutation. -/
def keccakF (a : List Nat) : List Nat := keccakRC.foldl keccakRound a

/-- Exclusive-OR of one 136-byte block into the lanes. -/
def absorbBlock (a : List Nat) (bs : List Byte) : List Nat :=
  let ls := (chunks 8 17 bs).map leNat
  laneIdx.map fun i => a.getD i 0 ^^^ ls.getD i 0

/-- Padding of SHAKE256 to whole 136-byte blocks. -/
def shakePad (bs : List Byte) : List Byte :=
  let n := bs.length % 136
  if n = 135 then bs ++ [0x9F#8]
  else bs ++ [0x1F#8] ++ List.replicate (134 - n) 0#8 ++ [0x80#8]

/-- `n` blocks of 136 bytes squeezed from the lanes. -/
def squeeze : Nat → List Nat → List Byte
  | 0, _ => []
  | n + 1, a => ((a.take 17).map (natLE 8)).flatten ++ squeeze n (keccakF a)

/-- SHAKE256 of a message, `n` bytes of output. -/
def shake256 (msg : List Byte) (n : Nat) : List Byte :=
  let p := shakePad msg
  let st := (chunks 136 p.length p).foldl (fun a b => keccakF (absorbBlock a b)) (List.replicate 25 0)
  (squeeze (n / 136 + 1) st).take n

/-- A digest of the manual: SHAKE256 over an ASCII prefix and a message, truncated to 256 bits. -/
def digest (pre : String) (msg : List Byte) : List Byte := shake256 (ascii pre ++ msg) 32

/-! ### Falcon-1024 verification -/

/-- The modulus of Falcon. -/
def falconQ : Nat := 12289

/-- HashToPoint: 1,024 coefficients from 16-bit big-endian words below 61,445. -/
def hashToPoint : Nat → List Byte → List Nat
  | 0, _ => []
  | k + 1, h :: l :: bs =>
    let t := h.toNat * 256 + l.toNat
    if t < 61445 then t % falconQ :: hashToPoint k bs else hashToPoint k bs
  | _, _ => []

/-- Bits of bytes, most significant bit first. -/
def bitsBE (bs : List Byte) : List Bool :=
  (bs.map fun b => [b.getLsbD 7, b.getLsbD 6, b.getLsbD 5, b.getLsbD 4, b.getLsbD 3, b.getLsbD 2, b.getLsbD 1,
    b.getLsbD 0]).flatten

/-- The number that bits spell, most significant first. -/
def bitsNat (bs : List Bool) : Nat := bs.foldl (fun a b => 2 * a + (if b then 1 else 0)) 0

/-- Length of a run of zero bits and what follows its closing one. -/
def unary : Nat → List Bool → Option (Nat × List Bool)
  | _, [] => none
  | n, b :: bs => if b then some (n, bs) else unary (n + 1) bs

/-- Decompression of `k` signature coefficients; the bits left over must be zero. -/
def falconDecompress : Nat → List Bool → Option (List Int)
  | 0, bs => if bs.any id then none else some []
  | k + 1, s :: bs =>
    let low := bitsNat (bs.take 7)
    match unary 0 (bs.drop 7) with
    | none => none
    | some (hi, rest) =>
      let v := hi * 128 + low
      if s && v = 0 then none
      else match falconDecompress k rest with
        | none => none
        | some vs => some ((if s then -(v : Int) else (v : Int)) :: vs)
  | _ + 1, [] => none

/-- The 1,024 coefficients of 14 bits of a public key. -/
def falconKey (key : List Byte) : List Nat := (chunks 14 1024 (bitsBE key)).map bitsNat

/-- `x` times a polynomial modulo `x^1024 + 1` and `q`. -/
def mulX (p : List Nat) : List Nat :=
  match p.getLast? with
  | none => []
  | some t => ((falconQ - t) % falconQ) :: p.dropLast

/-- Product modulo `x^1024 + 1` and `q`, by Horner's rule from the top coefficient of `s`. -/
def polyMul (s : List Int) (h : List Nat) : List Nat :=
  s.reverse.foldl (fun acc c =>
    List.zipWith (fun a b => (a + ((c % (falconQ : Int)).toNat) * b) % falconQ) (mulX acc) h)
    (List.replicate 1024 0)

/-- The representative of a residue nearest zero, squared. -/
def centredSq (x : Nat) : Nat :=
  let y := x % falconQ
  let z := if 2 * y > falconQ then falconQ - y else y
  z * z

/-- Verification of a padded Falcon-1024 signature: header 0x3A, 40 bytes of salt, compressed `s2`; the public key
has header 0x0A; the squared norm of `(s1, s2)` is at most 70,265,242 (log entry 8). -/
def falconVerify (key msg sig : List Byte) : Bool :=
  match key, sig with
  | kh :: kb, sh :: sb =>
    if kh.toNat ≠ 0x0A ∨ kb.length ≠ 1792 ∨ sh.toNat ≠ 0x3A ∨ sig.length ≠ 1280 then false
    else
      let h := falconKey kb
      if h.any (fun c => c ≥ falconQ) then false
      else match falconDecompress 1024 (bitsBE (sb.drop 40)) with
        | none => false
        | some s2 =>
          let c := hashToPoint 1024 (shake256 (sb.take 40 ++ msg) 4096)
          let p := polyMul s2 h
          let s1 := List.zipWith (fun a b => (a + falconQ - b) % falconQ) c p
          decide (c.length = 1024 ∧
            (s1.map centredSq).sum + (s2.map fun v => v.natAbs * v.natAbs).sum ≤ 70265242)
  | _, _ => false

/-- Digest of a public key. -/
def keyDigest (key : List Byte) : List Byte := digest "VX1-KEY" key

/-- This package's identity digest (R381). -/
def identity : List Byte := keyDigest Config.identityKey

end Sys2Proof.Machine
end

