-- ==== Sys2Proof/Machine/Flits.lean ====
section
/-!
DEFINITION. Flits on the fibre (R272, R273) and the bytes that messages put into them.
-/
namespace Sys2Proof.Machine

/-! ### The flit (R272, R273) -/

/-- The 80 bits of a flit's header. -/
def flitHdr (f : FlitIn) : Nat :=
  f.ty % 16 + 2 ^ 4 * (f.seq % 4096) + 2 ^ 16 * (f.ack % 4096) + 2 ^ 28 * (f.vc % 8) + 2 ^ 32 * (f.tag % 65536)
    + 2 ^ 48 * (f.dest % 16384) + 2 ^ 62 * (f.words % 4) + 2 ^ 64 * (f.poison % 16) + 2 ^ 68 * (f.order % 512)
    + 2 ^ 77 * (f.ovc % 8)

/-- Header and payload: bytes 0 to 265. -/
def flitBody (f : FlitIn) : List Byte :=
  natLE 10 (flitHdr f) ++ (f.payload ++ List.replicate (256 - f.payload.length) 0).take 256

/-- The CRC-32C that a flit should carry. -/
def flitCrc (f : FlitIn) : Nat := crc32c (flitBody f)

/-- The 270 bytes of a flit. -/
def flitBytes (f : FlitIn) : List Byte := flitBody f ++ natLE 4 f.crc

/-- Its 216 symbols of ten bits: the four lanes take them in turn, lane 0 first. -/
def flitSymbols (f : FlitIn) : List Nat :=
  let n := leNat (flitBytes f)
  (List.range 216).map fun j => n / 2 ^ (10 * j) % 1024

/-- The symbols of lane 0, then those of lanes 1, 2 and 3 (R272). -/
def flitLanes (f : FlitIn) : List Nat :=
  let xs := flitSymbols f
  ((List.range 4).map fun lane => (List.range 54).map fun i => xs.getD (4 * i + lane) 0).flatten

/-! ### Payloads

Blocks travel as their bytes and marks as the bytes of R190. Where no chapter gives a layout, a message's numbers follow one
another in 8 bytes each (DESIGN CHOICE, log entry 138). -/

/-- Numbers of 8 bytes. -/
def wordsOut (ns : List Nat) : List Byte := (ns.map (natLE 8)).flatten

/-- Bytes from their numbers. -/
def bytesOut (ns : List Nat) : List Byte := ns.map (BitVec.ofNat 8)

/-- Whether a ribbon message is one of the marks of R190. -/
def isMark (kind : String) : Bool := ["LAP_MARK", "STOP_MARK", "HEARTBEAT", "FORM", "DIRCHK"].contains kind

/-- The bytes of a message. A segment's lanes follow a word of 64 bytes with its numbers: COLL_ID, owner, number, packages
in it, poison by stripe, bytes of a lane, CRC-32C, stages. -/
def msgBytes : OutMsg → List Byte
  | .ring kind _ body =>
    if kind = "BLOCK" then bytesOut (body.drop (5 + body.getD 4 0))
    else if isMark kind then bytesOut body
    else wordsOut body
  | .link kind _ _ _ body =>
    if kind = "SEGMENT" then
      wordsOut (body.take 8) ++ ((body.drop 8).map (natLE (body.getD 5 4))).flatten
    else wordsOut body
  | .remoteSignal _ nib t n _ => wordsOut [match nib with | some k => k + 1 | none => 0, t, n]
  | _ => []

/-- Whether a 64 B word of a message is poisoned. -/
def msgBad (m : OutMsg) (w : Nat) : Bool :=
  match m with
  | .ring kind _ body => kind = "BLOCK" && ((body.drop 5).take (body.getD 4 0)).contains w
  | .link kind _ _ _ body =>
    kind = "SEGMENT" && 0 < w && (body.getD 4 0).testBit (64 * (w - 1) / (256 * Nat.max 1 (body.getD 5 4)))
  | _ => false

/-- Flits that `n` bytes take: 256 bytes each, and one where there are none. -/
def msgParts (n : Nat) : Nat := Nat.max 1 ((n + 255) / 256)

/-- Part `i` of a message as a data flit; SEQ, ACK and CRC are set when it is sent. -/
def dataFlit (vc tag dest : Nat) (m : OutMsg) (i : Nat) : FlitIn :=
  let bs := ((msgBytes m).drop (256 * i)).take 256
  let n := Nat.max 1 ((bs.length + 63) / 64)
  { ty := 1, seq := 0, ack := 0, vc := vc, tag := tag, dest := dest, words := n - 1
    poison := ((List.range n).map fun j => if msgBad m (4 * i + j) then 2 ^ j else 0).sum
    order := 0, ovc := vc, payload := bs, crc := 0, credits := [], ask := none, last := none, stamp := none }

end Sys2Proof.Machine
end

