-- ==== Sys2Proof/Machine/Plan.lean ====
section
/-!
DEFINITION. The cable plan (R279 to R282, R296): its records, the checks that the Owl makes, and what it writes into the
link registers at boot.
-/
namespace Sys2Proof.Machine

/-- Offset of a register of port `p`. -/
def portReg (base p : Nat) : Nat := base + 0x1000 * p

/-- A port of a link. -/
def portOfLink (s : State) (p : Nat) : LPort := look LPort.reset s.lports p

/-- Change a port. -/
def onPort (s : State) (p : Nat) (f : LPort → LPort) : State :=
  { s with lports := put LPort.reset s.lports p (f (portOfLink s p)) }

/-- A port record of 8 bytes. -/
def planPort (bs : List Byte) : PlanPort :=
  ⟨field bs 0 2, field bs 2 1, field bs 3 1, field bs 4 1, signed 8 (field bs 5 1), field bs 6 2⟩

/-- A package record of 16 bytes and its 32 port records. -/
def planPkg (bs : List Byte) : PlanPkg :=
  ⟨field bs 0 2, field bs 2 1, bitOf (field bs 3 1) 0, field bs 8 8,
    (List.range 32).map fun p => planPort (bs.drop (16 + 8 * p))⟩

/-- Ring records (R282). -/
def planRings : Nat → List Byte → List (List Nat)
  | 0, _ => []
  | k + 1, bs =>
    let n := field bs 0 2
    ((List.range n).map fun i => field bs (2 + 2 * i) 2) :: planRings k (bs.drop ((2 + 2 * n + 3) / 4 * 4))

/-- A plan from its bytes, none where its header is not one of R282. -/
def planOfBytes (bs : List Byte) : Option CPlan :=
  let n := field bs 0x0A 2
  if field bs 0 4 ≠ 0x4E414C43 || field bs 4 2 ≠ 1 || bs.length < 0x0E + 272 * n then none
  else some ⟨field bs 6 1, field bs 7 1, field bs 8 2, (List.range n).map fun i => planPkg (bs.drop (0x0E + 272 * i)),
    planRings (field bs 0x0C 2) (bs.drop (0x0E + 272 * n))⟩

/-- The record of a plane address. -/
def CPlan.pkg (c : CPlan) (a : Nat) : Option PlanPkg := c.pkgs.find? fun x => x.addr = a

/-- The package's own record: the one that names its identity, else the first that names none. -/
def CPlan.own (c : CPlan) (ident : Nat) : Option PlanPkg :=
  match c.pkgs.find? fun x => x.ident = ident with
  | some x => some x
  | none => c.pkgs.find? fun x => x.ident = 0

/-- The member of the sett with index `k` among the other fifteen (R279). -/
def settPeer (addr k : Nat) : Nat := addr / 16 * 16 + if k < addr % 16 then k else k + 1

/-- Whether the role of port `p` follows R279. -/
def roleOk (x : PlanPkg) (p : Nat) (r : PlanPort) : Bool :=
  let sett := fun k => r.role = 3 && r.peer = settPeer x.addr k
  r.role = 0 || match x.profile with
    | 0 => if p < 8 then r.role = 1 else if p < 16 then r.role = 2 else if p < 31 then sett (p - 16) else r.role = 4
    | 1 => if p < 30 then sett (p / 2) else r.role = 4
    | 2 => if p < 15 then sett p else r.role = 4
    | _ => false

/-- Whether the peer of a port names the port back. -/
def backOk (c : CPlan) (x : PlanPkg) (p : Nat) (r : PlanPort) : Bool :=
  r.role = 0 || match c.pkg r.peer with
    | some y => match y.ports[r.port]? with
      | some q => q.peer = x.addr && q.port = p && q.role ≠ 0
      | none => false
    | none => false

/-- The ring record that holds an address, from that address on. -/
def ringFrom (rings : List (List Nat)) (a : Nat) : List Nat :=
  match rings.find? fun r => r.contains a with
  | some r => r.dropWhile (· ≠ a) ++ r.takeWhile (· ≠ a)
  | none => []

/-- Whether a ring-role port agrees with the ring records. -/
def ringOk (c : CPlan) (x : PlanPkg) (r : PlanPort) : Bool :=
  let ring := ringFrom c.rings x.addr
  match r.role with
  | 1 => ring[1]? = some r.peer
  | 2 => ring.getLast? = some r.peer && 2 ≤ ring.length
  | _ => true

/-- Links between setts: from, to, decimetres. -/
def CPlan.edges (c : CPlan) : List (Nat × Nat × Nat) :=
  (c.pkgs.map fun x => (x.ports.filter fun r => r.role = 4).map fun r => (x.addr / 16, r.peer / 16, r.len)).flatten

/-- Routes of fewest hops from a sett: sett, hops, and decimetres of the longest of them. `fuel` counts the hops. -/
def planDist : Nat → List (Nat × Nat × Nat) → List (Nat × Nat × Nat) → List (Nat × Nat × Nat)
  | 0, _, ds => ds
  | fuel + 1, es, ds =>
    let new := es.filterMap fun e =>
      match ds.find? fun d => d.1 = e.1 with
      | some d => if ds.any fun y => y.1 = e.2.1 then none else some (e.2.1, d.2.1 + 1, d.2.2 + e.2.2)
      | none => none
    planDist fuel es (new.foldl (fun ds n =>
      if ds.any fun y => y.1 = n.1 then ds.map fun y => if y.1 = n.1 && y.2.1 = n.2.1 then (y.1, y.2.1, Nat.max y.2.2 n.2.2) else y
      else ds ++ [n]) ds)

/-- Hops between two setts, and the decimetres of the longest route of so many. -/
def CPlan.way (c : CPlan) (a b : Nat) : Option (Nat × Nat) :=
  ((planDist c.pkgs.length c.edges [(a, 0, 0)]).find? fun d => d.1 = b).map fun d => d.2

/-- Hops between two setts. -/
def CPlan.hops (c : CPlan) (a b : Nat) : Option Nat := (c.way a b).map fun d => d.1

/-- The bounds of R282: at most 12 global ports, and 250 m of fibre together. -/
def withinBounds (hops dm : Nat) : Bool := hops ≤ 12 && dm ≤ 2500

/-- Whether the routes of fewest hops from a sett to all others keep the bounds of R282. -/
def CPlan.boundsOk (c : CPlan) (sett : Nat) : Bool :=
  (planDist c.pkgs.length c.edges [(sett, 0, 0)]).all fun d => withinBounds d.2.1 d.2.2

/-- Whether every field of a plan has a value that R282 gives it; others are reserved (R5). -/
def CPlan.fieldsOk (c : CPlan) : Bool :=
  1 ≤ c.uExt && c.uExt ≤ 32 && 1 ≤ c.vExt && c.vExt ≤ 32
    && c.pkgs.all fun y => y.profile ≤ 2 && y.ports.all fun r => r.role ≤ 4 && r.reach ≤ 2

/-- Whether a package's sett has one profile, and a ring hop between setts at most 4 of its ports (R279). -/
def settOk (c : CPlan) (x : PlanPkg) : Bool :=
  (c.pkgs.all fun y => y.addr / 16 ≠ x.addr / 16 || y.profile = x.profile)
    && [1, 2].all fun role =>
      let ps := x.ports.filter fun r => r.role = role
      ps.length ≤ 4 || ps.all fun r => r.peer / 16 = x.addr / 16

/-- Whether the ring records have 2 to 64 members, and under profile R a member of a ring has ports both ways (R279,
R282). -/
def ringsOk (c : CPlan) (x : PlanPkg) : Bool :=
  (c.rings.all fun r => 2 ≤ r.length && r.length ≤ 64)
    && (x.profile ≠ 0 || (ringFrom c.rings x.addr).isEmpty || [1, 2].all fun role => x.ports.any fun r => r.role = role)

/-- PLAN_ERR of a plan for a package record (R282, R301). -/
def planErr (c : CPlan) (x : PlanPkg) : Nat :=
  let ps := (List.range 32).filterMap fun p => (x.ports[p]?).map fun r => (p, r)
  if !(settOk c x && ps.all fun q => roleOk x q.1 q.2) then 2
  else if !(ps.all fun q => backOk c x q.1 q.2) then 3
  else if !(ringsOk c x && ps.all fun q => ringOk c x q.2) then 4
  else if !((c.pkgs.map fun y => y.addr / 16).eraseDups.all c.boundsOk) then 5
  else 0

/-- One port record enters its registers. -/
def planPortApply (s : State) (c : CPlan) (p : Nat) (r : PlanPort) : State :=
  let v := r.peer % 2 ^ 14 + 2 ^ 16 * (r.port % 32) + 2 ^ 21 * (r.role % 8) + if r.role = 0 then 0 else 2 ^ 31
  let peer := c.pkg r.peer
  onPort (setReg s (portReg Reg.LNK_PLAN_PEER p) (BitVec.ofNat 32 v)) p fun l =>
    { l with asym := r.asym, reach := r.reach, len := r.len
             ident := match peer with | some y => y.ident | none => 0
             peerProfile := match peer with | some y => y.profile | none => 0 }

/-- The Owl reads the plan at boot (R282): it refuses it with a cause, or writes it into the link registers, and the
enabled ports begin to train. A plan whose header or fields R282 does not know is refused as code 1, and the FTC root is
locked from then on (DESIGN CHOICE, log entries 139 and 140). -/
def planApply (s : State) (bs : List Byte) (ident : Nat) : State :=
  let refuse := fun k => setF s Reg.LNK_PROFILE 11 8 k
  match planOfBytes bs with
  | none => refuse 1
  | some c =>
    if !c.fieldsOk then refuse 1
    else match c.own ident with
    | none => refuse 6
    | some x =>
      if planErr c x ≠ 0 then refuse (planErr c x)
      else
        let s := setReg s Reg.LNK_PROFILE (BitVec.ofNat 32 (x.profile + 4))
        let s := setReg s Reg.LNK_ADDR (BitVec.ofNat 32 (x.addr + 2 ^ 16 * ((c.uExt - 1) % 32) + 2 ^ 21 * ((c.vExt - 1) % 32)))
        let s := if x.addr = c.root then setF (setF s Reg.FTC_STATUS 3 3 1) Reg.FTC_STATUS 2 0 2
          else setF s Reg.FTC_STATUS 3 3 0
        let s := { s with plan := some c, rings := c.rings, planDigest := BitVec.ofNat 128 (leNat (shake256 bs 16)) }
        (List.range 32).foldl (fun s p => match x.ports[p]? with
          | none => s
          | some r =>
            let s := planPortApply s c p r
            if r.role ≠ 0 && getF s (portReg Reg.LNK_CTRL p) 0 0 = 1 then
              onPort (setF s (portReg Reg.LNK_STATUS p) 3 0 1) p fun l => { l with since := s.ftc }
            else s) s

/-! ### Peers (R279, R286) -/

/-- The plane address that a port serves: its found peer where that was accepted, else its planned one (R286). -/
def peerOf (s : State) (p : Nat) : Option Nat :=
  if getF s (portReg Reg.LNK_STATUS p) 15 15 = 1 then some (getF s (portReg Reg.LNK_FOUND_PEER p) 13 0)
  else if getF s (portReg Reg.LNK_PLAN_PEER p) 31 31 = 1 then some (getF s (portReg Reg.LNK_PLAN_PEER p) 13 0)
  else none

/-- The number of the far end of a port (R284, R286). -/
def farPort (s : State) (p : Nat) : Nat :=
  if getF s (portReg Reg.LNK_STATUS p) 15 15 = 1 then getF s (portReg Reg.LNK_FOUND_PEER p) 20 16
  else getF s (portReg Reg.LNK_PLAN_PEER p) 20 16

/-- ROLE of a port. -/
def roleOf (s : State) (p : Nat) : Nat := getF s (portReg Reg.LNK_PLAN_PEER p) 23 21

/-- Profile of the package: 0 R, 1 M, 2 G (R279). -/
def profileOf (s : State) : Nat := getF s Reg.LNK_PROFILE 1 0

/-- Whether the peer that a port serves may be the FTC parent (R286, R296). -/
def mayParent (s : State) (p : Nat) : Bool :=
  match s.plan, peerOf s p with
  | some c, some a =>
    let me := getF s Reg.LNK_ADDR 13 0
    match c.pkg me with
    | none => false
    | some x =>
      if me = c.root then false
      else if x.leader then
        roleOf s p = 4 && match c.hops (c.root / 16) (a / 16), c.hops (c.root / 16) (me / 16) with
          | some m, some n => decide (m < n)
          | _, _ => false
      else roleOf s p ≠ 0 && a / 16 = me / 16 && match c.pkg a with | some y => y.leader | none => false
  | _, _ => false

end Sys2Proof.Machine
end

