-- ==== Sys2Proof/Machine/Dir.lean ====
section
/-!
DEFINITION. The weight block directory (R193, R194, R206): entries, sets, and the digest of a set.
-/
namespace Sys2Proof.Machine

/-- A directory entry (R193). -/
structure DirEntry where
  addr : Nat
  comp : Nat
  home : Nat
  flags : Nat
  pos : Nat
  slab : Nat
  epoch : Nat
  chk : Nat
deriving DecidableEq, Repr

/-- VALID of an entry. -/
def DirEntry.valid (e : DirEntry) : Bool := bitOf e.flags 0
/-- DIR: counter-clockwise. -/
def DirEntry.ccw (e : DirEntry) : Bool := bitOf e.flags 1
/-- HEADLESS. -/
def DirEntry.headless (e : DirEntry) : Bool := bitOf e.flags 2
/-- VERIFIED. -/
def DirEntry.verified (e : DirEntry) : Bool := bitOf e.flags 3
/-- Member of set A (0) or B (1). -/
def DirEntry.inSet (e : DirEntry) (set : Nat) : Bool := e.valid && bitOf e.flags (4 + set)

/-- The 32 bytes of an entry. -/
def entryBytes (s : State) (x : Nat) : List Byte :=
  ((List.range 8).map fun w => natLE 4 (look 0 s.dir (8 * x + w)).toNat).flatten

/-- An entry from its bytes. -/
def entryOfBytes (bs : List Byte) : DirEntry :=
  { addr := field bs 0 8, comp := field bs 8 4, home := field bs 0x0C 1, flags := field bs 0x0D 1,
    pos := field bs 0x10 4, slab := field bs 0x14 4, epoch := field bs 0x18 4, chk := field bs 0x1C 4 }

/-- Entry `x` of the directory. -/
def dirEntry (s : State) (x : Nat) : DirEntry := entryOfBytes (entryBytes s x)

/-- ENTRY_CHK over the first 28 bytes of an entry. -/
def entryChk (bs : List Byte) : Nat := crc32c (bs.take 0x1C)

/-- Store the 32 bytes of an entry. -/
def storeEntry (s : State) (x : Nat) (bs : List Byte) : State :=
  { s with dir := (List.range 8).foldl (fun m w => put 0 m (8 * x + w) (BitVec.ofNat 32 (field bs (4 * w) 4))) s.dir }

/-- Change the FLAGS of an entry; ENTRY_CHK follows. -/
def setEntryFlags (s : State) (x flags : Nat) : State :=
  let bs := entryBytes s x
  let body := bs.take 0x0D ++ natLE 1 flags ++ (bs.drop 0x0E).take 0x0E
  storeEntry s x (body ++ natLE 4 (crc32c body))

/-- Numbers of the entries that hold anything, ascending. -/
def dirIndices (s : State) : List Nat := (s.dir.map fun p => p.1 / 8).eraseDups

/-- Entries of a set, in index order. -/
def setEntries (s : State) (set : Nat) : List Nat := (dirIndices s).filter fun x => (dirEntry s x).inSet set

/-- The entry of a set at a LAP_POS. -/
def entryAt (s : State) (set pos : Nat) : Option Nat := (setEntries s set).find? fun x => (dirEntry s x).pos = pos

/-- The set that is active (R206). -/
def activeSet (s : State) : Nat := getF s Reg.RIB_SETS 0 0

/-- The first 128 bits of the digest of a set (R194). -/
def setDigest (s : State) (set : Nat) : BitVec 128 :=
  BitVec.ofNat 128 (leNat (shake256 (((setEntries s set).map (entryBytes s)).flatten) 16))

/-- Epoch of a set: the latest of its entries. -/
def setEpoch (s : State) (set : Nat) : Nat := (setEntries s set).foldl (fun m x => Nat.max m (dirEntry s x).epoch) 0

/-- Whether every LAP_POS of the layout has exactly one entry in a set (R207). -/
def setComplete (s : State) (set : Nat) : Bool :=
  let ps := (setEntries s set).map fun x => (dirEntry s x).pos
  let b := getF s Reg.RIB_LAYOUT_BLOCKS 19 0
  ps.length = b && ps.all (fun p => p < b) && ps.eraseDups.length = b

/-- Entries clear VERIFIED where their block lies in a region (R391). -/
def clearVerified (s : State) (r : Nat) : State :=
  ((dirIndices s).filter fun x =>
    let e := dirEntry s x
    e.valid && e.verified && regionAt s (e.addr / 4096) = some r).foldl
      (fun s x => setEntryFlags s x ((dirEntry s x).flags - 8)) s

/-- The locks of an entry are released (R391). -/
def unlockEntry (s : State) (x : Nat) : State := { s with locks := s.locks.filter fun p => p.1 ≠ .entry x }

/-- Keys of the granules that `n` bytes at a DPA touch. -/
def granulesOf : Nat → State → Nat → Nat → List Nat
  | 0, _, _, _ => []
  | fuel + 1, s, a, n =>
    if n = 0 then []
    else
      let k := Nat.min n (4096 - a % 4096)
      let rest := granulesOf fuel s (a + k) (n - k)
      match locate s a with
      | some l => granKey l.ch l.gran :: rest
      | none => rest

/-- Lock the granules of a range for an owner (R391). -/
def lockRange (s : State) (o : LockOwner) (a n : Nat) : State :=
  { s with locks := s.locks ++ (granulesOf (n / 4096 + 2) s a n).map fun k => (o, k) }

/-! ### The exchange of the sets (R206, R211, R218) -/

/-- The sets exchange roles (R211): the entries of the old set alone lose VALID, and with it their locks (R391). -/
def exchange (s : State) : State :=
  let old := activeSet s
  let s := ((setEntries s old).filter fun x => !(dirEntry s x).inSet (1 - old)).foldl
    (fun s x => unlockEntry (setEntryFlags s x ((dirEntry s x).flags - 1)) x) s
  let s := setF (setF s Reg.RIB_SETS 0 0 (1 - old)) Reg.RIB_SWITCH 4 2 3
  onRib { s with notices := s.notices.filter fun p => (dirEntry s p.1).valid } fun r =>
    { r with digs := r.digs.filter fun d => d.1 ≠ old, queue := r.queue.map fun e => (e.1, false) }

/-- The set whose blocks the transfers of a nib take in resident mode (R218): during a switch the new one, once the nib
has waited on the admission tally. -/
def nibSet (s : State) (n : Nat) : Nat :=
  if s.rib.awaiting.isEmpty || s.rib.awaiting.contains n then activeSet s else 1 - activeSet s

/-- Nibs of a resident context stand on the new set; with the last one the sets exchange roles (R218, log 62). -/
def onNewSet (s : State) (ns : List Nat) : State :=
  let rest := s.rib.awaiting.filter fun m => !ns.contains m
  if s.rib.awaiting.isEmpty then s
  else
    let s := onRib s fun r => { r with awaiting := rest }
    if rest.isEmpty then exchange s else s

end Sys2Proof.Machine
end

