-- ==== Sys2Proof/Machine/SealOps.lean ====
section
/-!
DEFINITION. Layer seals (R343 to R345): bytes that a nib absorbs by vdga or a stage's SEAL option, tile digests, and
the step from layer to layer; and the detectors of R157 at a nib.
-/
namespace Sys2Proof.Machine

/-- FIRST_TILE and COUNT of a nib index in a layer of a plan (R343). -/
def planEntry (p : SealPlan) (layer i : Nat) : Nat × Nat := p.table.getD (layer * p.nibs + i) (0, 0)

/-- Digest of a tile (R344). -/
def tileDigest (layerId t : Nat) (bs : List Byte) : List Byte :=
  digest "VX1-LSEAL" (natLE 2 layerId ++ natLE 4 t ++ bs)

/-- The nib's current layer has all its tiles, also where it has none: the next one follows, and after the last one
layer 0 of the next pass (R344). `fuel` bounds the layers passed over. -/
def nextLayer : Nat → SealPlan → Nat → SealTile → SealTile
  | 0, _, _, x => x
  | fuel + 1, p, i, x =>
    let (_, count) := planEntry p x.layer i
    if x.tile < count then x
    else
      let d : SealDone := ⟨x.pass, x.layer, x.sum, x.tile, x.poison⟩
      let last := x.layer + 1 ≥ p.layers.length
      nextLayer fuel p i
        { x with tile := 0, sum := 0, poison := false, done := x.done ++ [d], layer := if last then 0 else x.layer + 1,
                 pass := if last then x.pass + 1 else x.pass }

/-- Whether a nib index absorbs tiles at all. -/
def absorbs (p : SealPlan) (i : Nat) : Bool := (List.range p.layers.length).any fun l => (planEntry p l i).2 > 0

/-- A full tile of 1,024 bytes: its digest joins the layer sum, and the tile log where the layer keeps one. -/
def finishTile (s : State) (n c : Nat) (p : SealPlan) (i : Nat) : State :=
  let x := (nibOf s n).sealT
  match p.layers[x.layer]? with
  | none => s
  | some l =>
    let (first, _) := planEntry p x.layer i
    let t := first + x.tile * l.stride + packageIndex s c * l.pkgStride
    let d := tileDigest l.id t (x.bytes.take 1024)
    let s := if l.tileLog then writeDpa s (l.tlog + 32 * t) d [false] false else s
    let x := { x with bytes := x.bytes.drop 1024, tile := x.tile + 1, sum := (x.sum + leNat d) % 2 ^ 256 }
    onNib s n fun b => { b with sealT := nextLayer (p.layers.length + 1) p i x }

/-- Bytes enter the nib's seal tile (R344); without a seal plan they enter none. -/
def absorb (s : State) (n : Nat) (bs : List Byte) (poison : Bool) : State :=
  match ctxOfNib s n with
  | none => s
  | some c =>
    match (ctxOf s c).plan, indexOfNib s c n with
    | some p, some i =>
      if !absorbs p i then s
      else
        let s := onNib s n fun b =>
          let x := nextLayer (p.layers.length + 1) p i b.sealT
          { b with sealT := { x with bytes := x.bytes ++ bs, poison := x.poison || poison } }
        if (nibOf s n).sealT.bytes.length ≥ 1024 then finishTile s n c p i else s
    | _, _ => s

/-! ### Detectors (R157) -/

/-- A detector of nib `n` poisons `k` words: NIB_POISON_DET and a poisoned-class error for each. -/
def detect (s : State) (n src k : Nat) : State :=
  if k = 0 then s
  else
    let s := onNib s n fun b =>
      setNibF (setNibF (bumpNibF b Reg.NIB_POISON_DET 15 0 k) Reg.NIB_POISON_DET 16 16 1) Reg.NIB_POISON_DET 19 17 src
    (List.range k).foldl (fun s _ => raise s 1 0x10 1 (ctxOfNib s n) n src) s

/-- What the ECC of the well finds in a cycle: words that cannot be corrected are poisoned, corrected ones counted. -/
def wellFaults (s : State) (n : Nat) (bad : List Nat) (corr : Nat) : State :=
  let s := onNib s n fun b =>
    let b := bad.foldl (fun b w => { b with wellPoison := put false b.wellPoison w true }) b
    let b := if bad.isEmpty then b else setNibF b Reg.NIB_WELL_ECC 16 16 1
    bumpNibF b Reg.NIB_WELL_ECC 15 0 corr
  let s := if corr = 0 then s else corrected s 0x01 1 n corr
  detect s n 0 bad.length

/-- What banks and ECC bring to one well beside a command: lost accesses are counted (R134), bad words poisoned, corrected
errors counted (R157). -/
def wellEvent (s : State) (e : WellEv) : State :=
  if !populated s e.nib then s
  else
    let s := if e.lost = 0 then s else onNib s e.nib fun b => bumpNib64 b Reg.NIB_WELL_CONFLICT e.lost
    if e.bad.isEmpty && e.corr = 0 then s else wellFaults s e.nib e.bad e.corr

/-- What banks and ECC bring to several wells. -/
def wellEvents (s : State) (es : List WellEv) : State := es.foldl wellEvent s

/-- The landing area's ECC finds words bad (R157). -/
def landDetect (s : State) (d n : Nat) (bad : List Nat) : State :=
  if bad.isEmpty then s
  else
    let off := Reg.NIB_DIE_POISON + 0x800000 * d
    let s := setBit (bumpF s off 15 0 bad.length) off 16
    bad.foldl (fun s _ => raise s 1 0x10 1 (ctxOfNib s n) n 3) s

/-- Words `bad` of the landing area that the read of a cycle by nib `n` finds uncorrectable are poisoned (R157). -/
def landFaults (s : State) (n : Nat) (bad : List Nat) : State :=
  let d := dieOf n
  landDetect { s with landPoison := bad.foldl (fun m w => put false m (landKey d (64 * w) / 64) true) s.landPoison } d n bad

end Sys2Proof.Machine
end

