-- ==== Sys2Proof/Machine/Quill.lean ====
section
/-!
DEFINITION. Quill blocks (R160 to R169): header, sizes, layout of the U and V areas and of residuals, and the weight
group that the expander computes from them (R171).
-/
namespace Sys2Proof.Machine

/-- A block header in 64 bytes (R160). -/
def hdrOf (bs : List Byte) : BlockHdr :=
  { magic := field bs 0 4, version := field bs 4 1, kind := field bs 5 1, outFmt := field bs 6 1,
    factFmt := field bs 7 1, resFmt := field bs 8 1, resLayout := field bs 9 1, bands := field bs 0x0A 1,
    rank := field bs 0x0C 2, rows := field bs 0x10 4, cols := field bs 0x14 4, expSize := field bs 0x18 4,
    compSize := field bs 0x1C 4, commonSize := field bs 0x20 4, pieceSize := field bs 0x24 4, crc := field bs 0x28 8,
    dirIndex := field bs 0x30 4, epoch := field bs 0x34 4 }

/-- Reduction depth K of a weight format (R21). -/
def kOf (fmt : Nat) : Nat := 16 * macs fmt

/-- Bytes of a weight group (R163). -/
def wgBytes (fmt : Nat) : Nat := if isMX fmt then 544 else 512

/-- The least multiple of `m` at or above `x`. -/
def upTo (m x : Nat) : Nat := (x + m - 1) / m * m

/-- Bytes of the element array of a factor area of `n` rows and rank `r` (R166). -/
def factElems (fmt n r : Nat) : Nat := n * r * (elemBits fmt / 8)

/-- Scale bytes per row of a factor area. -/
def factScales (fmt r : Nat) : Nat := if isMX fmt then (r + 31) / 32 else 0

/-- Bytes of a factor area of `n` rows, padded to 64 (R166). -/
def factArea (fmt n r : Nat) : Nat := upTo 64 (factElems fmt n r + n * factScales fmt r)

/-- Columns of a band (R164). -/
def BlockHdr.d (h : BlockHdr) : Nat := if h.bands = 0 then 0 else h.cols / h.bands

/-- Validity of a header (R161). -/
def hdrOk (h : BlockHdr) : Bool :=
  let k := kOf h.outFmt
  h.magic = 0x4C4C5551 && h.version = 1 && h.kind ≤ 2 && isOperand h.outFmt
  && (h.bands = 1 || h.bands = 56 || h.bands = 64)
  && h.rows % 64 = 0 && 64 ≤ h.rows && h.rows ≤ 65536
  && h.cols % (16 * h.bands) = 0 && h.cols ≤ 65536 && h.cols ≠ 0
  && h.expSize = h.rows / k * (h.cols / 16) * wgBytes h.outFmt && h.expSize ≤ 2097152
  && h.dirIndex ≤ 524287
  && (if h.kind = 0 then
        h.rank = 0 && h.factFmt = 0 && h.resFmt = 0 && h.resLayout = 0 && h.commonSize = 0
        && h.compSize = h.expSize && h.pieceSize = h.expSize / h.bands
      else
        1 ≤ h.rank && h.rank ≤ 256 && (h.factFmt = 6 || h.factFmt = 7 || h.factFmt = 10)
        && h.commonSize = factArea h.factFmt h.rows h.rank
        && h.pieceSize % 64 = 0 && h.pieceSize ≠ 0
        && h.compSize = h.commonSize + h.bands * h.pieceSize && h.compSize ≤ h.expSize
        && (if h.kind = 1 then h.resFmt = 0 && h.resLayout = 0
            else h.resFmt ≤ 3 && h.resLayout ≤ 1 && !(isMX h.resFmt && macs h.outFmt = 1)
              && !(h.resLayout = 1 && h.d > 1024)))

/-- Weight groups of a piece (R164, R176). -/
def pieceGroups (h : BlockHdr) : Nat := h.d / 16 * (h.rows / kOf h.outFmt)

/-- Bytes of the residual group of one weight group (R168). -/
def resGroupBytes (h : BlockHdr) : Nat :=
  let k := kOf h.outFmt
  k / 2 * 16 + (if isMX h.resFmt then k / 32 * 16 else 0)

/-- Element `i` of row `t` of a factor area of `n` rows (R166); bytes that are missing read zero. -/
def factAt (fmt n r : Nat) (a : List Byte) (t i : Nat) : Val :=
  let w := elemBits fmt / 8
  let code := field a ((t * r + i) * w) w
  if isMX fmt then
    scaleBy (field a (factElems fmt n r + t * factScales fmt r + i / 32) 1) (decodeElem fmt code)
  else decodeElem fmt code

/-- Rows `t` of a factor area as a list of its `r` values. -/
def factRow (fmt n r : Nat) (a : List Byte) (t : Nat) : List Val := (List.range r).map (factAt fmt n r a t)

/-- The residual at row `k` of the group, column `c`, from a dense residual group (R168). -/
def denseRes (h : BlockHdr) (g : List Byte) (k c : Nat) : Val :=
  let kk := kOf h.outFmt
  let code := field g (kk / 2 * c + k / 2) 1 / (if k % 2 = 0 then 1 else 16) % 16
  if isMX h.resFmt then scaleBy (field g (kk / 2 * 16 + kk / 32 * c + k / 32) 1) (decodeElem h.resFmt code)
  else decodeElem h.resFmt code

/-- A sparse residual entry (R168): row, column in the band, value. -/
def sparseEntry (h : BlockHdr) (resScale w : Nat) : Nat × Nat × Val :=
  let v := decodeElem h.resFmt (bits w 29 26)
  (bits w 15 0, bits w 25 16, if isMX h.resFmt then scaleBy resScale v else v)

/-- The value of position (k, n) of a block (R171): the exact sum of the products and of the residual terms. -/
def expandAt (u v : List Val) (es : List Val) : Val := groupValue (List.zipWith Val.mul u v ++ es)

/-- One element of a column converted to a non-MX OUT_FMT (R171). -/
def expandCode (fmt : Nat) (v : Val) : Nat × Nat := convert fmt true (f32 (toF32 v))

/-- A column of a weight group: packed bytes as a number, its scales, flags (R163, R171). -/
def expandColumn (fmt : Nat) (vs : List Val) : Nat × List Nat × Nat :=
  let w := elemBits fmt
  if isMX fmt then
    let bs := (chunks 32 4 vs).map fun b => mxBlock fmt (b.map fun v => f32 (toF32 v))
    (packNat w (bs.map (·.2.1)).flatten, bs.map (·.1), bs.foldl (fun a b => a ||| b.2.2) 0)
  else
    let cs := vs.map (expandCode fmt)
    (packNat w (cs.map (·.1)), [], cs.foldl (fun a c => a ||| c.2) 0)

/-- A whole weight group from its sixteen columns of values (R163), and its flags. -/
def expandGroup (fmt : Nat) (cols : List (List Val)) : List Byte × Nat :=
  let cs := cols.map (expandColumn fmt)
  let kb := kOf fmt / 32
  let scales := (cs.map fun c => (c.2.1 ++ List.replicate kb 0).take kb).flatten
  let tail := if isMX fmt then ((scales ++ List.replicate 32 0).take 32).map (BitVec.ofNat 8) else []
  ((cs.map fun c => natLE 32 c.1).flatten ++ tail, cs.foldl (fun a c => a ||| c.2.2) 0)

end Sys2Proof.Machine
end

