-- ==== Sys2Proof/Machine/Trans.lean ====
section
/-!
DEFINITION. The FP32 functions of the brush unit (R451): exp2, log2, exp, log, reciprocal, reciprocal square root.

Reciprocal and reciprocal square root are exact up to a sticky bit. The four transcendental functions are computed
in fixed point with 320 fraction bits and a sticky bit, then rounded once (log entry 7).
-/
namespace Sys2Proof.Machine

/-- Fraction bits of the fixed-point numbers. -/
def fracBits : Nat := 320
/-- One. -/
def fxOne : Nat := 2 ^ 320
/-- `⌊2^320 · ln 2⌋`. -/
def fxLn2 : Nat :=
  1480553391661173448385607439722553250922680800745876974795605978609098082859138712941075737848984

/-- Taylor sum of `e^r`: `fuel` more terms from term `t` of index `k`. -/
def expTerms : Nat → Nat → Nat → Nat → Nat
  | 0, _, _, _ => 0
  | fuel + 1, r, k, t => t + expTerms fuel r (k + 1) (t * r / fxOne / (k + 1))

/-- `e^r` for a fixed-point `0 ≤ r < 1`. -/
def fxExp (r : Nat) : Nat := expTerms 80 r 0 fxOne

/-- Odd terms of the area-tangent series: `t / k` for `k = 1, 3, 5, …`, `t` falling by `z²`. -/
def atanhTerms : Nat → Nat → Nat → Nat → Nat
  | 0, _, _, _ => 0
  | fuel + 1, z2, k, t => t / k + atanhTerms fuel z2 (k + 2) (t * z2 / fxOne)

/-- `ln (1 + d)` for a fixed-point `0 ≤ d < 1`, as twice the area tangent of `d / (2 + d)`. -/
def fxLn1p (d : Nat) : Nat :=
  let z := d * fxOne / (2 * fxOne + d)
  2 * atanhTerms 110 (z * z / fxOne) 1 z

/-- An inexact positive fixed-point result times `2 ^ n`, with a sticky bit below its last bit. -/
def sticky (neg : Bool) (m : Nat) (n : Int) : Val := .fin neg (2 * m + 1) (n - fracBits - 1)

/-- `2 ^ x` with the special cases of R451. -/
def exp2V : Val → Val
  | .nan => .nan
  | .inf neg => if neg then .fin false 0 0 else .inf false
  | .fin neg m e =>
    if m = 0 then .fin false 1 0
    else if 10 ≤ (Nat.log2 m : Int) + e then
      if neg then .fin false 1 (-2000) else .fin false 1 2000
    else
      -- ⌊x · 2^fracBits⌋ ; x is a multiple of 2^-149 or coarser, so this is exact
      let x : Int := truncTo (Val.fin neg m e).dy (-(fracBits : Int))
      let n : Int := x / (fxOne : Int)
      let f : Nat := (x % (fxOne : Int)).toNat
      if f = 0 then .fin false 1 n
      else sticky false (fxExp (f * fxLn2 / fxOne)) n

/-- `e ^ x` with the special cases of R451. -/
def expV : Val → Val
  | .nan => .nan
  | .inf neg => if neg then .fin false 0 0 else .inf false
  | .fin neg m e =>
    if m = 0 then .fin false 1 0
    else if 10 ≤ (Nat.log2 m : Int) + e then
      if neg then .fin false 1 (-2000) else .fin false 1 2000
    else
      let x : Int := truncTo (Val.fin neg m e).dy (-(fracBits : Int))
      let n : Int := x / (fxLn2 : Int)
      let f : Nat := (x % (fxLn2 : Int)).toNat
      sticky false (fxExp f) n

/-- `ln` of a positive finite value as a signed fixed-point number: `k · ln 2 + ln (1 + d)`. -/
def lnFix (m : Nat) (e : Int) : Int :=
  let l := Nat.log2 m
  let k : Int := (l : Int) + e
  let d := m * fxOne / 2 ^ l - fxOne
  k * (fxLn2 : Int) + (fxLn1p d : Int)

/-- Natural logarithm with the special cases of R451. -/
def logV : Val → Val
  | .nan => .nan
  | .inf neg => if neg then .nan else .inf false
  | .fin neg m e =>
    if m = 0 then .inf true
    else if neg then .nan
    else if m = 2 ^ Nat.log2 m ∧ (Nat.log2 m : Int) + e = 0 then .fin false 0 0
    else
      let y := lnFix m e
      sticky (decide (y < 0)) y.natAbs 0

/-- Base-2 logarithm with the special cases of R451. -/
def log2V : Val → Val
  | .nan => .nan
  | .inf neg => if neg then .nan else .inf false
  | .fin neg m e =>
    if m = 0 then .inf true
    else if neg then .nan
    else if m = 2 ^ Nat.log2 m then
      let k : Int := (Nat.log2 m : Int) + e
      .fin (decide (k < 0)) k.natAbs 0
    else
      let y := lnFix m e * (fxOne : Int) / (fxLn2 : Int)
      sticky (decide (y < 0)) y.natAbs 0

/-- Reciprocal (R451): the quotient to 64 bits and a sticky bit for the rest. -/
def rcpV : Val → Val
  | .nan => .nan
  | .inf neg => .fin neg 0 0
  | .fin neg m e =>
    if m = 0 then .inf neg
    else
      let s := Nat.log2 m + 64
      let q := 2 ^ s / m
      let rest := if 2 ^ s % m = 0 then 0 else 1
      .fin neg (2 * q + rest) (-e - s - 1)

/-- Reciprocal square root (R451): the root to 64 bits and a sticky bit for the rest. -/
def rsqrtV : Val → Val
  | .nan => .nan
  | .inf neg => if neg then .nan else .fin false 0 0
  | .fin neg m e =>
    if m = 0 then .inf neg
    else if neg then .nan
    else
      -- make the exponent even, then 1/√(m·2^e) = 2^(−e/2) · √(2^s / m) · 2^(−s/2)
      let (m, e) := if e % 2 = 0 then (m, e) else (2 * m, e - 1)
      let s := 2 * (Nat.log2 m + 40)
      let n := 2 ^ s / m
      let r := isqrtBits (s / 2 + 1) n 0
      let rest := if r * r * m = 2 ^ s then 0 else 1
      .fin false (2 * r + rest) (-(e / 2) - (s / 2 : Nat) - 1)

end Sys2Proof.Machine
end

