-- ==== Sys2Proof/Machine/Vector.lean ====
section
/-!
DEFINITION. What each vector operation computes (R90 to R96, R451): results, flags and poison, from the registers as
they stand at issue. The commands of the vector slot themselves stand in Bundle.lean.
-/
namespace Sys2Proof.Machine

/-! ### Lanes and packed elements (R95) -/

/-- Masked lanes of a register whose `w`-bit elements `codes` are written where `sel` holds; the bytes past the last
element are written zero. -/
def packedLanes (w : Nat) (sel : List Bool) (codes : List Nat) : List (Nat × W32 × W32) :=
  let n := codes.length
  let mask := packNat w (sel.map fun b => if b then 2 ^ w - 1 else 0) + (2 ^ 2048 - 2 ^ (w * n))
  let val := packNat w codes
  (List.range 64).filterMap fun l =>
    let m : W32 := BitVec.ofNat 32 (mask / 2 ^ (32 * l))
    if m = 0 then none else some (l, m, BitVec.ofNat 32 (val / 2 ^ (32 * l)))

/-- Poison of the written quarters: quarter of element `i` in the result takes that of element `i` in any source;
`srcs` gives each source's element width and quarter poisons. -/
def packedPois (w : Nat) (sel : List Bool) (srcs : List (Nat × List Bool)) : List (Nat × Bool × Bool) :=
  let n := sel.length
  (List.range 4).map fun q =>
    let inQ := fun i => i * w / 8 / 64 = q
    let p := (List.range n).any fun i =>
      sel.getD i false && inQ i && srcs.any fun s => s.2.getD (i * s.1 / 8 / 64) false
    let whole := (List.range n).all fun i => !inQ i || sel.getD i false
    (q, p, whole)

/-- Element codes of a register as `w`-bit elements. -/
def elems (b : Nib) (v w : Nat) : List Nat := unpackNat w 64 (leNat (vbytes b v))

/-- Width in bits of an element of FMT in a vector register; 32 where FMT names none. -/
def vecWidth (fmt : Nat) : Nat := if fmt = 0 then 32 else elemBits fmt

/-- Second operand of a lane-wise operation: VB, or SB broadcast (R89). -/
def vecB (b : Nib) (f : VecF) (w : Nat) : List Nat :=
  if f.sbEn then List.replicate 64 ((sreg b f.sb.toNat).toNat % 2 ^ w) else elems b f.vb.toNat w

/-- Poison sources of the first and second operand. -/
def srcPois (b : Nib) (f : VecF) (w : Nat) : List (Nat × List Bool) :=
  (w, vpois b f.va.toNat) :: (if f.sbEn then [] else [(w, vpois b f.vb.toNat)])

/-! ### Reductions (R48, R91) -/

/-- One level of the pairwise tree, each sum rounded to FP32. -/
def pairSums : List Val → List Val
  | a :: c :: rest => f32 (toF32 (a.add c)) :: pairSums rest
  | l => l

/-- The fixed pairwise tree over 64 lanes (R48). -/
def treeSum (vs : List Val) : Val :=
  (pairSums (pairSums (pairSums (pairSums (pairSums (pairSums vs)))))).headD (.fin false 0 0)

/-- Exact maximum of lanes (R91). -/
def maxOf : List Val → Val
  | [] => .nan
  | v :: vs => vs.foldl maxV v

/-- Best remaining candidate: the first with no higher score (R48); the index and value. -/
def bestOf : List (Nat × Val) → Option (Nat × Val)
  | [] => none
  | c :: cs =>
    match bestOf cs with
    | none => if c.2.isNan then none else some c
    | some d => if c.2.isNan then some d else if c.2.lt d.2 then some d else some c

/-- The `k` best candidates in order (R48, R93). -/
def topOf : Nat → List (Nat × Val) → List (Nat × Val)
  | 0, _ => []
  | k + 1, cs =>
    match bestOf cs with
    | none => []
    | some c => c :: topOf k (cs.filter fun d => d.1 ≠ c.1)

/-! ### Lane-wise functions -/

/-- A float result of a lane-wise operation rounded to FP32 or BF16. -/
def roundTo (w : Nat) (v : Val) : Nat := if w = 16 then toBF16 v else (toF32 v).toNat

/-- Value of an element of FMT FP32 or BF16. -/
def laneVal (w : Nat) (c : Nat) : Val := if w = 16 then decodeFlt fBF16 c else decodeFlt fFP32 c

/-- The result code and flags of a lane of opcodes 0x01 to 0x25 but vcmp and vsel (R90, R451). -/
def laneFn (op fmt : Nat) (a b c : Nat) : Nat × Nat :=
  let w := vecWidth fmt
  let x := laneVal w a
  let y := laneVal w b
  let z := laneVal w c
  let ia := signed 32 a
  let ib := signed 32 b
  match op with
  | 0x01 => (roundTo w (x.add y), 0)
  | 0x02 => (roundTo w (x.sub y), 0)
  | 0x03 => (roundTo w (x.mul y), 0)
  | 0x04 => (roundTo w ((x.mul y).add z), 0)
  | 0x08 => if fmt = 13 then (if ia < ib then a else b, 0) else (roundTo w (minV x y), 0)
  | 0x09 => if fmt = 13 then (if ia < ib then b else a, 0) else (roundTo w (maxV x y), 0)
  | 0x10 => (wrapNat 32 (ia + ib), if wraps (ia + ib) then 1 else 0)
  | 0x11 => (wrapNat 32 (ia - ib), if wraps (ia - ib) then 1 else 0)
  | 0x12 => (a &&& b, 0)
  | 0x13 => (a ||| b, 0)
  | 0x14 => (a ^^^ b, 0)
  | 0x15 => ((a * 2 ^ (b % 32)) % 2 ^ 32, 0)
  | 0x16 => (a / 2 ^ (b % 32), 0)
  | 0x17 => (wrapNat 32 (ia / 2 ^ (b % 32)), 0)
  | 0x20 => ((toF32 (exp2V x)).toNat, 0)
  | 0x21 => ((toF32 (log2V x)).toNat, 0)
  | 0x22 => ((toF32 (expV x)).toNat, 0)
  | 0x23 => ((toF32 (logV x)).toNat, 0)
  | 0x24 => ((toF32 (rcpV x)).toNat, 0)
  | _ => ((toF32 (rsqrtV x)).toNat, 0)

/-- The three operands of lane `i`. -/
def lane3 (xs ys zs : List Nat) (i : Nat) : Nat × Nat × Nat := (xs.getD i 0, ys.getD i 0, zs.getD i 0)

/-- The writes of a vector instruction, each with its latency, and the flags it sets (R90). -/
structure VecRes where
  wrs : List Wr
  flags : Nat

/-- Results of a lane-wise operation over 64 elements (R90, R95). -/
def laneWise (b : Nib) (op : Nat) (f : VecF) (sel : List Bool) : VecRes :=
  let fmt := f.fmt.toNat
  let w := vecWidth fmt
  let xs := elems b f.va.toNat w
  let ys := vecB b f w
  let zs := elems b f.vc.toNat w
  let rs := (List.range 64).map fun i =>
    let (x, y, z) := lane3 xs ys zs i
    if sel.getD i false then laneFn op fmt x y z else (0, 0)
  let unary := op ≥ 0x20
  let srcs := (if unary then [(w, vpois b f.va.toNat)] else srcPois b f w)
    ++ (if op = 4 then [(w, vpois b f.vc.toNat)] else [])
  { wrs := [.v f.vd.toNat (packedLanes w sel (rs.map (·.1))) (packedPois w sel srcs)],
    flags := rs.foldl (fun a r => a ||| r.2) 0 }

/-- vcmp (R90). -/
def cmpRes (b : Nib) (f : VecF) (sel : List Bool) : VecRes :=
  let fmt := f.fmt.toNat
  let w := vecWidth fmt
  let xs := elems b f.va.toNat w
  let ys := vecB b f w
  let bit := fun i =>
    let (x, y, _) := lane3 xs ys [] i
    let v := if fmt = 13 then vcmpFn f.fmt2.toNat (ofInt (signed 32 x) 0) (ofInt (signed 32 y) 0)
      else vcmpFn f.fmt2.toNat (laneVal w x) (laneVal w y)
    if v then 1 else 0
  { wrs := [.p f.pd.toNat (BitVec.ofNat 64 (packNat 1 (sel.map fun s => if s then 1 else 0)))
      (BitVec.ofNat 64 (packNat 1 ((List.range 64).map bit)))],
    flags := 0 }

/-- vsel (R90): by lane, or by packed element for BF16. Whether a selection or a copy makes a NaN canonical is left open
beside R54; vsel and vmov copy the bits of the element as they are (DESIGN CHOICE, log 126). -/
def selRes (b : Nib) (f : VecF) (sel : List Bool) : VecRes :=
  let w := vecWidth f.fmt.toNat
  let xs := elems b f.va.toNat w
  let ys := vecB b f w
  let p := preg b f.pd.toNat
  let code := fun i => if p.getLsbD i then xs.getD i 0 else ys.getD i 0
  { wrs := [.v f.vd.toNat (packedLanes w sel ((List.range 64).map code)) (packedPois w sel (srcPois b f w))],
    flags := 0 }

/-- Lanes of a result that fills the whole register; `p` is the poison of the first quarter. -/
def wholeRes (v : Nat) (codes : List Nat) (p : Bool) : Wr :=
  .v v (packedLanes 32 (List.replicate 64 true) codes) ((List.range 4).map fun q => (q, p && q = 0, true))

/-- A list padded with zeros to 64 lanes. -/
def padLanes (l : List Nat) : List Nat := l ++ List.replicate (64 - l.length) 0

/-- Whether any quarter of a register is poisoned. -/
def anyPois (b : Nib) (v : Nat) : Bool := (vpois b v).any id

/-- vsmx, vrsum, vrmax (R91). -/
def reduceRes (b : Nib) (op : Nat) (f : VecF) : VecRes :=
  let w := vecWidth f.fmt.toNat
  let vs := (elems b f.va.toNat w).map (laneVal w)
  let p := anyPois b f.va.toNat
  let out := match op with
    | 0x28 =>
      let m := maxOf vs
      let es := vs.map fun v => f32 (toF32 (expV (f32 (toF32 (v.sub m)))))
      [(toF32 m).toNat, (toF32 (treeSum es)).toNat]
    | 0x29 => [(toF32 (treeSum vs)).toNat]
    | _ => [roundTo w (maxOf vs)]
  { wrs := [wholeRes f.vd.toNat (padLanes out) p], flags := 0 }

/-- vtopk (R93). -/
def topkRes (b : Nib) (f : VecF) : VecRes :=
  let w := vecWidth f.fmt.toNat
  let n := f.passes.toNat + 1
  let codes := ((List.range n).map fun p => elems b (f.va.toNat + p) w).flatten
  let cands := (List.range codes.length).map fun i => (i, laneVal w (codes.getD i 0))
  let k := f.k.toNat + 1
  let top := topOf k cands
  let nan := if w = 16 then nanCode fBF16 else nanCode fFP32
  let score := fun i => match top[i]? with
    | some c => codes.getD c.1 0
    | none => nan
  let index := fun i => match top[i]? with
    | some c => c.1
    | none => 2 ^ 32 - 1
  let lane := fun l => if l < k then score l else if 8 ≤ l ∧ l < 8 + k then index (l - 8) else 0
  let p := (List.range n).any fun i => anyPois b (f.va.toNat + i)
  { wrs := [wholeRes f.vd.toNat ((List.range 64).map lane) p], flags := 0 }

/-- vcvt (R94). -/
def cvtRes (b : Nib) (f : VecF) (sel : List Bool) : VecRes :=
  let src := f.fmt.toNat
  let dst := f.fmt2.toNat
  let ws := elemBits src
  let wd := elemBits dst
  let sb := sreg b f.sb.toNat
  let codes := elems b f.va.toNat ws
  let scale := fun i => if isMX src then (if i < 32 then fld sb 7 0 else fld sb 15 8) else 127
  let vals := (List.range 64).map fun i => scaleBy (scale i) (decodeElem src (codes.getD i 0))
  let ps := vpois b f.va.toNat
  if isMX dst then
    let (s0, e0, f0) := mxBlock dst (vals.take 32)
    let (s1, e1, f1) := mxBlock dst (vals.drop 32)
    let all := List.replicate 64 true
    { wrs := [.v f.vd.toNat (packedLanes wd all (e0 ++ e1)) (packedPois wd all [(ws, ps)]),
        .s f.sb.toNat (BitVec.ofNat 32 (s0 + 256 * s1))],
      flags := f0 ||| f1 }
  else
    let rs := (List.range 64).map fun i =>
      if sel.getD i false then convert dst f.sat (vals.getD i .nan) else (0, 0)
    { wrs := [.v f.vd.toNat (packedLanes wd sel (rs.map (·.1))) (packedPois wd sel [(ws, ps)])],
      flags := rs.foldl (fun a r => a ||| r.2) 0 }

/-- Whether a vector opcode is governed as a whole by one predicate bit, and by which (R96). -/
def wholeBit (op : Nat) (f : VecF) : Option Nat :=
  if op = 0x28 ∨ op = 0x29 ∨ op = 0x2A ∨ op = 0x2C ∨ op = 0x3C ∨ (op = 0x30 ∧ isMX f.fmt2.toNat) then some 0
  else if op = 0x39 then some f.lane.toNat else none

/-- Lanes of a vector slot that execute (R74, R96). -/
def vecSel (b : Nib) (p : Pred) (op : Nat) (f : VecF) : List Bool :=
  match wholeBit op f with
  | some i => List.replicate 64 (predLane b p i)
  | none => (List.range 64).map (predLane b p)

/-- Results of any vector instruction but vdga, from the registers at issue (R90). -/
def vecRes (b : Nib) (op : Nat) (f : VecF) (sel : List Bool) : VecRes :=
  match op with
  | 0x0A => cmpRes b f sel
  | 0x0B => selRes b f sel
  | 0x28 => reduceRes b op f
  | 0x29 => reduceRes b op f
  | 0x2A => reduceRes b op f
  | 0x2C => topkRes b f
  | 0x30 => cvtRes b f sel
  | 0x38 =>
    { wrs := [.v f.vd.toNat (packedLanes 32 sel (List.replicate 64 (sreg b f.sb.toNat).toNat))
        (packedPois 32 sel [])], flags := 0 }
  | 0x39 => { wrs := [.s f.sb.toNat (vlane b f.va.toNat f.lane.toNat)], flags := 0 }
  | 0x3A =>
    { wrs := [.v f.vd.toNat (packedLanes 32 sel (elems b f.va.toNat 32))
        (packedPois 32 sel [(32, vpois b f.va.toNat)])], flags := 0 }
  | _ => laneWise b op f sel

end Sys2Proof.Machine
end

