-- ==== Sys2Proof/Machine/TineOps.lean ====
section
/-!
DEFINITION. What a load, a step, a drain and stream-out do to a nib (R23, R39 to R46, R111 to R116, R123), shared by
the matrix slot and the stage commands.
-/
namespace Sys2Proof.Machine

/-! ### Checksums and fencing (R41, R42, R46) -/

/-- Effective TOL_SHIFT (R41). -/
def tolShift (b : Nib) : Nat := Nat.max 4 (Nat.min 22 (fld (nibReg b Reg.NIB_ABFT_CTRL) 12 8))

/-- Whether tolerance comparisons are made (R50). -/
def tolOn (b : Nib) : Bool := (nibReg b Reg.NIB_ABFT_CTRL).getLsbD 0

/-- Effective FENCE_THR (R46). -/
def fenceThr (b : Nib) : Nat := Nat.max 1 (fld (nibReg b Reg.NIB_ABFT_CTRL) 19 16)

/-- NIB_ABFT_LAST of a mismatch (R50). FORMAT of a step whose operand formats differ is left open by R50 and R51; it is WF,
as the suffix of mmul is (R110) (DESIGN CHOICE, log 121). -/
def abftWord (t : Nat) (f : MatF) (line : Nat) : Nat :=
  t + 4 * f.mode.toNat + (if f.tr then 16 else 0) + 32 * f.bank.toNat + 256 * f.wf.toNat + 4096 * line

/-- A failed comparison (R42): it is reported in the cycle after the comparison, `lag` cycles after the issue of the step. -/
def mismatch (s : State) (n t : Nat) (f : MatF) (line lag : Nat) : State :=
  onNib s n fun b => { b with checks := b.checks ++ [⟨b.cycle + lag + 1, abftWord t f line, b.cycle + lag⟩] }

/-- Whether the count of mismatches calls for the nib's fencing (R46). -/
def fenceDue (b : Nib) : Bool :=
  fenceThr b ≤ fld (nibReg b Reg.NIB_ABFT_FENCE_COUNT) 7 0 && fld (nibReg b Reg.NIB_ABFT_STATUS) 2 2 = 0

/-- The end of a bundle's cycle: failed comparisons due by now are reported, and the nib is fenced if its count has reached
the threshold (R42, R46). -/
def fenceCheck (s : State) (n : Nat) : State :=
  let s := raiseChecks s n (nibOf s n).cycle
  if fenceDue (nibOf s n) then fenceNib s n else s

/-- The end of a cycle in which no bundle issues: comparisons go on through a freeze (R35). -/
def heldCheck (s : State) (n : Nat) : State :=
  if (nibOf s n).checks.all fun k => (nibOf s n).cycle ≤ k.due then s else fenceCheck s n

/-! ### A step on one tine -/

/-- Add pending accumulator writes, on the bundle clock or on the stage's. -/
def addPend (b : Nib) (stage : Bool) (ps : List Pend) : Nib :=
  if stage then { b with stagePend := b.stagePend ++ ps } else { b with pend := b.pend ++ ps }

/-- The effect of a step on tine `t` (R29, R40 to R45, R61 to R64): updates seen from `due`, flags, poison, checksum. The
tile's rows drain as INT32 or FP32 by the last step issued on it, from its issue on; R58 leaves the type of a bank that
mixes the two open (DESIGN CHOICE, log 122). -/
def stepEffect (s : State) (n t : Nat) (f : MatF) (o : StepOut) (pin corrupt : Bool) (due : Nat) (stage : Bool) :
    State :=
  let b := nibOf s n
  let bank := f.bank.toNat
  let int := isIntStep f.wf.toNat
  let rs := o.cells.map fun c =>
    let key := accKey t bank c.1 c.2.1
    (key, accumulateAll int (if f.init then 0 else runningAcc b key) c.2.2)
  let cmp := (o.tol.isSome && tolOn b) || o.exactPt
  let bad := !pin && ((o.tol = some true && tolOn b) || (corrupt && cmp))
  let tile := t * 8 + bank
  let pois := (!f.init && runningPois b tile) || pin || bad
  let b := addPend b stage (rs.map fun r => ⟨due, .acc r.1 r.2.1⟩)
  let b := addPend b stage [⟨due, .accPoison tile pois⟩]
  let b := arith { b with accInt := put false b.accInt tile int } (rs.foldl (fun a r => a ||| r.2.2) 0)
  let b := if pin then setNibF b Reg.NIB_ABFT_STATUS 1 1 1 else b
  let s := setNib s n b
  if bad then mismatch s n t f o.line (if o.tol.isSome then 4 else 5) else s

/-- The shadow becomes active on the selected tines (R23, R113). -/
def swapTines (b : Nib) (ts : List Nat) : Nib :=
  ts.foldl (fun b t =>
    (List.range 16).foldl (fun b j =>
      let k := 16 * t + j
      let a := look Col.zero b.active k
      let h := look Col.zero b.shadow k
      { b with active := put Col.zero b.active k h, shadow := put Col.zero b.shadow k a }) b) b

/-- Operands of a matrix step for each selected tine: the tine, its step, and whether an operand is poisoned. `xs`
gives the activation vector of a tine, `wv` the streamed weight vector, `wcols` the columns of the weight group. -/
def stepOuts (b : Nib) (f : MatF) (row part slice : Nat) (xs : Nat → OpVec) (wv : OpVec) (wcols : List OpVec) :
    List (Nat × StepOut × Bool) :=
  let m := stepMacs f.wf.toNat f.af.toNat
  let sh := tolShift b
  (tinesOf f.tm).map fun t =>
    let sf := if f.mode = 1 then f.af.toNat else f.wf.toNat
    let tile := tileOf b t (quartersUsed m sf)
    let tp := tile.any (·.poison)
    if f.mode = 2 then
      (t, outerStep m slice sh f.wf.toNat f.af.toNat wcols (xs t), (xs t).poison || wcols.any (·.poison))
    else if f.tr then (t, transStep m part row sh sf f.af.toNat tile (xs t), tp || (xs t).poison)
    else if f.mode = 1 then (t, directStep m row sh sf f.wf.toNat tile wv, tp || wv.poison)
    else (t, directStep m row sh sf f.af.toNat tile (xs t), tp || (xs t).poison)

/-- Apply the steps of all selected tines. -/
def applySteps (s : State) (n : Nat) (f : MatF) (outs : List (Nat × StepOut × Bool)) (corrupt : BitVec 4) (due : Nat)
    (stage : Bool) : State :=
  outs.foldl (fun s o => stepEffect s n o.1 f o.2.1 o.2.2 (corrupt.getLsbD o.1) due stage) s

/-! ### Loads (R111, R112) -/

/-- Quarters of a column that part `p` of a load fills. -/
def partMask (m p : Nat) : BitVec 4 := BitVec.ofNat 4 ((2 ^ (4 / m) - 1) * 2 ^ (4 / m * p))

/-- Replace rows 16p to 16p + 15 of a column: bytes (32/m)·p to (32/m)·(p + 1) − 1 of its 32 bytes, with their poison. -/
def loadPart (m p fmt : Nat) (old : Col) (v : OpVec) : Col :=
  let w := 256 / m
  let lo := w * p
  let d := setBits old.data.toNat (lo + w - 1) lo (v.data / 2 ^ lo)
  let c := mkCol fmt v
  let first := m < 4 || p < 2
  { data := BitVec.ofNat 256 d,
    s0 := if first then c.s0 else old.s0,
    s1 := if m < 4 then c.s1 else if first then old.s1 else c.s1,
    poison := (old.poison &&& ~~~partMask m p) ||| (if v.poison then partMask m p else 0) }

/-- mld of part `p` into the shadow of the tines of `tm` (R111). -/
def loadTile (b : Nib) (tm : BitVec 4) (fmt p : Nat) (cols : List OpVec) : Nib :=
  (tinesOf tm).foldl (fun b t =>
    (List.range 16).foldl (fun b j =>
      let k := 16 * t + j
      let o := look Col.zero b.shadow k
      let c := loadPart (macs fmt) p fmt o (cols.getD j ⟨0, 127, 127, false⟩)
      { b with shadow := put Col.zero b.shadow k c }) b) b

/-- mlda of column `j` into the shadow of tine `t` (R112). -/
def loadColumn (b : Nib) (t fmt j : Nat) (v : OpVec) : Nib :=
  { b with shadow := put Col.zero b.shadow (16 * t + j) (mkCol fmt v) }

/-- The sixteen columns of the group at the weight port, each with the poison of the bytes that the read delivers. -/
def portCols (b : Nib) (r fmt : Nat) (u : WUse) : List OpVec :=
  let g := weightGroup b (viaExpander b) r fmt u
  let s := weightSlice b (viaExpander b) r
  (List.range 16).map (groupCol fmt g u s)

/-- The streamed weight vector at the weight port (R27, R163). -/
def portVector (b : Nib) (r fmt : Nat) : OpVec :=
  groupCol fmt (weightGroup b (viaExpander b) r fmt .vector) .vector 0 (weightCol b (viaExpander b) r fmt)

/-! ### Drains (R115, R116) -/

/-- Drain queue of a tine. -/
def queueOf (b : Nib) (t : Nat) : List DrainRow := look [] b.drains t

/-- Replace a drain queue. -/
def setQueue (b : Nib) (t : Nat) (q : List DrainRow) : Nib := { b with drains := put [] b.drains t q }

/-- Elements of an accumulator row as a read issued now sees them (R29). -/
def accRow (b : Nib) (t bank row : Nat) : List W32 :=
  (List.range 16).map fun j => look 0 b.acc (accKey t bank row j)

/-- The row of set `k` that a drain of tine `t` takes from a bank (R115). -/
def drainRow (b : Nib) (t row bank : Nat) (toVec : Bool) (drb fo : Nat) (sat stage : Bool) (k : Nat) : DrainRow :=
  { vals := accRow b t bank row, src := if look false b.accInt (t * 8 + bank) then 13 else 12,
    poison := look false b.accPoison (t * 8 + bank), toVec := toVec, drb := drb, fo := fo, sat := sat, set := k,
    stage := stage }

/-- Push rows into the drain queues of their tines. -/
def pushRows (b : Nib) (rows : List (Nat × DrainRow)) : Nib :=
  rows.foldl (fun b p => setQueue b p.1 (queueOf b p.1 ++ [p.2])) b

/-- Push a row of each selected tine into its drain queue (R115). -/
def drainRows (b : Nib) (ts : List Nat) (row bank : Nat) (toVec : Bool) (drb fo : Nat) (sat stage : Bool) : Nib :=
  let k := b.drainSet
  pushRows { b with drainSet := k + 1 } (ts.map fun t => (t, drainRow b t row bank toVec drb fo sat stage k))

/-- A full queue: 32 rows (R25). -/
def queueFull (b : Nib) (t : Nat) : Bool := (queueOf b t).length ≥ 32

/-- A full queue whose head waits for mpop (R36). -/
def headToVec (b : Nib) (t : Nat) : Bool :=
  match queueOf b t with
  | [] => false
  | r :: _ => r.toVec

/-- mpop (R116): the writes of VD and the queues after it, and whether a selected head was missing. -/
def popRows (b : Nib) (ts : List Nat) : List (Nat × W32 × W32) × List (Nat × Bool × Bool) × Nib × Bool :=
  ts.foldl (fun a t =>
    let (ls, qs, b, e) := a
    let ones : W32 := BitVec.allOnes 32
    match queueOf b t with
    | r :: rest =>
      if r.toVec then
        (ls ++ (List.range 16).map (fun j => (16 * t + j, ones, r.vals.getD j 0)), qs ++ [(t, r.poison, true)],
          setQueue b t rest, e)
      else (ls ++ (List.range 16).map (fun j => (16 * t + j, ones, 0)), qs ++ [(t, false, true)], b, true)
    | [] => (ls ++ (List.range 16).map (fun j => (16 * t + j, ones, 0)), qs ++ [(t, false, true)], b, true))
    ([], [], b, false)

end Sys2Proof.Machine
end

