-- ==== Sys2Proof/Machine/ExpOps.lean ====
section
/-!
DEFINITION. The expander of a nib (R170 to R179): reading headers, U areas, pieces and residuals from its rings, the
groups that it places into its output buffer, and the conditions that it reports.
-/
namespace Sys2Proof.Machine

/-- The chain plan that the expander follows: that of the context, where the stage's WRB is its ROT ring (R170). -/
def expChain (s : State) (n : Nat) : Option ChainPlan :=
  match ctxOfNib s n, (nibOf s n).stage with
  | some c, some g =>
    match (ctxOf s c).chain with
    | some p => if p.rot = g.tp.wrb.toNat then some p else none
    | none => none
  | _, _ => none

/-- Where and what the expander reads: the stage's weight format and WRB, pieces to a slab (R138), the chain plan in the
chain arrangement (R170). -/
structure ExpEnv where
  wf : Nat
  r : Nat
  g : Nat
  ch : Option ChainPlan
deriving DecidableEq, Repr

/-- The expander's input by the active stage. -/
def expEnv (s : State) (n : Nat) : ExpEnv :=
  let g := match ctxOfNib s n with | some c => geomNibs (ctxOf s c).geom | none => 0
  match (nibOf s n).stage with
  | some x => ⟨x.tp.wf.toNat, x.tp.wrb.toNat, g, expChain s n⟩
  | none => ⟨0, 0, g, none⟩

/-- Change the expander of a nib. -/
def onExp (b : Nib) (f : Expander → Expander) : Nib := { b with exp := f b.exp }

/-- Passes of the slab's pieces that the weight port or the expander has gone through since the job start, and bytes of the
present one (R140, R143). -/
def rotPasses (b : Nib) (p : ChainPlan) : Nat × Nat :=
  let x := ringOf b p.rot
  let k := b.rotBytes - x.fill + x.rd
  (k / Nat.max 1 p.piece, k % Nat.max 1 p.piece)

/-- A stage with EXPAND begins with nothing read (R124); in the chain arrangement its passes go on from the bytes of ROT taken
before. -/
def expBegin (s : State) (n : Nat) : State :=
  match expChain s n with
  | some p => onNib s n fun b =>
      let k := rotPasses b p
      onExp b fun e => { e with pass := k.1, hpass := k.1, pos := k.2 }
  | none => s

/-- A condition of the expander (R177, R178, R179) with its cause, which is also its bit of NIB_EXP_STATUS (R181): 1 OVERRUN,
2 UNDERRUN, 3 BADENTRY, 4 BADHDR, 5 CHECK, 6 POISON_IN. Status, NIB_EXP_ERR, and the context's contained error for OVERRUN,
UNDERRUN, BADENTRY and BADHDR, once for each DIR_INDEX, EPOCH and cause. -/
def expCond (s : State) (n idx epoch cause : Nat) : State :=
  let s := onNib s n fun b =>
    setNibReg (setNibF b Reg.NIB_EXP_STATUS cause cause 1) Reg.NIB_EXP_ERR
      (BitVec.ofNat 32 (idx % 2 ^ 19 + cause * 2 ^ 19))
  if cause = 6 then s
  else if cause = 5 then raise s 2 0x21 1 (ctxOfNib s n) n 0x80000000
  else match ctxOfNib s n with
    | none => s
    | some c =>
      if (ctxOf s c).expErrs.contains (idx, epoch, cause) then s
      else
        raise (onCtx s c fun x => { x with expErrs := (idx, epoch, cause) :: x.expErrs }) 2 0x23 1 (some c) n
          (idx + cause * 2 ^ 19 + epoch * 2 ^ 32)

/-- Conditions of a block, one after another. -/
def expConds (s : State) (n : Nat) (h : BlockHdr) (cs : List Nat) : State :=
  cs.foldl (fun s c => expCond s n h.dirIndex h.epoch c) s

/-- POISON_IN where a word read was poisoned (R178, R181). -/
def expPoison (s : State) (n : Nat) (h : BlockHdr) (p : Bool) : State :=
  if p then expCond s n h.dirIndex h.epoch 6 else s

/-- NIB_EXP_BLOCK and NIB_EXP_EPOCH of the block being expanded (R181). -/
def expShow (b : Nib) (valid : Bool) (h : BlockHdr) : Nib :=
  setNibReg (setNibReg b Reg.NIB_EXP_BLOCK (BitVec.ofNat 32 (h.dirIndex % 2 ^ 19 + (if valid then 2 ^ 31 else 0))))
    Reg.NIB_EXP_EPOCH (BitVec.ofNat 32 h.epoch)

/-- No block is being expanded (R181). -/
def expHide (b : Nib) : Nib := setNibF b Reg.NIB_EXP_BLOCK 31 31 0

/-- Cycles of the expander's work (R173, R174, R181). -/
def expBusy (b : Nib) (k : Nat) : Nib := bumpNib64 b Reg.NIB_EXP_BUSY k

/-! ### Reading -/

/-- Take up to `want` bytes of ring `r` at the weight port: bytes, poison, and the nib after it. -/
def expTake (b : Nib) (r want : Nat) : List Byte × Bool × Nib :=
  let x := ringOf b r
  let k := Nat.min want x.avail
  (ringBytes b r x.rd k, k > 0 && ringPois b r x.rd k, portTake b r k)

/-- Discard the bytes that are to be discarded and are present. -/
def expSkip (b : Nib) (r : Nat) : Nib :=
  let k := Nat.min b.exp.skip (ringOf b r).avail
  onExp (portTake b r k) fun e => { e with skip := e.skip - k }

/-- Where in COM, beyond its head, the header pass goes on: COM holds the common parts of the slabs from the one at its head
(R138, R142). -/
def comAt (b : Nib) (v : ExpEnv) (p : ChainPlan) : Nat :=
  b.exp.hpass / Nat.max 1 v.g * p.common + b.exp.comPos - (ringOf b p.com).head

/-- Bytes present where the expander reads headers and U areas (R170). -/
def headAvail (b : Nib) (v : ExpEnv) : Nat :=
  match v.ch with
  | some p => Nat.min (p.common - b.exp.comPos) ((ringOf b p.com).fill - comAt b v p)
  | none => (ringOf b v.r).avail

/-- Read up to `want` bytes there; COM keeps them (R142). -/
def headRead (b : Nib) (v : ExpEnv) (want : Nat) : List Byte × Bool × Nib :=
  match v.ch with
  | some p =>
    let k := Nat.min want (headAvail b v)
    let o := comAt b v p
    (ringBytes b p.com o k, k > 0 && ringPois b p.com o k, onExp b fun e => { e with comPos := e.comPos + k })
  | none => expTake b v.r want

/-- Whether a header can be used (R178). -/
def hdrUsable (v : ExpEnv) (h : BlockHdr) : Bool := hdrOk h && h.outFmt = v.wf && (v.ch.isNone || h.bands = v.g)

/-- Bytes of the factor buffer (R174). -/
def factBuf : Nat := 131072

/-- Bytes that the factor buffer holds. -/
def factHeld (e : Expander) : Nat := (e.blocks.map fun k => k.u.length).sum

/-- Whether the load of a block is paid: in the streamed arrangement every block's, in the chain arrangement that of the first
block of a stage (R174). -/
def loadPaid (e : Expander) (v : ExpEnv) : Bool := v.ch.isNone || e.fresh

/-- Cycles by which the load of a block grows as its bytes from `a` to `z`, header and U area, are read at 128 B per cycle
(R174). -/
def loadCycles (a z : Nat) : Nat := (z + 127) / 128 - (a + 127) / 128

/-- The last block of the factor buffer takes U bytes as they are present and the buffer has room (R174). -/
def loadU (s : State) (n : Nat) (v : ExpEnv) : State :=
  let b := nibOf s n
  match b.exp.blocks.reverse with
  | [] => s
  | k :: ks =>
    let (bs, p, b) := headRead b v (Nat.min (k.hdr.commonSize - k.u.length) (factBuf - factHeld b.exp))
    let k' := { k with u := k.u ++ bs, uPoison := k.uPoison || p }
    let full := k.hdr.commonSize ≤ k'.u.length
    let t := if loadPaid b.exp v then loadCycles (64 + k.u.length) (64 + k'.u.length) else 0
    let b := onExp (expBusy b t) fun e => { e with blocks := (k' :: ks).reverse, fresh := e.fresh && !full }
    expPoison (setNib s n b) n k.hdr p

/-- Whether the last block of the factor buffer holds its whole U area. -/
def uComplete (e : Expander) : Bool :=
  match e.blocks.reverse with
  | [] => true
  | k :: _ => k.bad || k.hdr.commonSize ≤ k.u.length

/-- The headers of a pass have been read: the next pass's follow (R170, R174). -/
def nextHeaders (b : Nib) : Nib := onExp b fun e => { e with hpass := e.hpass + 1, comPos := 0 }

/-- The pass over the slab's piece ends: the rest of its P bytes is discarded, and what was read for it (R170). -/
def endPass (b : Nib) (p : ChainPlan) : Nib :=
  let b := if b.exp.hpass = b.exp.pass then nextHeaders b else b
  onExp b fun e =>
    { e with skip := e.skip + (p.piece - e.pos), pos := 0, pass := e.pass + 1, left := 0, piece := none, v := [],
             nnz := 0, ents := [], grp := 0, pois := false, blocks := e.blocks.filter fun k => e.pass < k.pass }

/-- The pass ends once no block of it is left in the factor buffer and none is to come. -/
def settlePass (b : Nib) (v : ExpEnv) : Nib :=
  match v.ch with
  | some p => if b.exp.pass < b.exp.hpass && b.exp.blocks.all fun k => b.exp.pass < k.pass then endPass b p else b
  | none => b

/-- A header is unusable (R178, R179): it stands in the factor buffer for a block of which nothing is known, and its pass has no
further headers. -/
def badHeader (s : State) (n : Nat) (v : ExpEnv) (h : BlockHdr) (poisoned : Bool) : State :=
  let b := nibOf s n
  let b := onExp b fun e => { e with blocks := e.blocks ++ [⟨h, [], false, e.hpass, true⟩] }
  let b := if v.ch.isSome then nextHeaders b else b
  expCond (setNib s n b) n 0x7FFFF h.epoch (if poisoned then 6 else 4)

/-- Read the next header, and its U area as far as it is present (R174). A pass's headers end where the common part has been
read, or where MAGIC is zero; its first header must be there (R170, R178). -/
def readHeader (s : State) (n : Nat) (v : ExpEnv) : State :=
  let b := nibOf s n
  let size := match v.ch with | some p => p.common | none => b.exp.comPos + 64
  if size < b.exp.comPos + 64 then
    if b.exp.comPos = 0 then badHeader s n v (hdrOf []) false
    else setNib s n (settlePass (nextHeaders b) v)
  else if headAvail b v < 64 then s
  else
    let (bs, po, b') := headRead b v 64
    let h := hdrOf bs
    let t := if loadPaid b.exp v then 1 else 0
    if po then badHeader (setNib s n b') n v h true
    else if v.ch.isSome && h.magic = 0 && b.exp.comPos ≠ 0 then setNib s n (settlePass (nextHeaders b') v)
    else if !hdrUsable v h then badHeader (setNib s n b') n v h false
    else loadU (setNib s n (onExp (expBusy b' t) fun e => { e with blocks := e.blocks ++ [⟨h, [], false, e.hpass, false⟩] })) n v

/-- EXPANDER_FACTOR_LOAD (R174): the U area of the block being loaded goes on, or the next header is read where the factor
buffer has room: in the chain arrangement beside the present block, in the streamed one after it. -/
def factorLoad (s : State) (n : Nat) : State :=
  let v := expEnv s n
  let e := (nibOf s n).exp
  if !viaExpander (nibOf s n) then s
  else if !uComplete e then loadU s n v
  else if e.blocks.length ≥ (if v.ch.isSome then 2 else 1) || (v.ch.isNone && e.skip > 0) then s
  else readHeader s n v

/-! ### Producing -/

/-- Place the first tile of a new group into the output buffer: bytes, poison of their words, cycles of its tiles (R173). -/
def pushGroup (b : Nib) (data : List Byte) (ps : List Bool) (costs : List Nat) : Nib :=
  onExp (expBusy b (costs.headD 1)) fun e => { e with out := e.out ++ [⟨data, ps, 1⟩], costs := costs.drop 1 }

/-- A group all of whose words are poisoned, or none. -/
def groupWords (data : List Byte) (p : Bool) : List Bool := List.replicate ((data.length + 63) / 64) p

/-- Another tile of the last group of the output buffer. -/
def moreTile (b : Nib) : Nib :=
  onExp (expBusy b (b.exp.costs.headD 1)) fun e =>
    match e.out.reverse with
    | [] => e
    | g :: gs => { e with out := ({ g with tiles := g.tiles + 1 } :: gs).reverse, costs := e.costs.drop 1 }

/-- Whether the last group of the output buffer lacks tiles. -/
def openGroup (e : Expander) (m : Nat) : Bool :=
  match e.out.reverse with
  | [] => false
  | g :: _ => g.tiles < m

/-- A piece of a block ends: what it left is discarded, and the next piece or block follows (R170, R176). -/
def endPiece (b : Nib) (v : ExpEnv) : Nib :=
  match b.exp.blocks with
  | [] => b
  | k :: ks =>
    let b := onExp b fun e =>
      { e with piece := none, v := [], nnz := 0, ents := [], grp := 0, pois := false, skip := e.skip + e.left,
               pos := e.pos + e.left, left := 0 }
    if v.ch.isSome then settlePass (expShow (onExp b fun e => { e with blocks := ks }) false k.hdr) v
    else if b.exp.band + 1 = k.hdr.bands then
      expShow (onExp b fun e => { e with band := 0, blocks := ks, pos := 0 }) false k.hdr
    else onExp b fun e => { e with band := e.band + 1, pos := 0 }

/-- A group has all its tiles: it is counted, and the piece may end (R176, R181). -/
def endGroup (b : Nib) (v : ExpEnv) : Nib :=
  let b := bumpNib64 b Reg.NIB_EXP_GROUPS 1
  match b.exp.blocks with
  | [] => b
  | k :: _ =>
    let b := onExp b fun e => { e with grp := e.grp + 1, ents := [] }
    if b.exp.grp = pieceGroups k.hdr then endPiece b v else b

/-- A group of zeros, poisoned, in place of a block that cannot be used is complete (R178). In the chain arrangement it stands for
a group's bytes of the slab's piece, at whose end the expander resumes; in the streamed one the bytes present are discarded. -/
def endDead (b : Nib) (v : ExpEnv) : Nib :=
  let b := bumpNib64 b Reg.NIB_EXP_GROUPS 1
  match v.ch with
  | none => portTake b v.r (ringOf b v.r).avail
  | some p =>
    let k := Nat.min (wgBytes v.wf) (p.piece - b.exp.pos)
    let b := onExp b fun e => { e with skip := e.skip + k, pos := e.pos + k }
    if b.exp.pos ≥ p.piece then endPass b p else b

/-- After a tile: the group may be complete. -/
def afterTile (b : Nib) (v : ExpEnv) : Nib :=
  if openGroup b.exp (macs v.wf) then b
  else match b.exp.blocks with
    | k :: _ => if k.bad then endDead b v else endGroup b v
    | [] => b

/-- Take `want` bytes of the present piece, short at its end: bytes, poison of their words, the nib after it; none while they are
not all present. -/
def pieceTake (b : Nib) (r want : Nat) : Option (List Byte × List Bool × Nib) :=
  let k := Nat.min want b.exp.left
  let x := ringOf b r
  if x.avail < k then none
  else some (ringBytes b r x.rd k, ringPoisWords b r x.rd k,
    onExp (portTake b r k) fun e => { e with left := e.left - k, pos := e.pos + k })

/-- Bytes of the residual area that a piece declares (R168). -/
def resBytes (h : BlockHdr) (nnz : Nat) : Nat :=
  if h.kind ≠ 2 then 0 else if h.resLayout = 0 then pieceGroups h * resGroupBytes h else nnz * 4

/-- Conditions of a piece header (R177). -/
def pieceConds (h : BlockHdr) (vRows nnz : Nat) : List Nat :=
  (if vRows > h.d then [1] else [])
    ++ (if vRows < h.d || 64 + factArea h.factFmt vRows h.rank + resBytes h nnz > h.pieceSize then [2] else [])

/-- The block in production turns out unusable (R178). -/
def blockDead (b : Nib) : Nib :=
  onExp (expHide b) fun e =>
    match e.blocks with
    | [] => e
    | k :: ks => { e with blocks := { k with bad := true } :: ks, piece := none, v := [], left := 0 }

/-- Read the piece header (R167, R177); a poisoned one counts as an unusable header (R178). -/
def readPieceHdr (s : State) (n r : Nat) (k : ExpBlock) : State :=
  match pieceTake (onExp (nibOf s n) fun e => { e with left := k.hdr.pieceSize }) r 64 with
  | none => s
  | some (bs, ps, b) =>
    if ps.any id then expCond (setNib s n (blockDead b)) n 0x7FFFF k.hdr.epoch 6
    else
      let vr := field bs 0 4
      let nnz := field bs 4 4
      let cs := pieceConds k.hdr vr nnz
      let b := expShow (onExp b fun e => { e with piece := some (vr, nnz, field bs 8 1), pois := !cs.isEmpty }) true k.hdr
      expConds (setNib s n b) n k.hdr cs

/-- The V area takes the bytes of the piece that are present; whether it is now complete (R166, R177). -/
def readV (s : State) (n r : Nat) (h : BlockHdr) (vr : Nat) : Bool × State :=
  let b := nibOf s n
  let want := Nat.min (factArea h.factFmt vr h.rank - b.exp.v.length) b.exp.left
  let (bs, p, b) := expTake b r want
  let b := onExp b fun e =>
    { e with v := e.v ++ bs, left := e.left - bs.length, pos := e.pos + bs.length, pois := e.pois || p }
  (bs.length = want, expPoison (setNib s n b) n h p)

/-- Bytes of the residual area that the piece has still to give. -/
def resLeft (e : Expander) (h : BlockHdr) (nnz : Nat) : Nat :=
  Nat.min e.left (if h.kind ≠ 2 then 0
    else if h.resLayout = 0 then (pieceGroups h - e.grp) * resGroupBytes h else (nnz - e.nnz) * 4)

/-- Whether the residual area of the piece is present, or as much of it as its ring can hold: less than a transfer's tag of room
is left. The first group waits for it, for one poisoned word of it poisons every group of the piece (R178; log 130). -/
def resHere (b : Nib) (r : Nat) (h : BlockHdr) (nnz : Nat) : Bool :=
  let x := ringOf b r
  b.exp.grp > 0 || resLeft b.exp h nnz ≤ x.avail || x.room < 2048

/-- The words of the residual area that are present are looked at for poison before a group is formed (R178). -/
def lookRes (s : State) (n r : Nat) (h : BlockHdr) (nnz : Nat) : State :=
  let b := nibOf s n
  let x := ringOf b r
  let k := Nat.min (resLeft b.exp h nnz) x.avail
  let p := k > 0 && ringPois b r x.rd k
  expPoison (setNib s n (onExp b fun e => { e with pois := e.pois || p })) n h p

/-- The sparse entries of the group in production are taken as they are present (`fuel` bounds them): the nib after it, causes
found, whether more bytes must arrive (R168, R177). -/
def takeSparse : Nat → Nib → Nat → BlockHdr → Nat → List Nat → Nib × List Nat × Bool
  | 0, b, _, _, _, cs => (b, cs, false)
  | fuel + 1, b, r, h, nnz, cs =>
    if b.exp.nnz = nnz || b.exp.left < 4 then (b, cs, false)
    else if (ringOf b r).avail < 4 then (b, cs, true)
    else
      let w := leNat (ringBytes b r (ringOf b r).rd 4)
      let (row, col, _) := sparseEntry h 0 w
      let per := h.rows / kOf h.outFmt
      let key := col / 16 * per + row / kOf h.outFmt
      let bad := decide (row ≥ h.rows) || decide (col ≥ h.d)
      if !bad && key > b.exp.grp then (b, cs, false)
      else
        let b := onExp (portTake b r 4) fun e => { e with nnz := e.nnz + 1, left := e.left - 4, pos := e.pos + 4 }
        if bad then takeSparse fuel (onExp b fun e => { e with pois := true }) r h nnz (cs ++ [1])
        else if key < b.exp.grp then takeSparse fuel (onExp b fun e => { e with pois := true }) r h nnz (cs ++ [3])
        else takeSparse fuel (onExp b fun e => { e with ents := e.ents ++ [w] }) r h nnz cs

/-- Whether column `t` of a band has a row in the V area as far as the piece holds it (R177). -/
def hasRow (e : Expander) (h : BlockHdr) (vr t : Nat) : Bool := t < vr && factElems h.factFmt t h.rank < e.v.length

/-- Values of column `c` of the group in production (R171); a column without a row of V is zero (R177). -/
def columnVals (e : Expander) (k : ExpBlock) (vr : Nat) (res : Nat → Nat → List Val) (c : Nat) : List Val :=
  let h := k.hdr
  let kk := kOf h.outFmt
  let per := h.rows / kk
  let k0 := e.grp % per * kk
  let t := e.grp / per * 16 + c
  if !hasRow e h vr t then List.replicate kk (.fin false 0 0)
  else
    let vs := factRow h.factFmt vr h.rank e.v t
    (List.range kk).map fun i => expandAt (factRow h.factFmt h.rows h.rank k.u (k0 + i)) vs (res i c)

/-- Cycles of one tile of a factored block in which `e` sparse entries fall (R173). -/
def tileCycles (h : BlockHdr) (e : Nat) : Nat :=
  let d := if h.factFmt = 10 then 2 else 4
  Nat.max ((h.rank + d - 1) / d) ((e + 3) / 4)

/-- Cycles of the tiles of a group whose sparse entries fall in rows `rows` of it; tiles of zeros cost one (R173). -/
def groupCosts (h : BlockHdr) (zero : Bool) (rows : List Nat) : List Nat :=
  (List.range (macs h.outFmt)).map fun p => if zero then 1 else tileCycles h (rows.countP fun i => i / 16 = p)

/-- Compute the group in production and place its first tile (R171 to R173). `bad` makes the check of R172 fail. -/
def makeGroup (s : State) (n : Nat) (k : ExpBlock) (vr : Nat) (res : Nat → Nat → List Val) (rows : List Nat)
    (bad : Bool) : State :=
  let b := nibOf s n
  let h := k.hdr
  let t := b.exp.grp / (h.rows / kOf h.outFmt) * 16
  let cols := (List.range 16).map (columnVals b.exp k vr res)
  let (data, fl) := expandGroup h.outFmt cols
  let compared := cols.any fun vs => vs.all Val.isFin
  let hit := bad && compared
  let zero := (List.range 16).all fun c => !hasRow b.exp h vr (t + c)
  let s := setNib s n (pushGroup (arith b fl) data (groupWords data (k.uPoison || b.exp.pois || hit)) (groupCosts h zero rows))
  if hit then
    fenceCheck (expCond (onNib s n countMismatch) n h.dirIndex h.epoch 5) n
  else s

/-- Start the next group of a factored block where its bytes are present (R166, R168, R171, R177). -/
def factoredGroup (s : State) (n r : Nat) (k : ExpBlock) (bad : Bool) : State :=
  let s := if (nibOf s n).exp.piece.isNone then readPieceHdr s n r k else s
  match (nibOf s n).exp.piece with
  | none => s
  | some (vr, nnz, sc) =>
    let (full, s) := readV s n r k.hdr vr
    if !full || !resHere (nibOf s n) r k.hdr nnz then s
    else
      let s := lookRes s n r k.hdr nnz
      if k.hdr.kind = 2 && k.hdr.resLayout = 0 then
        match pieceTake (nibOf s n) r (resGroupBytes k.hdr) with
        | none => s
        | some (bs, _, b) => makeGroup (setNib s n b) n k vr (fun i c => [denseRes k.hdr bs i c]) [] bad
      else if k.hdr.kind = 2 then
        let (b, cs, wait) := takeSparse ((nibOf s n).exp.left + 1) (nibOf s n) r k.hdr nnz []
        let s := expConds (setNib s n b) n k.hdr cs
        if wait then s
        else
          let es := b.exp.ents.map fun w => sparseEntry k.hdr sc w
          let kk := kOf k.hdr.outFmt
          makeGroup s n k vr (fun i c => (es.filter fun e => e.1 % kk = i && e.2.1 % 16 = c).map (·.2.2))
            (es.map fun e => e.1 % kk) bad
      else makeGroup s n k vr (fun _ _ => []) [] bad

/-- A raw group passes unchanged, with its poison bits (R170, R178). -/
def rawGroup (s : State) (n r : Nat) (k : ExpBlock) : State :=
  let b := nibOf s n
  let b := if b.exp.piece.isNone then
      expShow (onExp b fun e => { e with piece := some (0, 0, 0), left := k.hdr.pieceSize }) true k.hdr else b
  match pieceTake b r (wgBytes k.hdr.outFmt) with
  | none => setNib s n b
  | some (bs, ps, b) => expPoison (setNib s n (pushGroup b bs ps (List.replicate (macs k.hdr.outFmt) 1))) n k.hdr (ps.any id)

/-- The first tile of the next group, where its bytes are present (R170 to R178). -/
def newGroup (s : State) (n : Nat) (v : ExpEnv) (bad : Bool) : State :=
  let b := nibOf s n
  match b.exp.blocks with
  | [] => s
  | k :: _ =>
    if b.exp.skip > 0 then s
    else if k.bad then
      let z := List.replicate (wgBytes v.wf) 0
      setNib s n (pushGroup b z (groupWords z true) (List.replicate (macs v.wf) 1))
    else if k.u.length < k.hdr.commonSize then s
    else if k.hdr.kind = 0 then rawGroup s n v.r k
    else factoredGroup s n v.r k bad

/-- EXPANDER_TILE (R173, R174): one tile, where the output buffer has room and the bytes are present. -/
def expTile (s : State) (n : Nat) (bad : Bool) : State :=
  let v := expEnv s n
  let s := onNib s n fun b => expSkip b v.r
  let b := nibOf s n
  if !viaExpander b then s
  else if openGroup b.exp (macs v.wf) then setNib s n (afterTile (moreTile b) v)
  else if b.exp.out.length ≥ 4 then s
  else
    let t := newGroup s n v bad
    if (nibOf t n).exp.out.length > b.exp.out.length then onNib t n fun b => afterTile b v else t

/-- Bytes that the expander needs next, and of which ring; none where it waits for none (R175). -/
def expNeed (b : Nib) (v : ExpEnv) : Option (Nat × Nat) :=
  let e := b.exp
  let piece := fun want => some (v.r, Nat.min want e.left)
  if e.skip > 0 then some (v.r, 1)
  else match e.blocks with
    | [] => some (match v.ch with | some p => p.com | none => v.r, 64)
    | k :: _ =>
      if k.bad then none
      else if k.u.length < k.hdr.commonSize then some (match v.ch with | some p => p.com | none => v.r, 1)
      else if k.hdr.kind = 0 then
        some (v.r, Nat.min (wgBytes k.hdr.outFmt) (if e.piece.isNone then k.hdr.pieceSize else e.left))
      else match e.piece with
        | none => some (v.r, 64)
        | some (vr, nnz, _) =>
          if e.v.length < factArea k.hdr.factFmt vr k.hdr.rank then piece 1
          else if !resHere b v.r k.hdr nnz then some (v.r, resLeft e k.hdr nnz)
          else if k.hdr.kind = 2 && k.hdr.resLayout = 0 then piece (resGroupBytes k.hdr)
          else if k.hdr.kind = 2 && e.nnz < nnz then piece 4
          else none

/-- The ring that the expander waits for: the bytes it needs next are not present in it (R175). -/
def expWaits (s : State) (n : Nat) : Option Nat :=
  let b := nibOf s n
  let v := expEnv s n
  match expNeed b v with
  | none => none
  | some (r, k) =>
    let here := if (b.exp.blocks.head?.map fun x => !x.bad && x.hdr.commonSize ≤ x.u.length).getD false || b.exp.skip > 0 then
        (ringOf b r).avail else headAvail b v
    if here < k then some r else none

end Sys2Proof.Machine
end

