-- ==== Sys2Proof/Machine/StageOps.lean ====
section
/-!
DEFINITION. Stage commands (R121 to R126): the descriptor and its checks, when a stage's ports are ready, and what one
unfrozen cycle of a stage does.
-/
namespace Sys2Proof.Machine

/-! ### The descriptor (R121) -/

/-- Bits of ENABLE that must be as R121 says. -/
def enableOk (e : Nat) : Bool := bitOf e 2 && e < 64

/-- Whether MTPL is a template that R121 permits. -/
def mtplOk (op : Nat) (f : MatF) : Bool :=
  op = 3 && matOk 3 f && f.row = 0 && !f.swap && f.part = 0 && !f.dr && f.drow = 0 && f.dbank = 0 && f.vd = 0
    && !f.dest && (!f.tr || (macs f.wf.toNat = 1 && macs f.af.toNat = 1))

/-- MTPL with the drain fields set aside, as the slot rules judge the step. -/
def mtplStep (f : MatF) : MatF := { f with drb := 0, fo := 0, sat := false }

/-- Whether VTPL is a template that R123 permits: a lane-wise opcode or vcvt to a non-MX target. -/
def vtplOk (op : Nat) (f : VecF) : Bool :=
  vecOk op f && ((1 ≤ op && op ≤ 0x25) || (op = 0x30 && !isMX f.fmt2.toNat))

/-- Whether the bytes of a descriptor that no field uses are zero (R121). -/
def stgReserved (bs : List Byte) : Bool :=
  bits (field bs 0x18 4) 30 20 = 0 && field bs 0x1E 2 = 0 && field bs 0x2C 4 = 0 && ((bs.drop 0x30).take 16).all (· = 0)

/-- The active stage that the descriptor `bs` of a stg describes, after its check (R124). -/
def stageOf (q : StgReq) (bs : List Byte) : Stage :=
  let en := field bs 1 1
  let m := BitVec.ofNat 64 (field bs 8 8)
  let v := BitVec.ofNat 64 (field bs 0x10 8)
  let dn := field bs 0x18 4
  { pc := q.pc, cyc := q.cyc, wins := q.heads, q := field bs 2 2, steps := field bs 4 4,
    tpred := predOf (m.extractLsb' 60 4), tp := matOf m, vop := (v.extractLsb' 52 8).toNat, vt := vecOf v,
    vpred := predOf (v.extractLsb' 60 4), expand := bitOf en 1, brush := bitOf en 3, streamOut := bitOf en 4,
    streamIn := bitOf en 0, sealOn := bitOf en 5, done := if bitOf dn 31 then some (dn % 2 ^ 20) else none,
    offpkg := field bs 0x1C 2, inSrc := BitVec.ofNat 64 (field bs 0x20 8), inLen := field bs 0x28 4, inDone := 0,
    tau := 2, step := 0, stop := field bs 4 4, loads := 0, drained := 0, sets := 0, stopping := false }

/-- Rings that a stage names: WRB, the activation rings of its tines, and DRB with STREAM_OUT. -/
def stageRings (g : Stage) : List Nat :=
  let w := if g.tp.mode = 0 || g.tp.mode = 1 || g.tp.mode = 2 then [g.tp.wrb.toNat] else []
  w ++ (tinesOf g.tp.tm).map (arbOf g.tp) ++ (if g.streamOut then [g.tp.drb.toNat] else [])

/-- Subcodes of fault 0x08 that a descriptor raises (R121, R125), the lowest first. -/
def stgSubs (b : Nib) (q : StgReq) (bs : List Byte) : List Nat :=
  let g := stageOf q bs
  let m := BitVec.ofNat 64 (field bs 8 8)
  let v := field bs 0x10 8
  let vw := BitVec.ofNat 64 v
  let vRes := zeroAt vw 7 1 && zeroAt vw 0 4
  let vOk := if g.brush then vRes && vtplOk g.vop g.vt else v = 0 || (vRes && vtplOk g.vop g.vt)
  let mOk := mtplOk (m.extractLsb' 56 4).toNat (mtplStep g.tp) && !foBad g.tp.fo.toNat
  let e := if field bs 0 1 = 1 && enableOk (field bs 1 1) && stgReserved bs && mOk && vOk then [] else [0x01]
  let e := if (stageRings g).all fun r => (ringOf b r).valid then e else e ++ [0x04]
  if 1 ≤ g.q && g.q ≤ 256 && g.steps ≠ 0 && g.steps % (16 * g.q) = 0 then e else e ++ [0x05]

/-- Set or clear the stage's OFFPKG flags (R121). -/
def stageFlags (b : Nib) (mask : Nat) (on : Bool) : Nib :=
  (List.range 16).foldl (fun b r =>
    if bitOf mask r then setRing b r { ringOf b r with stageOff := on } else b) b

/-- stg sets out to start a stage: the cycles that follow read its descriptor and check it (R124). -/
def stageAsk (b : Nib) (a : W64) : Nib :=
  let q : StgReq := ⟨a, b.pc, b.cycle, (List.range 16).map fun r => (ringOf b r).head, none, false⟩
  setNibF (setNibF { b with stgReq := some q } Reg.NIB_STG_STATUS 0 0 1) Reg.NIB_STG_STATUS 1 1 0

/-- The descriptor is good: the stage starts (R124). -/
def stageStart (b : Nib) (q : StgReq) (bs : List Byte) : Nib :=
  let g := stageOf q bs
  let b := stageFlags { b with stgReq := none, stage := some g } g.offpkg true
  if g.expand then setNibF { b with exp := Expander.idle } Reg.NIB_EXP_STATUS 0 0 1 else b

/-- stgs: the stage ends after the group in progress (R126); one whose descriptor is still to be checked, after its first. -/
def stageStop (b : Nib) : Nib :=
  match b.stage with
  | none => setNibF { b with stgReq := b.stgReq.map fun q => { q with stopping := true } } Reg.NIB_STG_STATUS 1 1 1
  | some g =>
    let k := 16 * g.q
    let stop := Nat.min g.stop (Nat.max k ((g.step + k - 1) / k * k))
    setNibF { b with stage := some { g with stopping := true, stop := stop } } Reg.NIB_STG_STATUS 1 1 1

/-! ### Schedule (R122, R124) -/

/-- Format of the stage's m. -/
def stageM (g : Stage) : Nat := stepMacs g.tp.wf.toNat g.tp.af.toNat

/-- Parts of a stationary weight load: m of the weight format. -/
def stageParts (g : Stage) : Nat := macs g.tp.wf.toNat

/-- Stage cycle of the first step, counted from stg (R124). -/
def stageBase (g : Stage) : Nat :=
  match g.tp.mode.toNat with
  | 0 => 3 + stageParts g
  | 1 => 19
  | _ => 3

/-- The step that issues at stage cycle `t`. -/
def stepAt (g : Stage) (t : Nat) : Option Nat :=
  if stageBase g ≤ t ∧ t - stageBase g < g.stop then some (t - stageBase g) else none

/-- Slice of a step (R122). -/
def sliceOf (g : Stage) (s : Nat) : Nat := s / 16 % g.q

/-- The stationary load that issues at stage cycle `t`: tile number and part or column (R122, R124). -/
def loadAt (g : Stage) (t : Nat) : Option (Nat × Nat) :=
  let base := stageBase g
  match g.tp.mode.toNat with
  | 0 =>
    if 3 ≤ t ∧ t < base then some (0, t - 3)
    else if base < t then
      let s := t - base
      let i := s / 16
      if 1 ≤ s % 16 ∧ s % 16 ≤ stageParts g ∧ 16 * (i + 1) < g.stop then some (i + 1, s % 16 - 1) else none
    else none
  | 1 =>
    if 3 ≤ t ∧ t < base then some (0, t - 3)
    else if base ≤ t ∧ g.q > 1 then
      let s := t - base
      if 16 * (s / 16 + 1) < g.stop then some (s / 16 + 1, s % 16) else none
    else none
  | _ => none

/-- The row that is drained at stage cycle `t`: r of group g where its last update is first visible (R122). -/
def drainAt (g : Stage) (t : Nat) : Option Nat :=
  let d := stageBase g + stepLat (stageM g)
  if d ≤ t then
    let s := t - d
    if s < g.stop ∧ sliceOf g s + 1 = g.q then some (s % 16) else none
  else none

/-- Whether a step carries SWAP (R122). -/
def swapAt (g : Stage) (s : Nat) : Bool :=
  s % 16 = 0 && g.tp.mode ≠ 2 && !(g.tp.mode = 1 && g.q = 1 && s ≥ 16)

/-- Byte of vector `k` of the activation window of ring `r`, counted from the ring's rbset (R122). -/
def windowAt (g : Stage) (r k : Nat) : Nat := g.wins.getD r 0 + k * vecBytes g.tp.af.toNat

/-- Vector `k` of the activation window of ring `r`, wherever the ring's head stands now (R122). -/
def windowVec (b : Nib) (g : Stage) (r k : Nat) : OpVec :=
  actVec (setRing b r { ringOf b r with head := windowAt g r k }) r g.tp.af.toNat 0

/-- The activation vector that cycle `t` reads at each tine, by its number in the window: for a step in the
weight-stationary and output-stationary modes, for a column load in the activation-stationary mode. -/
def actAt (g : Stage) (t : Nat) : Option Nat :=
  if g.tp.mode = 1 then (loadAt g t).map fun l => 16 * (l.1 % g.q) + l.2
  else (stepAt g t).map fun s => 16 * sliceOf g s + s % 16

/-- What cycle `t` takes at the weight port. -/
def weightAt (g : Stage) (t : Nat) : Option WUse :=
  match g.tp.mode.toNat with
  | 0 => (loadAt g t).map fun l => WUse.tile l.2
  | 1 => (stepAt g t).map fun _ => WUse.vector
  | _ => (stepAt g t).map fun _ => WUse.slice (stageM g)

/-! ### Readiness (R34, R37, R175) -/

/-- Whether an unready weight port waits off-package (R37, R175). -/
def weightExt (s : State) (n r : Nat) : Bool :=
  let b := nibOf s n
  if viaExpander b then
    b.exp.out.isEmpty && (match expWaits s n with | some q => (ringOf b q).isExt | none => false)
  else (ringOf b r).isExt

/-- Causes of a freeze from unready ports: weight port, activation rings, drain queue. R37 does not say whether a full
drain queue is a port; it is none here: alone it leaves NIB_FRZ_EXT, and beside a port it does not keep the cycle out of
it (DESIGN CHOICE, log 124). -/
def frzOf (s : State) (n wr : Nat) (wp : Bool) (acts : List Nat) (dr : Bool) : Option Frz :=
  if wp || !acts.isEmpty || dr then
    some ⟨wp, !acts.isEmpty, dr,
      (wp || !acts.isEmpty) && (!wp || weightExt s n wr) && acts.all fun r => (ringOf (nibOf s n) r).isExt⟩
  else none

/-- What cycle `t` takes at the weight port, where the template's predicate lets the step execute (R74). -/
def weightUse (b : Nib) (g : Stage) (t : Nat) : Option WUse :=
  if g.tp.mode = 0 || predHolds b g.tpred then weightAt g t else none

/-- The activation vector that cycle `t` reads, likewise. -/
def actUse (b : Nib) (g : Stage) (t : Nat) : Option Nat :=
  if g.tp.mode = 1 || predHolds b g.tpred then actAt g t else none

/-- Activation rings of the stage's tines that lack vector `k` of the window. -/
def stageActs (b : Nib) (g : Stage) (t : Nat) : List Nat :=
  match actUse b g t with
  | none => []
  | some k =>
    ((tinesOf g.tp.tm).map (arbOf g.tp)).filter fun r =>
      (ringOf b r).head + (ringOf b r).fill < windowAt g r k + vecBytes g.tp.af.toNat

/-- Whether the weight port lacks what cycle `t` takes. -/
def stageWp (b : Nib) (g : Stage) (t : Nat) : Bool :=
  match weightUse b g t with
  | none => false
  | some u => !weightReady b g.expand g.tp.wrb.toNat g.tp.wf.toNat u

/-- Whether cycle `t` would push a row into a full queue whose head is destined for the well (R34). -/
def stageDr (b : Nib) (g : Stage) (t : Nat) : Bool :=
  (drainAt g t).isSome && (tinesOf g.tp.tm).any fun i => queueFull b i && !headToVec b i

/-- The tine whose full queue, with a head that waits for mpop, cycle `t` would push a row into (R36). -/
def stageOverflow (b : Nib) (g : Stage) (t : Nat) : Option Nat :=
  if (drainAt g t).isSome then (tinesOf g.tp.tm).find? fun i => queueFull b i && headToVec b i else none

/-- What freezes the stage's next cycle (R34); a port that loses its bank is not ready (R134). -/
def stageFrz (s : State) (n : Nat) (c : Cyc) : Option Frz :=
  let b := nibOf s n
  match b.stage with
  | none => none
  | some g =>
    let t := g.tau + 1
    let short := stageActs b g t
    let acts := if c.apLost && short.isEmpty && (actUse b g t).isSome then
        ((tinesOf g.tp.tm).map (arbOf g.tp)).take 1 else short
    frzOf s n g.tp.wrb.toNat (stageWp b g t || (c.wpLost && (weightUse b g t).isSome)) acts (stageDr b g t)

/-! ### One unfrozen cycle (R122) -/

/-- Accumulator updates of the stage that are now visible (R29). -/
def stageCommit (s : State) (n t : Nat) : State :=
  let b := nibOf s n
  let s := setNib s n { b with stagePend := b.stagePend.filter fun p => t < p.due }
  (b.stagePend.filter fun p => p.due ≤ t).foldl (fun s p => applyWr s n p.wr) s

/-- Change the active stage. -/
def onStage (b : Nib) (f : Stage → Stage) : Nib := { b with stage := b.stage.map f }

/-- Rows of a row set after BRUSH (R123): each with its codes and their format and its poison; the flags; the predicate
that vcmp writes. The row set stands in for VA, and VB, VC, SB and the predicate are those of the cycle in which it arrives.
Lanes that the predicate leaves out, and vcmp, which has no vector result, pass the row. -/
def brushSet (b : Nib) (g : Stage) (rows : List (Nat × DrainRow)) : List (Nat × DrainRow) × Nat × List Wr :=
  let va := g.vt.va.toNat
  let lanes := (rows.map fun p => (List.range 16).map fun j =>
    (16 * p.1 + j, (BitVec.allOnes 32 : W32), p.2.vals.getD j 0)).flatten
  let qs := rows.map fun p => (p.1, p.2.poison, true)
  let b1 := setV b va lanes qs
  let r := vecRes b1 g.vop g.vt (vecSel b1 g.vpred g.vop g.vt)
  if g.vop = 0x0A then (rows, r.flags, r.wrs)
  else
    let fmt := if g.vop = 0x30 then g.vt.fmt2.toNat else g.vt.fmt.toNat
    let out := r.wrs.foldl (fun b w => match w with | .v _ ls qs => setV b va ls qs | _ => b) b1
    let w := if g.vop = 0x30 then elemBits fmt else vecWidth fmt
    let es := elems out va w
    let ps := vpois out va
    (rows.map fun p => (p.1, { p.2 with
        vals := (List.range 16).map fun j => BitVec.ofNat 32 (es.getD (16 * p.1 + j) 0), src := fmt,
        poison := (List.range 16).any fun j => ps.getD ((16 * p.1 + j) * w / 512) false }), r.flags, [])

/-- The drain of cycle `t`: its rows form a row set, which passes BRUSH as it arrives (R115, R122, R123). -/
def stageDrain (b : Nib) (g : Stage) (t : Nat) : Nib :=
  match drainAt g t with
  | none => b
  | some r =>
    let k := b.drainSet
    let rows := (tinesOf g.tp.tm).map fun i =>
      (i, drainRow b i r g.tp.bank.toNat false g.tp.drb.toNat g.tp.fo.toNat g.tp.sat true k)
    let (rows, fl, wrs) := if g.brush then brushSet b g rows else (rows, 0, [])
    let b := wrs.foldl (fun b w => later b 1 w) (arith (pushRows { b with drainSet := k + 1 } rows) fl)
    onStage b fun g => { g with sets := g.sets + 1, drained := g.drained + 1 }

/-- The step of cycle `t` (R122). -/
def stageStep (s : State) (n : Nat) (g : Stage) (t k : Nat) (corrupt : BitVec 4) : State :=
  if !predHolds (nibOf s n) g.tpred then
    onNib s n fun b => bumpNib64 (onStage b fun g => { g with step := g.step + 1 }) Reg.NIB_STG_STEPS 1
  else
  let b := nibOf s n
  let b := if swapAt g k then swapTines b (tinesOf g.tp.tm) else b
  let wf := g.tp.wf.toNat
  let r := g.tp.wrb.toNat
  let f := { g.tp with row := BitVec.ofNat 4 (k % 16), init := g.tp.init && sliceOf g k = 0 }
  let xs := fun i => windowVec b g (arbOf g.tp i) (16 * sliceOf g k + k % 16)
  let wv := if g.tp.mode = 1 then portVector b r wf else ⟨0, 127, 127, false⟩
  let wc := if g.tp.mode = 2 then portCols b r wf (.slice (stageM g)) else []
  let outs := stepOuts b f (k % 16) 0 (weightSlice b g.expand r) xs wv wc
  let b := match weightAt g t with
    | some (.tile _) => b
    | some u => weightTake b g.expand r wf u
    | none => b
  let b := bumpNib64 (onStage b fun g => { g with step := g.step + 1 }) Reg.NIB_STG_STEPS 1
  applySteps (setNib s n b) n f outs corrupt (t + stepLat (stageM g)) true

/-- The stationary load of cycle `t` (R111, R112, R113). -/
def stageLoad (b : Nib) (g : Stage) (t : Nat) : Nib :=
  match loadAt g t with
  | none => b
  | some (i, p) =>
    let b := onStage b fun g => { g with loads := g.loads + 1 }
    if g.tp.mode = 0 then
      let r := g.tp.wrb.toNat
      let wf := g.tp.wf.toNat
      weightTake (loadTile b g.tp.tm wf p (portCols b r wf (.tile p))) g.expand r wf (.tile p)
    else
      (tinesOf g.tp.tm).foldl (fun b t =>
        loadColumn b t g.tp.af.toNat p (windowVec b g (arbOf g.tp t) (16 * (i % g.q) + p))) b

/-- One unfrozen cycle of the active stage (R122): what has become visible, the drain, the step, the load. -/
def stageAdvance (s : State) (n : Nat) (g : Stage) (corrupt : BitVec 4) : State :=
  let t := g.tau + 1
  let s := stageCommit (onNib s n fun b => onStage b fun g => { g with tau := t }) n t
  let s := onNib s n fun b => stageDrain b g t
  let s := match stepAt g t with
    | some k => stageStep s n g t k corrupt
    | none => s
  fenceCheck (onNib s n fun b => stageLoad b g t) n

/-- Whether every step has issued, every row has been drained, and no row of the stage is queued (R124, R126). -/
def stageOver (b : Nib) (g : Stage) : Bool :=
  g.step ≥ g.stop && g.drained ≥ g.stop / g.q && (tinesOf g.tp.tm).all fun t => (queueOf b t).all fun r => !r.stage

/-- Pop the activation windows (R122). -/
def popWindows (b : Nib) (g : Stage) : Nib :=
  (tinesOf g.tp.tm).foldl (fun b t => ringPop b (arbOf g.tp t) (16 * g.q * vecBytes g.tp.af.toNat)) b

/-- Tines that the active stage owns (R125). -/
def ownedTines (b : Nib) : BitVec 4 := match b.stage with | some g => g.tp.tm | none => 0

end Sys2Proof.Machine
end

