-- ==== Sys2Proof/Machine/XferOps.lean ====
section
/-!
DEFINITION. Transfers of a nib's transfer engine (R119, R120, R148, R153 to R155): issue, landing of a tag, the end of
a transfer, cancelling; and the end of a program that waits for them (R88).
-/
namespace Sys2Proof.Machine

/-- The tags of a transfer: its bytes in units of 2 KiB with the poison of their words (R153). -/
def mkTags : Nat → Nat → List Byte → List Bool → List Tag
  | 0, _, _, _ => []
  | _ + 1, _, [], _ => []
  | f + 1, o, b :: bs, ps =>
    ⟨o, (b :: bs).take 2048, ps.take 32, .flight⟩ :: mkTags f (o + 2048) ((b :: bs).drop 2048) (ps.drop 32)

/-- Parts of a transfer that travel on flows, with their offsets. -/
def mkMesh (s : State) (n x : Nat) : Nat → List (Nat × List (Nat × Nat)) → List MeshXfer
  | _, [] => []
  | o, (k, ls) :: rest =>
    if ls.isEmpty then mkMesh s n x (o + k) rest
    else ⟨n, x, o, k, mkLegs s k true ls, 0⟩ :: mkMesh s n x (o + k) rest

/-- A transfer is issued: its source bytes are taken, its tags are held, its parts stand at their flows, and its completion
signal takes its place among the signals of the nib (R119, R148, R262). -/
def issueXfer (s : State) (n : Nat) (src dst : Place) (len group : Nat) (stage : Bool) (sig : Option Signal) : State :=
  let b := nibOf s n
  let (bs, ps) := readPlace s src len
  let x : Xfer := { id := b.xferNo, group := group, stage := stage, cancelled := false, dst := dst,
                    tags := mkTags (len / 2048 + 1) 0 bs ps, late := b.late }
  let parts := (routeParts (len + 1) s src dst 0 len).getD []
  let held := match sig with
    | some g => b.held ++ [⟨g, x.flying, some x.id⟩]
    | none => b.held
  let s := setNib s n { b with xfers := b.xfers ++ [x], xferNo := b.xferNo + 1, held := held }
  { s with meshX := s.meshX ++ mkMesh s n x.id 0 parts }

/-- Bytes of a part that have left its last leg and its last crossing. -/
def MeshXfer.arrived (m : MeshXfer) : Nat :=
  match m.legs.reverse with
  | [] => m.len
  | l :: _ => m.len - l.unsent - m.exit

/-- Whether every byte `o .. o + k - 1` of a transfer has arrived over the mesh. -/
def arrivedAll (s : State) (n x o k : Nat) : Bool :=
  s.meshX.all fun m =>
    m.nib ≠ n || m.xfer ≠ x || decide (o + k ≤ m.off) || decide (m.off + m.len ≤ o)
      || decide (Nat.min (o + k) (m.off + m.len) - m.off ≤ m.arrived)

/-- A place `o` bytes further on; a ring stays. -/
def Place.plus (p : Place) (o : Nat) : Place :=
  match p with
  | .well n a => .well n (a + o)
  | .land d a => .land d (a + o)
  | .hbm a => .hbm (a + o)
  | .ring n r => .ring n r

/-- The nib that a place belongs to, where it belongs to one. -/
def Place.owner (p : Place) (n : Nat) : Nat :=
  match p with
  | .well m _ => m
  | .ring m _ => m
  | _ => n

/-- Poison of a tag's words with the words `bad` found bad on the way (R157). -/
def markBad (ps : List Bool) (bad : List Nat) : List Bool :=
  (List.range ps.length).map fun i => ps.getD i false || bad.contains i

/-- Tags of a ring transfer that have become visible in tag order are appended to the ring (R154). -/
def showTags (s : State) (pl : Place) (mark : Nat) : List Tag → State × List Tag
  | [] => (s, [])
  | t :: ts =>
    match t.st with
    | .done => let r := showTags s pl mark ts; (r.1, t :: r.2)
    | .hidden =>
      let r := showTags (writePlace s pl t.data t.poison mark) pl mark ts
      (r.1, { t with st := .done } :: r.2)
    | .flight => (s, t :: ts)

/-- The completion signal of a transfer that has ended is sent, unless a signal issued before the transfer is still held on its
channel; then it keeps its place (R119, R262). -/
def signalAfter (s : State) (n x : Nat) : State :=
  let b := nibOf s n
  match b.held.findIdx? fun h => h.comp = some x with
  | none => s
  | some i => match b.held[i]? with
    | some h => if firstOnChannel (b.held.take i) h then emit (setNib s n { b with held := eraseNth b.held i }) h.sig else s
    | none => s

/-- A transfer all of whose tags are done: it ends, and its signal is sent (R119); that of a cancelled one has gone with its
cancelling (R120). -/
def endXfer (s : State) (n : Nat) (x : Xfer) : State :=
  if x.tags.all fun t => t.st = .done then
    let s := onNib s n fun b => { b with xfers := b.xfers.filter fun y => y.id ≠ x.id }
    let s := { s with meshX := s.meshX.filter fun m => m.nib ≠ n || m.xfer ≠ x.id }
    signalAfter s n x.id
  else onNib s n fun b => { b with xfers := b.xfers.map fun y => if y.id = x.id then x else y }

/-- Rows that stream-out has still to write. -/
def rowsLeft (b : Nib) : Bool := (List.range 4).any fun t => (look [] b.drains t).any fun r => !r.toVec

/-- A nib whose halt has issued takes STATE 3 once its work in flight has completed (R88). -/
def finishHalt (s : State) (n : Nat) : State :=
  let b := nibOf s n
  if b.ending && b.st = 2 && tagsHeld b = 0 && b.stage.isNone && b.stgReq.isNone && !rowsLeft b then
    clusterRest (setNib s n { b with st := 3, ending := false }) (clusterOf n)
  else s

/-- Whether tag `k` of transfer `x` of nib `n` to a ring finds room beside what is held for others (R108). -/
def ringRoom (s : State) (n : Nat) (x : Xfer) (k : Nat) : Bool :=
  match x.dst with
  | .ring m r =>
    hiddenBytes x.tags (Nat.max k (hiddenEnd x.tags - 1)) + ringHeld s m r n x.id ≤ (ringOf (nibOf s m) r).room
  | _ => true

/-- A transfer to HBM whose last tag has landed forms the parity of the stripes that it covers whole (R227). -/
def parityAfter (s : State) (x : Xfer) : State :=
  match x.dst with
  | .hbm a => if x.tags.all fun t => t.st = .done then wholeStripes s a (x.tags.map fun t => t.data.length).sum else s
  | _ => s

/-- Tag `k` of transfer `x` lands (R119, R120, R154, R155). -/
def landTag (s : State) (n : Nat) (x : Xfer) (k : Nat) (bad : List Nat) : State :=
  match x.tags[k]? with
  | none => s
  | some t =>
    if t.st ≠ .flight || !arrivedAll s n x.id t.off t.data.length then s
    else if x.cancelled then
      endXfer s n { x with tags := setNth x.tags k { t with st := .done } }
    else if !ringRoom s n x k then s
    else
      let b := nibOf s n
      let mark := b.stagger + b.cycle - x.late
      let t := { t with poison := markBad t.poison bad }
      match x.dst with
      | .ring _ _ =>
        let r := showTags s x.dst mark (setNth x.tags k { t with st := .hidden })
        endXfer r.1 n { x with tags := r.2 }
      | _ =>
        let y := { x with tags := setNth x.tags k { t with st := .done } }
        endXfer (parityAfter (writePlace s (x.dst.plus t.off) t.data t.poison mark) y) n y

/-- xcancel: the transfers of a group that have not completed are cancelled, and their signals are not sent; tags that have
arrived in a ring but are not visible are discarded (R120, R155). -/
def cancelGroup (b : Nib) (g : Nat) : Nib :=
  let gone := (b.xfers.filter fun x => x.group = g && !x.stage).map (·.id)
  { b with
    held := b.held.filter fun h => match h.comp with | some x => !gone.contains x | none => true
    xfers := (b.xfers.map fun x =>
      if x.group = g && !x.stage then
        { x with cancelled := true,
                 tags := x.tags.map fun t => if t.st = .hidden then { t with st := .done } else t }
      else x).filter fun x => !(x.cancelled && x.tags.all fun t => t.st = .done) }

end Sys2Proof.Machine
end

