-- ==== Sys2Proof/Machine/Bundle.lean ====
section
/-!
DEFINITION. Issue of a bundle (R72 to R104, R128, R332): freezes, sync-slot waits, instruction faults, the effects of
the five slots, sequencing, counters and lateness.
-/
namespace Sys2Proof.Machine

/-! ### Which slots execute (R74) -/

/-- Operation of a slot other than the vector slot, where its predicate holds. -/
def slotOn {α : Type} (b : Nib) (x : Slot α) : Bool := predHolds b x.pred

/-- Lanes in which the vector slot executes. -/
def vecLanes (b : Nib) (x : Slot (Nat × VecF)) : List Bool :=
  match x.op with
  | some (op, f) => vecSel b x.pred op f
  | none => (List.range 64).map (predLane b x.pred)

/-- Whether the vector slot executes in some lane. -/
def vecOn (b : Nib) (x : Slot (Nat × VecF)) : Bool := (vecLanes b x).any id

/-! ### Faults of each slot (R101 to R103) -/

/-- A fault of a slot: code and NIB_FAULT_INFO. -/
abbrev SlotFault := Option (Nat × Nat)

/-- The first of several conditions that is a fault. -/
def firstFault : List SlotFault → SlotFault
  | [] => none
  | some f :: _ => some f
  | none :: fs => firstFault fs

/-- A fault where a condition holds. -/
def faultIf (c : Bool) (code info : Nat) : SlotFault := if c then some (code, info) else none

/-- Whether a control operation transfers control or sets up a loop (R81). -/
def isTransfer : Ctl → Bool
  | .bra _ => true
  | .jal _ => true
  | .jr _ => true
  | .loops _ _ => true
  | .loopi _ _ => true
  | _ => false

/-- Whether the present PC is the last bundle of an active loop body. -/
def atLoopEnd (b : Nib) : Bool := b.loops.any fun l => l.stop = b.pc

/-- Branch target as a signed number, of an offset from the present PC. -/
def branchTo (b : Nib) (off : BitVec 17) : Int := (b.pc : Int) + off.toInt

/-- Target of a taken branch, where the control operation is one (R85). -/
def branchTarget (b : Nib) : Ctl → Option Int
  | .bra off => some (branchTo b off)
  | .jal off => some (branchTo b off)
  | .jr sa => some ((sreg b sa.toNat).toNat : Int)
  | _ => none

/-- Loop that a control operation sets up: count and L (R83). -/
def loopSetup (b : Nib) : Ctl → Option (Nat × Nat)
  | .loops sc len => some ((sreg b sc.toNat).toNat, len.toNat + 1)
  | .loopi count len => some (count.toNat, len.toNat + 1)
  | _ => none

/-- Whether a target lies in the nib's code section: 13 bits of address, and within the bundles loaded (R80, R85). -/
def inCode (b : Nib) (t : Int) : Bool := 0 ≤ t && t < b.code.length && t < 8192

/-- Faults of the control slot, those of the bundle's place in delay slots and loops among them (R81, R83). -/
def ctlFault (b : Nib) (x : Slot Ctl) : SlotFault :=
  let delay := b.branch.isSome
  let bad := match x.op with | none => true | some o => !ctlOk o
  let on := slotOn b x
  firstFault
    [ faultIf (on && bad) 0x01 x.raw.toNat,
      faultIf (delay && (match x.op with | some o => isTransfer o | none => false)) 0x03 1,
      faultIf (delay && atLoopEnd b) 0x03 2,
      match x.op with
      | some o =>
        if !on then none
        else match branchTarget b o, loopSetup b o, o with
          | some t, _, _ =>
            if atLoopEnd b then some (0x03, 2) else if inCode b t then none else some (0x03, 4)
          | _, some (count, len), _ =>
            if count = 0 then none
            else
              let deep := b.loops.length ≥ 4
              let excess := match b.loops with | [] => false | l :: _ => decide (b.pc + len > l.stop)
              faultIf (deep || excess) 0x03 3
          | _, _, .trap code => some (0x06, code.toNat)
          | _, _, _ => none
      | none => none ]

/-- Weight port use of a matrix operation. -/
def matWeight (op : Nat) (f : MatF) : Option WUse :=
  match op with
  | 1 => some (.tile f.part.toNat)
  | 3 => if f.mode = 2 then some (.slice (stepMacs f.wf.toNat f.af.toNat)) else if f.mode = 1 && !f.tr then some .vector else none
  | _ => none

/-- Whether a matrix operation streams at the activation ports. -/
def matAct (op : Nat) (f : MatF) : Bool :=
  op = 2 || (op = 3 && (f.mode ≠ 1 || f.tr))

/-- Whether a matrix operation drains a row. -/
def matDrains (op : Nat) (f : MatF) : Bool := op = 4 || (op = 3 && f.dr)

/-- Rings that a matrix operation names (R106, R110): mmul names WRB and ARB whatever its mode streams. -/
def matRings (op : Nat) (f : MatF) : List Nat :=
  (if op = 1 ∨ op = 3 then [f.wrb.toNat] else [])
    ++ (if op = 2 ∨ op = 3 then (tinesOf f.tm).map (arbOf f) else [])
    ++ (if matDrains op f && !f.dest then [f.drb.toNat] else [])

/-- Whether a matrix operation uses a unit that the active stage owns (R125). -/
def matOwned (b : Nib) (op : Nat) (f : MatF) : Bool :=
  match b.stage with
  | none => false
  | some g => op ≠ 0 && ((f.tm &&& g.tp.tm) ≠ 0 || (matWeight op f).isSome)

/-- Faults of the matrix slot. -/
def matFault (b : Nib) (x : Slot (Nat × MatF)) : SlotFault :=
  if !slotOn b x then none
  else match x.op with
    | none => some (0x01, x.raw.toNat)
    | some (op, f) =>
      firstFault
        [ faultIf (!matOk op f) 0x01 x.raw.toNat,
          faultIf (matOwned b op f) 0x08 3,
          faultIf ((matRings op f).any fun r => !(ringOf b r).valid) 0x04 0x07,
          if matDrains op f then
            ((tinesOf f.tm).find? fun t => queueFull b t && headToVec b t).map fun t => (0x02, t)
          else none ]

/-- Faults of the vector slot (R89, R90, R93, R125). -/
def vecFault (b : Nib) (x : Slot (Nat × VecF)) : SlotFault :=
  if !vecOn b x then none
  else match x.op with
    | none => some (0x01, x.raw.toNat)
    | some (op, f) =>
      let owned := match b.stage with | some g => g.brush && op ≠ 0 | none => false
      let near := match b.topk with | some (c, p) => op = 0x2C && b.clk - c < p | none => false
      firstFault
        [ faultIf (!vecOk op f) 0x01 x.raw.toNat, faultIf owned 0x08 3, faultIf near 0x03 5 ]

/-- Address of sld and sst (R118). -/
def vecAddr (b : Nib) (f : StmF) : W64 := areg b f.aa.toNat + f.imm.signExtend 64

/-- Subcodes of xfer (R106, R118, R119, R148), and its ends. -/
def xferCheck (s : State) (n c : Nat) (a d : W64) (len need : Nat) : List Nat × Option (Place × Place) :=
  let b := nibOf s n
  let (ea, pa) := resolveAddr s n c a len false false
  let (ed, pd) := resolveAddr s n c d len false true
  let e := ea ++ ed ++ (if len = 0 || len > 65536 then [0x04] else [])
  let e := if tagsFree b < need then e ++ [0x05] else e
  match pa, pd with
  | some p, some q =>
    if e.isEmpty && (routeParts (len + 1) s p q 0 len).isNone then ([0x0B], some (p, q)) else (e, some (p, q))
  | _, _ => (e, none)

/-- Length of an xfer. -/
def xferLen (b : Nib) (f : StmF) : Nat := (sreg b f.sb.toNat).toNat % 2 ^ 17

/-- Tally identifier that an xfer with SIG names. -/
def xferTid (b : Nib) (f : StmF) : Option Nat :=
  if f.imm.getLsbD 8 then some ((sreg b f.sc.toNat).toNat % 2 ^ 20) else none

/-- Whether an rbset range overlaps another configured ring. -/
def overlaps (b : Nib) (r base size : Nat) : Bool :=
  (List.range 16).any fun q =>
    let x := ringOf b q
    q ≠ r && x.valid && x.base < base + size && base < x.base + x.size

/-- Subcodes of rbset (R106, R107, R118, R152). -/
def rbsetCheck (b : Nib) (f : StmF) : List Nat :=
  let a := (areg b f.aa.toNat).toNat
  let base := bits a 47 0
  let size := 2 ^ (f.imm.toNat % 32)
  (if bits a 63 60 ≠ 0 then [0x01] else [])
    ++ (if base + size > Config.wellBytes then [0x02] else [])
    ++ (if base % 64 ≠ 0 then [0x03] else [])
    ++ (if overlaps b f.rv.toNat base size then [0x09] else [])
    ++ (if (ringOf b f.rv.toNat).chain then [0x0D] else [])

/-- The ring that rbset configures, empty. -/
def rbsetRing (b : Nib) (f : StmF) : Ring :=
  { Ring.empty with valid := true, log2 := f.imm.toNat % 32, base := bits (areg b f.aa.toNat).toNat 47 0,
                    offpkg := f.imm.getLsbD 5, stageOff := (ringOf b f.rv.toNat).stageOff }

/-- Descriptor bytes at the well address of stg. -/
def stgBytes (b : Nib) (a : W64) : List Byte := readBytes b.well (bits a.toNat 47 0) 64

/-- Whether a stage is active, from the issue of its stg on (R125). -/
def stageActive (b : Nib) : Bool := b.stage.isSome || b.stgReq.isSome

/-- Faults of stg as it issues: its address, a stage that is active. -/
def stgFault (b : Nib) (a : W64) : SlotFault :=
  let o := bits a.toNat 47 0
  let e := (if bits a.toNat 63 60 ≠ 0 then [0x01] else []) ++ (if o + 64 > Config.wellBytes then [0x02] else [])
    ++ (if o % 64 ≠ 0 then [0x03] else [])
  match firstSub e with
  | some k => some (0x04, k)
  | none => faultIf (stageActive b) 0x08 2

/-- Faults that the check of a descriptor finds (R121, R124, R125): the descriptor, its stream-in source, its DONE tally. -/
def stgCheck (s : State) (n c : Nat) (q : StgReq) (bs : List Byte) : SlotFault :=
  match firstSub (stgSubs (nibOf s n) q bs) with
  | some k => some (0x08, k)
  | none =>
    let g := stageOf q bs
    firstFault
      [ if g.streamIn && g.inLen > 0 then
          let (e, p) := resolveAddr s n c g.inSrc g.inLen false false
          match firstSub e, p with
          | some k, _ => some (0x04, k)
          | none, some p => faultIf (routeParts (g.inLen + 1) s p (.ring n g.tp.wrb.toNat) 0 g.inLen).isNone 0x04 0x0B
          | none, none => none
        else none,
        match g.done with
        | some t => faultIf (resolveTid s c (some n) t false).isNone 0x05 t
        | none => none ]

/-- Faults of the stream slot. -/
def stmFault (s : State) (n c : Nat) (x : Slot (Nat × StmF)) : SlotFault :=
  let b := nibOf s n
  if !slotOn b x then none
  else match x.op with
    | none => some (0x01, x.raw.toNat)
    | some (op, f) =>
      if !stmOk op f then some (0x01, x.raw.toNat)
      else match op with
        | 1 =>
          let len := xferLen b f
          match firstSub (xferCheck s n c (areg b f.aa.toNat) (areg b f.ad.toNat) len ((len + 2047) / 2048)).1 with
          | some k => some (0x04, k)
          | none => match xferTid b f with
            | some t => faultIf (resolveTid s c (some n) t false).isNone 0x05 t
            | none => none
        | 2 => (firstSub (resolveAddr s n c (vecAddr b f) 256 true false).1).map fun k => (0x04, k)
        | 3 => (firstSub (resolveAddr s n c (vecAddr b f) 256 true true).1).map fun k => (0x04, k)
        | 4 => (firstSub (rbsetCheck b f)).map fun k => (0x04, k)
        | 5 =>
          (firstSub ((if (sreg b f.sb.toNat).toNat % 2 ^ 21 % 64 ≠ 0 then [0x03] else [])
            ++ (if (ringOf b f.rv.toNat).valid then [] else [0x07]))).map fun k => (0x04, k)
        | 6 => stgFault b (areg b f.aa.toNat)
        | 7 => faultIf (!stageActive b) 0x08 6
        | _ => none

/-- Identifier that a sync operation names, and whether it waits or tests (R127). -/
def synTid (b : Nib) : Syn → Option (Nat × Bool)
  | .nop => none
  | .tsig tid _ => some (tid.toNat, false)
  | .twait tid _ => some (tid.toNat, true)
  | .ttest tid _ => some (tid.toNat, true)
  | .tsigR sa _ => some ((sreg b sa.toNat).toNat % 2 ^ 20, false)
  | .twaitR sa _ => some ((sreg b sa.toNat).toNat % 2 ^ 20, true)
  | .ttestR sa _ _ => some ((sreg b sa.toNat).toNat % 2 ^ 20, true)
  | .coll _ tid => some (tid.toNat, false)

/-- Whether a sync operation is a test. -/
def isTest : Syn → Bool
  | .ttest _ _ => true
  | .ttestR _ _ _ => true
  | _ => false

/-- Count that a sync operation signals, waits for or tests. -/
def synCount (b : Nib) : Syn → Nat
  | .tsig _ n1 => n1.toNat + 1
  | .twait _ k1 => k1.toNat + 1
  | .ttest _ _ => 1
  | .tsigR _ sb => (sreg b sb.toNat).toNat % 2 ^ 16
  | .twaitR _ sb => (sreg b sb.toNat).toNat % 2 ^ 16
  | .ttestR _ sb _ => (sreg b sb.toNat).toNat % 2 ^ 16
  | _ => 0

/-- Faults of the sync slot (R127, R131, R255, R320, R330). -/
def synFault (s : State) (n c : Nat) (x : Slot Syn) : SlotFault :=
  let b := nibOf s n
  if !slotOn b x then none
  else match x.op with
    | none => some (0x01, x.raw.toNat)
    | some o =>
      if isTest o && exactMode s c then some (0x01, x.raw.toNat)
      else match synTid b o with
        | none => none
        | some (t, w) =>
          if (resolveTid s c (some n) t w).isNone then some (0x05, t)
          else match o with
            | .coll aa _ => collFault s n c (areg b aa.toNat)
            | _ => none

/-! ### Destination conflicts (R79, R92) -/

/-- A destination register that a slot names. -/
inductive Dest where
  | s (i : Nat)
  | a (i : Nat)
  | p (i : Nat)
  | v (i : Nat)
deriving DecidableEq, Repr

/-- Destinations of the control slot. -/
def ctlDest : Ctl → List Dest
  | .alu sd _ _ _ => [.s sd.toNat]
  | .immS _ sd _ _ => [.s sd.toNat]
  | .movi sd _ => [.s sd.toNat]
  | .movh sd _ => [.s sd.toNat]
  | .pset pd _ _ _ => [.p pd.toNat]
  | .plog pd _ _ _ => [.p pd.toNat]
  | .aadd ad _ _ _ => [.a ad.toNat]
  | .aaddi ad _ _ => [.a ad.toNat]
  | .aset ad _ _ => [.a ad.toNat]
  | .amv sd _ _ => [.s sd.toNat]
  | .jal _ => [.s 31]
  | .rdsys sd _ => [.s sd.toNat]
  | _ => []

/-- Destinations of the vector slot. -/
def vecDest (op : Nat) (f : VecF) : List Dest :=
  match op with
  | 0x00 => []
  | 0x0A => [.p f.pd.toNat]
  | 0x30 => if isMX f.fmt2.toNat then [.v f.vd.toNat, .s f.sb.toNat] else [.v f.vd.toNat]
  | 0x39 => [.s f.sb.toNat]
  | 0x3C => []
  | _ => [.v f.vd.toNat]

/-- Destinations of the sync slot. -/
def synDest : Syn → List Dest
  | .ttest _ pd => [.p pd.toNat]
  | .ttestR _ _ pd => [.p pd.toNat]
  | _ => []

/-- Destinations of each executing slot in the order control, matrix, vector, stream, sync. R79 does not say whether a slot
whose predicate does not hold still names its destination; here it names none (DESIGN CHOICE, log 125). -/
def dests (b : Nib) (x : Bundle) : List (List Dest) :=
  [ if slotOn b x.ctl then (match x.ctl.op with | some o => ctlDest o | none => []) else [],
    if slotOn b x.mat then (match x.mat.op with | some (5, f) => [.v f.vd.toNat] | _ => []) else [],
    if vecOn b x.vec then (match x.vec.op with | some (op, f) => vecDest op f | none => []) else [],
    if slotOn b x.stm then (match x.stm.op with | some (2, f) => [.v f.rv.toNat] | _ => []) else [],
    if slotOn b x.syn then (match x.syn.op with | some o => synDest o | none => []) else [] ]

/-- Whether slot `i` names a destination that an earlier slot names: the later slot faults (R79). -/
def conflictAt (ds : List (List Dest)) (i : Nat) : Bool :=
  (ds.getD i []).any fun d => (ds.take i).any fun e => e.contains d

/-- Faults of a bundle: slot, code, information, in the order of R103. -/
def bundleFaults (s : State) (n c : Nat) (x : Bundle) : List (Nat × Nat × Nat) :=
  let b := nibOf s n
  let ds := dests b x
  let fs := [(ctlFault b x.ctl, x.ctl.raw), (matFault b x.mat, x.mat.raw), (vecFault b x.vec, x.vec.raw),
    (stmFault s n c x.stm, x.stm.raw), (synFault s n c x.syn, x.syn.raw)]
  (List.range 5).filterMap fun i =>
    let (f, raw) := fs.getD i (none, 0)
    match f with
    | some (code, info) => some (i, code, info)
    | none => if conflictAt ds i then some (i, 0x01, raw.toNat) else none

/-! ### Freezes (R34, R37) -/

/-- What freezes the matrix slot: unready ports and full drain queues. -/
def matFrz (s : State) (n : Nat) (x : Slot (Nat × MatF)) (c : Cyc) : Option Frz :=
  let b := nibOf s n
  match x.op with
  | some (op, f) =>
    if !slotOn b x || !matOk op f || (matRings op f).any (fun r => !(ringOf b r).valid) || matOwned b op f then none
    else
      let r := f.wrb.toNat
      let wp := match matWeight op f with
        | some u => c.wpLost || !weightReady b false r f.wf.toNat u
        | none => false
      let rs := if matAct op f then (tinesOf f.tm).map (arbOf f) else []
      let short := rs.filter fun q => (ringOf b q).avail < vecBytes f.af.toNat
      let acts := if c.apLost && short.isEmpty then rs.take 1 else short
      let dr := matDrains op f && (tinesOf f.tm).any fun t => queueFull b t && !headToVec b t
      frzOf s n r wp acts dr
  | none => none

/-- Two sets of causes in one cycle. -/
def Frz.join (a b : Option Frz) : Option Frz :=
  match a, b with
  | some x, some y => some ⟨x.wp || y.wp, x.ap || y.ap, x.dr || y.dr,
      (if x.wp || x.ap then x.ext else true) && (if y.wp || y.ap then y.ext else true)
        && (x.wp || x.ap || y.wp || y.ap)⟩
  | some x, none => some x
  | none, y => y

/-- Rings whose lack of bytes holds a bundle, and whether the nib's own units hold it (R332). -/
def heldBy (s : State) (n : Nat) (x : Bundle) (z : Frz) : List Nat × Bool :=
  let b := nibOf s n
  let m := match x.mat.op with
    | some (op, f) =>
      (if z.wp && (matWeight op f).isSome then [f.wrb.toNat] else [])
        ++ (if z.ap && matAct op f then (tinesOf f.tm).map (arbOf f) else [])
    | none => []
  let g := match b.stage with
    | some g =>
      (if z.wp then (if g.expand then (expWaits s n).toList else [g.tp.wrb.toNat]) else [])
        ++ (if z.ap then (tinesOf g.tp.tm).map (arbOf g.tp) else [])
    | none => []
  (m ++ g, z.dr || (z.wp && viaExpander b && (expWaits s n).isNone))

/-- A frozen cycle is counted in NIB_CYCLE and in the freeze counters (R37, R78). -/
def countFrz (b : Nib) (z : Frz) (k : Nat) : Nib :=
  let b := { b with cycle := satAdd (2 ^ 64 - 1) b.cycle k }
  let b := bumpNib64 b Reg.NIB_FRZ_TOTAL k
  let b := if z.wp then bumpNib64 b Reg.NIB_FRZ_WP k else b
  let b := if z.ap then bumpNib64 b Reg.NIB_FRZ_AP k else b
  let b := if z.dr then bumpNib64 b Reg.NIB_FRZ_DR k else b
  if z.ext then bumpNib64 b Reg.NIB_FRZ_EXT k else b

/-- A cycle held by a wait (R78, R128). -/
def countWait (b : Nib) (k : Nat) : Nib :=
  { b with cycle := satAdd (2 ^ 64 - 1) b.cycle k, waitCyc := satAdd (2 ^ 64 - 1) b.waitCyc k }

/-- The hold of a bundle that has not issued: the present one, or a new one from this cycle. -/
def holdOf (b : Nib) (x : Bundle) : Hold :=
  match b.hold with
  | some h => h
  | none => ⟨x, b.cycle, [], false, 0, none, false, none⟩

/-- The bundle is frozen in this cycle. -/
def holdFrz (s : State) (n : Nat) (x : Bundle) (z : Frz) : State :=
  let (rs, own) := heldBy s n x z
  onNib s n fun b =>
    let h := holdOf b x
    countFrz { b with hold := some { h with rings := h.rings ++ rs, own := h.own || own, frz := some z } } z 1

/-- The bundle is held by a wait in this cycle. -/
def holdWait (s : State) (n : Nat) (x : Bundle) : State :=
  onNib s n fun b => countWait { b with hold := some { holdOf b x with frz := none, waited := true } } 1

/-! ### Waits of the sync slot (R128, R130, R251, R262) -/

/-- The wait, test or held signal that a bundle's sync slot brings. -/
inductive Wait where
  | none
  | own (t : TalRef) (k : Nat)
  | remote (t : TalRef) (k : Nat) (test : Bool)
  | sigFull
deriving DecidableEq, Repr

/-- What the sync slot waits for, where it names a mapped tally. -/
def waitOf (s : State) (n c : Nat) (x : Slot Syn) : Wait :=
  let b := nibOf s n
  if !slotOn b x then .none
  else match x.op with
    | none => .none
    | some o =>
      match synTid b o with
      | none => .none
      | some (t, w) =>
        let k := synCount b o
        match resolveTid s c (some n) t w with
        | some (.here (.nib m i)) =>
          if w then
            if isTest o then (if exactMode s c || m = n then .none else .remote (.nib m i) k true)
            else if k = 0 then .none
            else if m = n then .own (.nib m i) k else .remote (.nib m i) k false
          else (match o with
            | .coll _ _ => .none
            | _ => if k > 0 && heldSignals b ≥ 16 then .sigFull else .none)
        | some (.here (.hub h)) =>
          if w then
            if isTest o then (if exactMode s c then .none else .remote (.hub h) k true)
            else if k = 0 then .none else .remote (.hub h) k false
          else (match o with
            | .coll _ _ => .none
            | _ => if k > 0 && heldSignals b ≥ 16 then .sigFull else .none)
        | some (.away _ _ _) => if !w && k > 0 && heldSignals b ≥ 16 then .sigFull else .none
        | none => .none

/-- NIB_TAL_WAIT and NIB_TAL_WAIT_K of a wait that holds issue (R271). -/
def showWait (s : State) (n : Nat) (x : Slot Syn) : State :=
  onNib s n fun b =>
    match x.op with
    | some o =>
      match synTid b o with
      | some (t, _) => { b with wait := { b.wait with valid := true, tid := t, k := synCount b o } }
      | none => b
    | none => b

/-- Whether the wait of a nib has been granted or answered. A wait that has come to the head of its tally's queue, because
the one before it was withdrawn, is served (R251, R270). -/
def replied (s : State) (n : Nat) : Bool × State :=
  if (nibOf s n).wait.reply.isSome then (true, s)
  else match s.waits.find? fun w => w.who = n with
    | some w =>
      let s := serve (s.waits.length + 1) s w.tal
      ((nibOf s n).wait.reply.isSome, s)
    | none => (false, s)

/-- Whether the wait of a bundle has been granted or answered, or needs no grant in this cycle; a wait that has not
been sent yet sets out. -/
def waitStep (s : State) (n : Nat) (x : Bundle) (w : Wait) : Bool × State :=
  let b := nibOf s n
  match w with
  | .none => (true, s)
  | .sigFull => (false, showWait s n x.syn)
  | .own t k =>
    if b.wait.queued then replied s n
    else
      let s := showWait s n x.syn
      let s := onNib s n fun b => { b with wait := { b.wait with queued := true, granted := false, reply := none } }
      let s := enqueue s ⟨t, n, k, false⟩
      ((nibOf s n).wait.reply.isSome, s)
  | .remote _ _ _ =>
    if b.wait.queued then replied s n
    else
      let s := showWait s n x.syn
      let s := onNib s n fun b => { b with wait := { b.wait with queued := true, granted := false, reply := none } }
      (false, { s with waitsOut := s.waitsOut ++ [n] })

/-! ### Effects of the slots -/

/-- Effects of the control slot but sequencing. `b0` is the nib as it stands at issue. -/
def doCtl (s : State) (n c : Nat) (b0 : Nib) (o : Ctl) : State :=
  let wr := fun lam w => onNib s n fun b => later b lam w
  match o with
  | .alu sd sa sb func =>
    wr (aluLat func.toNat) (.s sd.toNat (aluFn func.toNat (sreg b0 sa.toNat) (sreg b0 sb.toNat)))
  | .immS op sd sa imm => wr 1 (.s sd.toNat (immFn op.toNat (sreg b0 sa.toNat) imm))
  | .movi sd imm => wr 1 (.s sd.toNat (imm.signExtend 32))
  | .movh sd imm => wr 1 (.s sd.toNat (imm ++ (sreg b0 sd.toNat).extractLsb' 0 16))
  | .pset pd sa sb cond =>
    wr 1 (.p pd.toNat (BitVec.allOnes 64) (allBits (condFn cond.toNat (sreg b0 sa.toNat) (sreg b0 sb.toNat))))
  | .plog pd pa pb pfn =>
    wr 1 (.p pd.toNat (BitVec.allOnes 64) (plogFn pfn.toNat (preg b0 pa.toNat) (preg b0 pb.toNat)))
  | .aadd ad aa sb sh =>
    wr 1 (.a ad.toNat (areg b0 aa.toNat + ((sreg b0 sb.toNat).signExtend 64 <<< sh.toNat)))
  | .aaddi ad aa imm => wr 1 (.a ad.toNat (areg b0 aa.toNat + imm.signExtend 64))
  | .aset ad sa half => wr 1 (.aHalf ad.toNat half (sreg b0 sa.toNat))
  | .amv sd aa half =>
    wr 1 (.s sd.toNat ((areg b0 aa.toNat).extractLsb' (if half then 32 else 0) 32))
  | .jal _ => wr 1 (.s 31 (BitVec.ofNat 32 (b0.pc + 4)))
  | .rdsys sd sel =>
    let cyc : W64 := BitVec.ofNat 64 b0.cycle
    let v : W32 := match sel.toNat with
      | 0 => cyc.extractLsb' 0 32
      | 1 => b0.latch.getD (cyc.extractLsb' 32 32)
      | 2 => BitVec.ofNat 32 ((indexOfNib s c n).getD 0)
      | 3 => BitVec.ofNat 32 n
      | 4 => BitVec.ofNat 32 c
      | 5 => BitVec.ofNat 32 (packageIndex s c)
      | _ => match b0.loops with | l :: _ => BitVec.ofNat 32 l.remaining | [] => 0
    onNib s n fun b =>
      let b := later b 1 (.s sd.toNat v)
      match sel.toNat with
      | 0 => { b with latch := some (cyc.extractLsb' 32 32) }
      | 1 => { b with latch := none }
      | _ => b
  | _ => s

/-- Consume the vectors that a step took at the activation ports. -/
def takeActs (b : Nib) (f : MatF) : Nib :=
  (tinesOf f.tm).foldl (fun b t => portTake b (arbOf f t) (vecBytes f.af.toNat)) b

/-- Effects of the matrix slot. -/
def doMat (s : State) (n : Nat) (b0 : Nib) (op : Nat) (f : MatF) (c : Cyc) : State :=
  let wf := f.wf.toNat
  let r := f.wrb.toNat
  let act := fun t => actVec b0 (arbOf f t) f.af.toNat (ringOf b0 (arbOf f t)).rd
  match op with
  | 1 =>
    let u := WUse.tile f.part.toNat
    onNib s n fun b => weightTake (loadTile b f.tm wf f.part.toNat (portCols b0 r wf u)) false r wf u
  | 2 =>
    onNib s n fun b =>
      takeActs ((tinesOf f.tm).foldl (fun b t => loadColumn b t f.af.toNat f.row.toNat (act t)) b) f
  | 3 =>
    let b := nibOf s n
    let b := if f.dr then
        drainRows b (tinesOf f.tm) f.drow.toNat f.dbank.toNat f.dest f.drb.toNat f.fo.toNat f.sat false else b
    let b := if f.swap then swapTines b (tinesOf f.tm) else b
    let wv := if f.mode = 1 && !f.tr then portVector b0 r wf else ⟨0, 127, 127, false⟩
    let wc := if f.mode = 2 then portCols b0 r wf (.slice (stepMacs wf f.af.toNat)) else []
    let outs := stepOuts b f f.row.toNat f.part.toNat (weightSlice b0 false r) act wv wc
    let b := if matAct op f then takeActs b f else b
    let b := match matWeight op f with | some u => weightTake b false r wf u | none => b
    applySteps (setNib s n b) n f outs c.corrupt (b0.clk + stepLat (stepMacs wf f.af.toNat)) false
  | 4 =>
    onNib s n fun b =>
      drainRows b (tinesOf f.tm) f.drow.toNat f.dbank.toNat f.dest f.drb.toNat f.fo.toNat f.sat false
  | 5 =>
    onNib s n fun b =>
      let (ls, qs, b, e) := popRows b (tinesOf f.tm)
      let b := if e then setNibF b Reg.NIB_MTX_STATUS 0 0 1 else b
      later b 1 (.v f.vd.toNat ls qs)
  | _ => s

/-- Effects of the vector slot (R90). -/
def doVec (s : State) (n : Nat) (b0 : Nib) (op : Nat) (f : VecF) (sel : List Bool) : State :=
  if op = 0x00 then s
  else if op = 0x3C then
    absorb s n (((vbytes b0 f.va.toNat).drop (64 * f.q.toNat)).take 64) ((vpois b0 f.va.toNat).getD f.q.toNat false)
  else
    let r := vecRes b0 op f sel
    onNib s n fun b =>
      let b := r.wrs.foldl (fun b w => later b (vecLat op f) w) b
      let b := if op = 0x2C then { b with topk := some (b0.clk, f.passes.toNat + 1) } else b
      arith b r.flags

/-- Effects of the stream slot (R118). -/
def doStm (s : State) (n c : Nat) (b0 : Nib) (op : Nat) (f : StmF) : State :=
  match op with
  | 1 =>
    let len := xferLen b0 f
    match (xferCheck s n c (areg b0 f.aa.toNat) (areg b0 f.ad.toNat) len 0).2 with
    | none => s
    | some (p, q) =>
      let sig := match xferTid b0 f with
        | some t => (resolveTid s c (some n) t false).map fun d =>
            (⟨d, 1, c, (ctxOf s c).gen, ideal b0⟩ : Signal)
        | none => none
      issueXfer s n p q len (f.imm.toNat % 16) false sig
  | 2 =>
    match (resolveAddr s n c (vecAddr b0 f) 256 true false).2 with
    | none => s
    | some p =>
      let (bs, ps) := readPlace s p 256
      let ls := (List.range 64).map fun l => (l, BitVec.allOnes 32, (BitVec.ofNat 32 (field bs (4 * l) 4) : W32))
      let qs := (List.range 4).map fun q => (q, ps.getD q false, true)
      onNib s n fun b => later b 4 (.v f.rv.toNat ls qs)
  | 3 =>
    match (resolveAddr s n c (vecAddr b0 f) 256 true true).2 with
    | none => s
    | some p =>
      let bs := vbytes b0 f.rv.toNat
      let ps := vpois b0 f.rv.toNat
      onNib s n fun b =>
        match p with
        | .ring m r => later b 1 (.append m r bs ps)
        | _ => later b 2 (.bytes p bs ps)
  | 4 => onNib s n fun b => later b 1 (.ringCfg f.rv.toNat (rbsetRing b0 f))
  | 5 => onNib s n fun b => later b 1 (.ringPop f.rv.toNat ((sreg b0 f.sb.toNat).toNat % 2 ^ 21))
  | 6 => onNib s n fun b => stageAsk b (areg b0 f.aa.toNat)
  | 7 => onNib s n stageStop
  | 8 => onNib s n fun b => cancelGroup b (f.imm.toNat % 16)
  | _ => s

/-- A nib's wait has been granted: where it names the tally of RIB_ADMIT_TALLY, the nib's further transfers take the new set
of a switch in resident mode (R218). -/
def waited (s : State) (n : Nat) (d : SigDst) (k : Nat) : State :=
  if k ≠ 0 && resolveTid s (ribCtx s) none (getF s Reg.RIB_ADMIT_TALLY 19 0) false = some d then onNewSet s [n] else s

/-- Effects of the sync slot (R127 to R131). A wait has been granted before. -/
def doSyn (s : State) (n c : Nat) (b0 : Nib) (o : Syn) : State :=
  match synTid b0 o with
  | none => s
  | some (t, w) =>
    match resolveTid s c (some n) t w with
    | none => s
    | some d =>
      let test := fun (pd : BitVec 3) =>
        match d with
        | .here (.nib m i) =>
          if m = n then
            onNib s n fun b => later b 2 (.p pd.toNat (BitVec.allOnes 64)
              (allBits (decide ((talOf s (.nib m i)).count ≥ synCount b0 o))))
          else onNib s n fun b => later b 1 (.p pd.toNat (BitVec.allOnes 64) (allBits (b0.wait.reply.getD false)))
        | _ => onNib s n fun b => later b 1 (.p pd.toNat (BitVec.allOnes 64) (allBits (b0.wait.reply.getD false)))
      match o with
      | .tsig _ _ => nibSignal s n c d (synCount b0 o)
      | .tsigR _ _ => nibSignal s n c d (synCount b0 o)
      | .ttest _ pd => test pd
      | .ttestR _ _ pd => test pd
      | .coll aa _ => collIssue s n c (areg b0 aa.toNat) d
      | .twait _ _ => waited s n d (synCount b0 o)
      | .twaitR _ _ => waited s n d (synCount b0 o)
      | .nop => s

/-! ### Sequencing (R80 to R83) -/

/-- PC and loop stack after a bundle that is no branch's last delay bundle and no loop set-up (R83). -/
def advance : List Loop → Nat → List Loop × Nat
  | [], pc => ([], pc + 1)
  | l :: ls, pc =>
    if pc = l.stop then
      if l.remaining > 1 then ({ l with remaining := l.remaining - 1 } :: ls, l.start)
      else advance ls pc
    else (l :: ls, pc + 1)

/-- Active loops whose body contains a PC. -/
def keepLoops (ls : List Loop) (pc : Nat) : List Loop := ls.filter fun l => l.start ≤ pc && pc ≤ l.stop

/-- Sequencing after a bundle has issued (R80, R83). `o`: the control operation where it executes. -/
def sequence (b : Nib) (o : Option Ctl) : Nib :=
  match b.branch with
  | some (t, 1) => { b with pc := t % 8192, branch := none, loops := keepLoops b.loops t }
  | some (t, k) =>
    let (ls, pc) := advance b.loops b.pc
    { b with branch := some (t, k - 1), loops := ls, pc := pc % 8192 }
  | none =>
    match o.bind (branchTarget b), o.bind (loopSetup b) with
    | some t, _ =>
      let (ls, pc) := advance b.loops b.pc
      { b with branch := some (t.toNat, 3), loops := ls, pc := pc % 8192 }
    | _, some (0, len) => { b with pc := (b.pc + len + 1) % 8192 }
    | _, some (count, len) =>
      { b with loops := ⟨b.pc + 1, b.pc + len, count⟩ :: b.loops, pc := (b.pc + 1) % 8192 }
    | _, _ =>
      let (ls, pc) := advance b.loops b.pc
      { b with loops := ls, pc := pc % 8192 }

/-! ### Issue -/

/-- Lateness after the issue of a bundle (R332). -/
def newLate (b : Nib) : Nat :=
  match b.hold with
  | none => b.late
  | some h =>
    let now := b.stagger + b.cycle
    let ideal := Nat.max (b.stagger + h.due - b.late) h.stamp
    let ideal := h.rings.foldl (fun m r => Nat.max m (ringOf b r).mark) ideal
    let ideal := if h.own then Nat.max ideal (now - b.late) else ideal
    now - ideal

/-- NIB_FAULT and the registers that go with it, of a bundle at `pc` that issued in cycle `cyc` (R104). -/
def faultRegs (b : Nib) (slot code info : Nat) (multi : Bool) (pc cyc : Nat) : Nib :=
  let w := 1 + (if multi then 2 else 0) + 256 * code + 65536 * slot
  let b := setNibReg (setNibReg (setNibReg b Reg.NIB_FAULT (BitVec.ofNat 32 w)) Reg.NIB_FAULT_PC (BitVec.ofNat 32 pc))
    Reg.NIB_FAULT_INFO (BitVec.ofNat 32 info)
  setNib64 b Reg.NIB_FAULT_CYC cyc

/-- A fault of the bundle at `pc` stops the nib, which sends a halt to its context (R102, R126). -/
def faultHalt (s : State) (n c code info pc : Nat) : State :=
  raiseHalt (haltNib s n 4) 0x20 1 c n (code + 256 * (pc % 8192) + 2 ^ 32 * (info % 2 ^ 32))

/-- The fault of a bundle is recorded and the nib stops (R101 to R103, R126). The bundle has issued (R102), so it counts
in NIB_ISSUED and NIB_CYCLE. -/
def takeFault (s : State) (n c : Nat) (slot code info : Nat) (multi : Bool) : State :=
  let b := nibOf s n
  let b' := { faultRegs b slot code info multi b.pc b.cycle with
                cycle := satAdd (2 ^ 64 - 1) b.cycle 1, clk := b.clk + 1, late := newLate b, lastIssue := s.ftc }
  faultHalt (setNib s n b') n c code info b.pc

/-- A fault that a stage raises after its stg has issued, recorded as one of the stg: a descriptor that fails its check
(R124, R125), a drain that overflows (R36) (log 21). -/
def stageFault (s : State) (n c code info pc cyc : Nat) : State :=
  fenceCheck (faultHalt (onNib s n fun b => faultRegs b 3 code info false pc cyc) n c code info pc) n

/-- halt: nothing more issues, what has issued completes (R88). -/
def takeHalt (s : State) (n : Nat) : State :=
  finishHalt (raiseAllChecks (commitAll (onNib s n fun b => { b with ending := true }) n) n) n

/-- The five slots of a bundle take effect, each from the registers as they stand at issue (R76). A signal covers the
transfers issued before its own bundle (R129). -/
def runSlots (s : State) (n c : Nat) (x : Bundle) (cy : Cyc) : State :=
  let b0 := nibOf s n
  let s := match x.mat.op with
    | some (op, f) => if slotOn b0 x.mat then doMat s n b0 op f cy else s
    | none => s
  let s := match x.vec.op with
    | some (op, f) => if vecOn b0 x.vec then doVec s n b0 op f (vecLanes b0 x.vec) else s
    | none => s
  let s := match x.syn.op with
    | some o => if slotOn b0 x.syn then doSyn s n c b0 o else s
    | none => s
  let s := match x.stm.op with
    | some (op, f) => if slotOn b0 x.stm then doStm s n c b0 op f else s
    | none => s
  match x.ctl.op with
  | some o => if slotOn b0 x.ctl then doCtl s n c b0 o else s
  | none => s

/-- Counters, sequencing and lateness of a bundle that has issued, with the control operation that executed. -/
def finishIssue (s : State) (n : Nat) (o : Option Ctl) : State :=
  let now := s.ftc
  onNib s n fun b =>
    let b := { b with late := newLate b, hold := none, lastIssue := now,
                      wait := { b.wait with valid := false, granted := false, queued := false, reply := none } }
    sequence { b with clk := b.clk + 1, cycle := satAdd (2 ^ 64 - 1) b.cycle 1 } o

/-- The control operation of a bundle, where it executes. -/
def ctlOn (b : Nib) (x : Bundle) : Option Ctl := if slotOn b x.ctl then x.ctl.op else none

/-- A tally takes back what a wait has subtracted. -/
def restoreTal (s : State) (t : TalRef) (k : Nat) : State :=
  let v := talOf s t
  setTal s t { v with count := Nat.min 0xFFFF (v.count + k) }

/-- A granted wait of a bundle that faults is given back, wherever its tally lies: the bundle has no effect (R102). -/
def giveBack (s : State) (w : Wait) : State :=
  match w with
  | .own t k => restoreTal s t k
  | .remote t k false => restoreTal s t k
  | _ => s

/-- A bundle issues: it faults, or takes effect; at its end the nib may be fenced (R46, R76, R102, R103). -/
def issue (s : State) (n c : Nat) (x : Bundle) (cy : Cyc) (w : Wait) : State :=
  match bundleFaults s n c x with
  | (slot, code, info) :: rest => fenceCheck (takeFault (giveBack s w) n c slot code info (!rest.isEmpty)) n
  | [] =>
    let o := ctlOn (nibOf s n) x
    let s := finishIssue (runSlots s n c x cy) n o
    let s := if o = some .halt then takeHalt s n else s
    fenceCheck s n

/-- Whether a wait would be granted in this cycle without being queued: none stands before it and the count suffices. -/
def grantNow (s : State) (w : Wait) : Bool :=
  match w with
  | .own t k => !(s.waits.any fun v => v.tal = t) && (talOf s t).count ≥ k
  | _ => false

/-- What banks and ECC bring in a cycle: accesses lost to another port (R134), words of the well, of the landing area or of
other wells found bad (R157). -/
def wellCycle (s : State) (n : Nat) (cy : Cyc) : State :=
  let s := wellEvents s [⟨n, cy.lost, cy.wellBad, cy.wellCorr⟩]
  let s := if cy.landBad.isEmpty then s else landFaults s n cy.landBad
  wellEvents s cy.wells

/-- One cycle of a nib that is to issue bundle `x` (R34, R78, R128): it is frozen, held by its wait, faults, or
issues. -/
def cycleOf (s : State) (n c : Nat) (x : Bundle) (cy : Cyc) : State :=
  let s := commit (wellCycle s n cy) n
  match Frz.join (matFrz s n x.mat cy) (stageFrz s n cy) with
  | some z => heldCheck (holdFrz s n x z) n
  | none =>
    let w := waitOf s n c x.syn
    if !(nibOf s n).wait.queued && grantNow s w && !(bundleFaults s n c x).isEmpty then issue s n c x cy .none
    else
      let (go, s) := waitStep s n x w
      if go then issue s n c x cy w else heldCheck (holdWait s n x) n

/-- The bundle due at the PC: the one that is held, or the one fetched (R72, R74); fetch beyond the code section gives
a bundle that does nothing. -/
def dueBundle (b : Nib) : Bundle :=
  match b.hold with
  | some h => h.b
  | none => bundleOf (b.code.getD b.pc 0)

/-- Whether a nib can issue: it runs and no halt has issued in it. -/
def running (b : Nib) : Bool := b.st = 2 && !b.ending

/-- A cycle of nib `n` with bundle `x`. A nib that has issued halt and still runs issues nothing, and its NIB_CYCLE
counts, with the freeze counters where its stage freezes it (R37, R78). A nib that does not run, or that no context holds,
does nothing. -/
def nibCycle (s : State) (n : Nat) (x : Bundle) (cy : Cyc) : State :=
  if running (nibOf s n) then
    match ctxOfNib s n with
    | some c => cycleOf s n c x cy
    | none => s
  else if (nibOf s n).st = 2 then
    match stageFrz s n cy with
    | some z => onNib s n fun b => countFrz b z 1
    | none => onNib s n fun b => { b with cycle := satAdd (2 ^ 64 - 1) b.cycle 1 }
  else s

/-- A cycle of nib `n` whose bundle its ECC has found uncorrectable: frozen, or the fault 0x07 (R101 to R103). -/
def badFetch (s : State) (n : Nat) (syn : W32) (cy : Cyc) : State :=
  match ctxOfNib s n with
  | none => s
  | some c =>
    let s := commit (wellCycle s n cy) n
    match stageFrz s n cy with
    | some z =>
      heldCheck (onNib (holdFrz s n (bundleOf 0) z) n fun b => { b with hold := b.hold.map fun h => { h with ecc := some syn } }) n
    | none => fenceCheck (takeFault s n c 7 0x07 syn.toNat false) n

/-- A cycle of nib `n` with the bundle that is held. -/
def heldCycle (s : State) (n : Nat) (h : Hold) (cy : Cyc) : State :=
  match h.ecc with
  | some syn => badFetch s n syn cy
  | none => nibCycle s n h.b cy

/-- A cycle of nib `n` with the bundle due at its PC, fetched with ECC (R74, R101, R103). -/
def fetchCycle (s : State) (n : Nat) (cy : Cyc) : State :=
  let b := nibOf s n
  if !running b then nibCycle s n (dueBundle b) cy
  else match b.hold, cy.ecc with
    | some h, _ => heldCycle s n h cy
    | none, .clean => nibCycle s n (dueBundle b) cy
    | none, .corrected => nibCycle (corrected s 0x01 1 n 1) n (dueBundle b) cy
    | none, .bad syn => badFetch s n syn cy

/-- A cycle of nib `n` with a bundle that holds only one slot: the commands of single instructions. A held bundle goes
first. -/
def slotCycle (s : State) (n : Nat) (x : Bundle) (cy : Cyc) : State :=
  match (nibOf s n).hold with
  | some h => heldCycle s n h cy
  | none => nibCycle s n x cy

/-- Whether a nib number names a nib of this package. -/
def nibOk (s : State) (n : Nat) : Bool := populated s n

/-- A command of nib `n`: its effect, or the fault that there is no such nib. -/
def onNibCmd (s : State) (n : Nat) (f : State → State) : Out :=
  if nibOk s n then .next (f s) else .fault .noSuchUnit

/-- A slot command (R76). -/
def slotCmd (s : State) (n : Nat) (x : Bundle) (cy : Cyc) : Out := onNibCmd s n fun s => slotCycle s n x cy

end Sys2Proof.Machine
end

