-- ==== Sys2Proof/Machine/Move.lean ====
section
/-!
DEFINITION. Movement inside the package: the rotation and chain engines (R139 to R143), landing frames (R135), and the
flows of the mesh with their crossings (R146 to R148).
-/
namespace Sys2Proof.Machine

/-! ### Poison by word -/

/-- Poison of the words that `n` bytes at `o` beyond the head of a ring touch, with the words `bad` found bad on the
way (R157). -/
def hopPoison (b : Nib) (r o n : Nat) (bad : List Nat) : List Bool := markBad (ringPoisWords b r o n) bad

/-- Words of a move that a detector finds bad: those below its count. -/
def badOf (bad : List Nat) (words : Nat) : List Nat := (List.range words).filter fun i => bad.contains i

/-! ### The rotation ring (R140 to R142) -/

/-- Bytes that an engine moves in a cycle: at most two whole words of those it may move. -/
def hopBytes (k room data left : Nat) : Nat := 64 * Nat.min (Nat.min k 2) (Nat.min room (Nat.min data left) / 64)

/-- A nib of the chain: context, plan, nibs per cluster, its number in the cluster. -/
structure ChainNib where
  c : Nat
  plan : ChainPlan
  g : Nat
  j : Nat
deriving DecidableEq, Repr

/-- The chain that a nib belongs to (R139). -/
def chainNib (s : State) (n : Nat) : Option ChainNib :=
  match ctxOfNib s n with
  | none => none
  | some c =>
    let x := ctxOf s c
    match x.chain with
    | some p => if x.loaded && n % 64 < geomNibs x.geom then some ⟨c, p, geomNibs x.geom, n % 64⟩ else none
    | none => none

/-- Whether a nib's engines run: it is loaded and has not been stopped (R102). -/
def engineOn (b : Nib) : Bool := 1 ≤ b.st && b.st ≤ 3

/-- Bytes of ROT written in the last step of a slab are not forwarded: the forward mark passes them (R142). -/
def skipLast (b : Nib) (x : ChainNib) : Nib :=
  let r := ringOf b x.plan.rot
  let pos := b.rotBytes - r.fill + r.fw
  if pos / x.plan.piece % x.g = x.g - 1 then
    ringSettle (setRing b x.plan.rot { r with fw := Nat.min r.fill (r.fw + (x.plan.piece - pos % x.plan.piece)) })
      x.plan.rot
  else b

/-- Whether the rotation engine may start the next step: the program has consumed the piece of the step before, and moves to
its next step with it (R143). -/
def stepOpen (b : Nib) (x : ChainNib) : Bool :=
  let r := ringOf b x.plan.rot
  r.fill = r.rd

/-- Whether the rotation engine may start step 0 of slab `k`: the next cluster has the common part of the slab before, which
leaves COM then (R142). -/
def mayStart (s : State) (n : Nat) (x : ChainNib) (k : Nat) : Bool :=
  let next := look ⟨0, 0⟩ s.cports (clusterOf n + 1)
  let last := clusterOf n % 12 + 1 ≥ x.plan.clusters
  k = 0 || last || k ≤ next.slab || (k = next.slab + 1 && x.plan.common ≤ next.pos)

/-- Bytes arrive in ROT (R141, R157). -/
def intoRot (s : State) (n : Nat) (x : ChainNib) (bs : List Byte) (ps : List Bool) (mark : Nat) (bad : List Nat) :
    State :=
  let s := onNib s n fun b =>
    let b := ringAppend b x.plan.rot bs ps mark
    skipLast { b with rotBytes := b.rotBytes + bs.length } x
  detect s n 1 (badOf bad ps.length).length

/-- Step 0: a piece moves from NXT into ROT (R141). -/
def rotateOwn (s : State) (n k : Nat) (x : ChainNib) (bad : List Nat) : State :=
  let b := nibOf s n
  let slab := b.rotBytes / (x.g * x.plan.piece)
  let o := b.rotBytes % x.plan.piece
  if o = 0 && !mayStart s n x slab then s
  else
    let y := ringOf b x.plan.nxt
    let m := hopBytes k (ringOf b x.plan.rot).room y.avail (x.plan.piece - o)
    if m = 0 then s
    else
      let bs := ringBytes b x.plan.nxt y.rd m
      let ps := hopPoison b x.plan.nxt y.rd m bad
      let s := onNib s n fun b =>
        let b := if o = 0 && slab > 0 then ringPop b x.plan.com x.plan.common else b
        ringSettle (setRing b x.plan.nxt { y with rd := y.rd + m }) x.plan.nxt
      intoRot s n x bs ps y.mark bad

/-- Steps 1 to G − 1: bytes move from the ROT ring of the next nib of the cluster into the nib's own (R140, R141). -/
def rotateRing (s : State) (n k : Nat) (x : ChainNib) (bad : List Nat) : State :=
  let b := nibOf s n
  let m := 64 * clusterOf n + (x.j + 1) % x.g
  let src := nibOf s m
  let y := ringOf src x.plan.rot
  let o := b.rotBytes % x.plan.piece
  if !engineOn src || src.rotBytes - y.fill + y.fw + x.plan.piece ≠ b.rotBytes then s
  else
    let q := hopBytes k (ringOf b x.plan.rot).room (y.fill - y.fw) (x.plan.piece - o)
    if q = 0 then s
    else
      let bs := ringBytes src x.plan.rot y.fw q
      let ps := hopPoison src x.plan.rot y.fw q bad
      let s := onNib s m fun b => skipLast (ringSettle (setRing b x.plan.rot { y with fw := y.fw + q }) x.plan.rot) x
      intoRot s n x bs ps y.mark bad

/-- ROTATION_FORWARD (R141): in one cycle the rotation engine moves up to `k` words (at most two) of the piece of the
present step into nib `n`'s ROT; `bad` are the words with a parity error on the hop. -/
def rotate (s : State) (n k : Nat) (bad : List Nat) : State :=
  match chainNib s n with
  | none => s
  | some x =>
    let b := nibOf s n
    if !engineOn b || !(ringOf b x.plan.rot).valid || x.plan.piece = 0 then s
    else if b.rotBytes % x.plan.piece = 0 && !stepOpen b x then s
    else if b.rotBytes / x.plan.piece % x.g = 0 then rotateOwn s n k x bad
    else rotateRing s n k x bad

/-- ROTATION_FORWARD (R141); `w` is what banks and ECC bring to the wells that it reads and writes. -/
def execRotationForward (n k : Nat) (bad : List Nat) (w : List WellEv) (s : State) : Out :=
  onNibCmd s n fun s => rotate (wellEvents s w) n k bad

/-! ### The chain (R139, R141 to R143) -/

/-- What a cluster port can emit next: bytes and poison of up to `n` bytes, at slab position `pos`. In K0 they come from
the landing area, whose slab has landed whole (R136), else from the rings of the cluster before. -/
def chainSource (s : State) (p : ChainPlan) (d k pos n : Nat) (t : ChainPort) : List Byte × List Bool :=
  if k = 0 then
    match (look Landing.reset s.landing d).slabs.find? fun x => x.rd = pos with
    | some x =>
      if x.left > 0 then ([], [])
      else
        let a := landKey d ((x.frame * 65536 + pos) % Config.landBytes)
        let n := Nat.min n (65536 - pos % 65536)
        (readBytes s.landMem a n, (List.range (n / 64)).map fun i => look false s.landPoison (a / 64 + i))
    | none => ([], [])
  else
    let u := look ⟨0, 0⟩ s.cports (12 * d + k - 1)
    let base := 64 * (12 * d + k - 1)
    if pos < p.common then
      let b := nibOf s base
      let x := ringOf b p.com
      let had := u.slab * p.common + Nat.min u.pos p.common
      let here := t.slab * p.common + pos
      let o := here - (had - x.fill)
      let n := Nat.min n (had - here)
      (ringBytes b p.com o n, ringPoisWords b p.com o n)
    else
      let b := nibOf s (base + (pos - p.common) / p.piece)
      let x := ringOf b p.nxt
      let n := Nat.min n (x.fill - x.fw)
      (ringBytes b p.nxt x.fw n, ringPoisWords b p.nxt x.fw n)

/-- Room at the destinations of slab position `pos`: NXT of the piece's nib, or COM of every nib of the cluster. -/
def chainRoom (s : State) (p : ChainPlan) (g k pos : Nat) : Nat :=
  if pos < p.common then
    (List.range g).foldl (fun m j => Nat.min m (ringOf (nibOf s (64 * k + j)) p.com).room) p.common
  else (ringOf (nibOf s (64 * k + (pos - p.common) / p.piece)) p.nxt).room

/-- The oldest slab whose next byte is at `pos` has been read `n` bytes further. -/
def readSlab (pos n : Nat) : List LandSlab → List LandSlab
  | [] => []
  | x :: xs => if x.rd = pos then { x with rd := x.rd + n } :: xs else x :: readSlab pos n xs

/-- The bytes leave their source (R142). -/
def chainTaken (s : State) (p : ChainPlan) (d k pos n : Nat) : State :=
  if k = 0 then
    let a := look Landing.reset s.landing d
    let xs := readSlab pos n a.slabs
    { s with landing := put Landing.reset s.landing d { a with slabs := xs } }
  else if pos < p.common then s
  else onNib s (64 * (12 * d + k - 1) + (pos - p.common) / p.piece) fun b =>
    let x := ringOf b p.nxt
    ringSettle (setRing b p.nxt { x with fw := x.fw + n }) p.nxt

/-- The bytes reach a nib's NXT or COM ring; in the last cluster no one forwards them (R142). -/
def chainInto (s : State) (r n : Nat) (bs : List Byte) (ps : List Bool) (last : Bool) (bad : List Nat) : State :=
  let s := onNib s n fun b =>
    let b := ringAppend b r bs (markBad ps bad) 0
    if last then setRing b r { ringOf b r with fw := (ringOf b r).fill } else b
  detect s n 2 (badOf bad ps.length).length

/-- CHAIN_FORWARD (R141): in one cycle the port of cluster K`k` of die `d` moves up to `w` words (at most two) of the
slab to the cluster's rings; `bad` are words with a parity error at the receiver, `ecc` words of the landing area that
its ECC finds bad. -/
def chainStep (s : State) (d k w : Nat) (bad ecc : List Nat) : State :=
  match ctxOfCluster s (12 * d + k) with
  | none => s
  | some c =>
    let x := ctxOf s c
    match x.chain with
    | none => s
    | some p =>
      let g := geomNibs x.geom
      let key := 12 * d + k
      let t := look ⟨0, 0⟩ s.cports key
      if !x.loaded || k ≥ p.clusters || p.piece = 0 then s
      else
        let left := if t.pos < p.common then p.common - t.pos else p.piece - (t.pos - p.common) % p.piece
        let (bs, ps) := chainSource s p d k t.pos (64 * Nat.min w 2) t
        let m := hopBytes w (chainRoom s p g key t.pos) bs.length left
        if m = 0 then s
        else
          let bs := bs.take m
          let ps := ps.take (m / 64)
          let eccW := if k = 0 then badOf ecc ps.length else []
          let ps := markBad ps eccW
          let last := k + 1 ≥ p.clusters
          let dst := if t.pos < p.common then 64 * key else 64 * key + (t.pos - p.common) / p.piece
          let s := landDetect s d dst eccW
          let s := chainTaken s p d k t.pos m
          let s := if t.pos < p.common then
              (List.range g).foldl (fun s j => chainInto s p.com (64 * key + j) bs ps true bad) s
            else chainInto s p.nxt dst bs ps last bad
          let pos := t.pos + m
          let u : ChainPort := if pos ≥ p.common + g * p.piece then ⟨t.slab + 1, 0⟩ else ⟨t.slab, pos⟩
          { s with cports := put ⟨0, 0⟩ s.cports key u }

/-- CHAIN_FORWARD (R141); `w` is what banks and ECC bring to the wells that it reads and writes. -/
def execChainForward (d c k : Nat) (bad ecc : List Nat) (w : List WellEv) (s : State) : Out :=
  if d < 4 ∧ c < 12 then .next (chainStep (wellEvents s w) d c k bad ecc) else .fault .noSuchUnit

/-! ### Landing frames (R135) -/

/-- Frames of a slab (R135). -/
def slabFrames (n : Nat) : Nat := (n + 65535) / 65536

/-- LANDING_FRAME_RELEASE (R135): the oldest frame that K0 has read completely returns to FREE. -/
def releaseFrame (s : State) (d : Nat) : State :=
  let a := look Landing.reset s.landing d
  match a.slabs with
  | [] => s
  | x :: xs =>
    let total := slabBytes s (geomNibs (ctxOf s (ribCtx s)).geom)
    let gone := slabFrames total - x.frames
    if x.frames > 0 && (x.rd ≥ total || x.rd ≥ (gone + 1) * 65536) then
      let ys := if x.frames = 1 then xs else { x with frames := x.frames - 1 } :: xs
      { s with landing := put Landing.reset s.landing d { a with used := a.used - 1, slabs := ys } }
    else s

/-- LANDING_FRAME_RELEASE (R135). -/
def execLandingFrameRelease (d : Nat) (s : State) : Out :=
  if d < 4 then .next (releaseFrame s d) else .fault .noSuchUnit

/-! ### The mesh (R146 to R148) -/

/-- Whether a run grants a cycle of the frame. -/
def runGrants (frame : Nat) (r : Nat × Nat × Nat) (f cycle : Nat) : Bool :=
  r.2.2 = f && (cycle % frame + frame - r.1 % frame) % frame < r.2.1

/-- Whether cycle `cycle` since the job start is a granted cycle of flow `f` (R146). -/
def granted (t : MeshTab) (f cycle : Nat) : Bool := t.runs.any fun r => runGrants (2 ^ t.frameLog2) r f cycle

/-- Bytes of the flit that a leg can send: 256, or the last bytes of its part (R146). -/
def Leg.flit (l : Leg) : Nat := if l.ready ≥ 256 ∨ l.ready = l.unsent then Nat.min 256 l.ready else 0

/-- `k` bytes leave leg `i` of a part: they enter the crossing before the next leg, the exit crossing, or have
arrived. `out`: the flow ends at a node that is not cycle-locked. -/
def sendLeg (m : MeshXfer) (i k : Nat) (out : Bool) : MeshXfer :=
  let ls := (List.range m.legs.length).filterMap fun j => (m.legs[j]?).map fun l =>
    if j = i then { l with unsent := l.unsent - k, ready := l.ready - k }
    else if j = i + 1 then { l with crossing := l.crossing + k } else l
  { m with legs := ls, exit := if i + 1 = m.legs.length && out then m.exit + k else m.exit }

/-- Position of the first leg of a part on a flow that satisfies a test. -/
def legAt (m : MeshXfer) (d f : Nat) (p : Leg → Bool) : Option Nat :=
  (List.range m.legs.length).find? fun i => match m.legs[i]? with
    | some l => l.die = d && l.flow = f && p l
    | none => false

/-- The first part for which a function answers, replaced by the answer. -/
def firstPart (f : MeshXfer → Option MeshXfer) : List MeshXfer → Option (List MeshXfer)
  | [] => none
  | m :: ms => match f m with
    | some m' => some (m' :: ms)
    | none => (firstPart f ms).map (m :: ·)

/-- MESH_FLIT_SEND (R146, R147): in a granted cycle the flow sends a flit, or a slot is missed while a transfer on the
flow still has bytes to send. -/
def meshSend (s : State) (d f cycle : Nat) : State :=
  match look none s.mesh d with
  | none => s
  | some t =>
    if !granted t f cycle then s
    else
      let out := match t.flows.find? fun x => x.id = f with | some x => crossingNode x.dstNode | none => false
      match firstPart (fun m => (legAt m d f fun l => l.flit > 0).map fun i =>
          sendLeg m i (match m.legs[i]? with | some l => l.flit | none => 0) out) s.meshX with
      | some ms => { s with meshX := ms }
      | none =>
        if s.meshX.any fun m => (legAt m d f fun l => l.unsent > 0).isSome then
          let off := Reg.NIB_DIE_MESH_MISS + 0x800000 * d
          setReg64 s off (satAdd (2 ^ 64 - 1) (getReg64 s off) 1)
        else s

/-- MESH_FLIT_SEND (R146). -/
def execMeshFlitSend (d f cycle : Nat) (s : State) : Out :=
  if d < 4 then .next (meshSend s d f cycle) else .fault .noSuchUnit

/-- A flit leaves the crossing before a leg and becomes ready at the source of its flow. -/
def readyLeg (m : MeshXfer) (i : Nat) : MeshXfer :=
  { m with legs := (List.range m.legs.length).filterMap fun j => (m.legs[j]?).map fun l =>
      if j = i then { l with ready := l.ready + Nat.min 256 l.crossing, crossing := l.crossing - 256 } else l }

/-- CROSSING_DELIVER (R147): a flit bound for flow `f` of die `d` leaves the crossing and is ready at the flow's
source; with none there, a flit that left the die by this flow as its last leg leaves the crossing behind it. -/
def crossing (s : State) (d f : Nat) : State :=
  match firstPart (fun m => (legAt m d f fun l => l.crossing > 0).map (readyLeg m)) s.meshX with
  | some ms => { s with meshX := ms }
  | none =>
    match firstPart (fun m => match m.legs.reverse with
        | l :: _ => if l.die = d && l.flow = f && m.exit > 0 then some { m with exit := m.exit - 256 } else none
        | [] => none) s.meshX with
    | some ms => { s with meshX := ms }
    | none => s

/-- CROSSING_DELIVER (R147). -/
def execCrossingDeliver (d f : Nat) (s : State) : Out :=
  if d < 4 then .next (crossing s d f) else .fault .noSuchUnit

/-! ### The expander (R173, R174) -/

/-- EXPANDER_FACTOR_LOAD (R174). -/
def execExpanderFactorLoad (n : Nat) (w : List WellEv) (s : State) : Out :=
  onNibCmd s n fun s => factorLoad (wellEvents s w) n

/-- EXPANDER_TILE (R173): `mismatch` tells that the check of R172 finds a corrupted sum. -/
def execExpanderTile (n : Nat) (mismatch : Bool) (w : List WellEv) (s : State) : Out :=
  onNibCmd s n fun s => expTile (wellEvents s w) n mismatch

end Sys2Proof.Machine
end

