-- ==== Sys2Proof/Machine/AccOps.lean ====
section
/-!
DEFINITION. Register accesses (R6, R8 to R11, R14, R351, R432, R434): which offsets are implemented, which accesses an
accessor may make, what an access code does to a written value, and the unmapped-access record.
-/
namespace Sys2Proof.Machine

/-! ### The map (R14, R432) -/

/-- Base of the compute-die windows in BAR0. -/
def dieBase : Nat := 0x01000000

/-- The nib and the offset in its window that a BAR0 offset names (R14). -/
def nibAt (off : Nat) : Option (Nat × Nat) :=
  if off < dieBase then none
  else
    let d := (off - dieBase) / 0x800000
    let o := (off - dieBase) % 0x800000
    if d < 4 ∧ o < 0x600000 then some ((d * 12 + o / 0x80000) * 64 + o % 0x80000 / 0x2000, o % 0x2000) else none

/-- BAR0 offset of a register of a nib's window (R14). -/
def nibOffset (n o : Nat) : Nat :=
  dieBase + dieOf n * 0x800000 + clusterOf n % 12 * 0x80000 + n % 64 * 0x2000 + o

/-- The log and the byte in it that a BAR0 offset names: entries 0 to 63, and FIRST (R414). -/
def logAt (off : Nat) : Option (Nat × Nat) :=
  if off < 0x10000 then none
  else
    let n := (off - 0x10000) / 0x1000
    let o := (off - 0x10000) % 0x1000
    if n < 17 ∧ o < 0x820 then some (n, o) else none

/-- Whether a BAR0 offset is implemented (R6, R432). DESIGN CHOICE: an offset that is not a multiple of 4 is none (log
entry 147). -/
def implemented (s : State) (off : Nat) : Bool :=
  off % 4 = 0 &&
  match nibAt off with
  | some (n, o) => populated s n && (findRow nibRows o).isSome
  | none => (logAt off).isSome || (findRow hubRows off).isSome

/-- The row of an implemented register. -/
def rowAt (off : Nat) : Option (RegRow × Nat × Nat) :=
  match nibAt off with
  | some (_, o) => findRow nibRows o
  | none => findRow hubRows off

/-! ### Who may access what (R349, R351) -/

/-- The context of a function: the PF serves context 0, VF i context i (R349). -/
def fnCtx : Acc → Nat
  | .host _ f => f
  | .owl => 0

/-- Whether an accessor is the PF of H0, or the Owl, which acts for the owner. -/
def isOwner : Acc → Bool
  | .host p f => p = 0 && f = 0
  | .owl => true

/-- First offset, stride and number of bytes of the per-context registers of each block (R326, R301, R271, R347, R373). -/
def ctxBlocks : List (Nat × Nat × Nat) :=
  [(0x110000, 0x1000, 0x1000), (0x300100, 0x20, 0x20), (0x420040, 4, 4), (0x420080, 4, 4), (0x604000, 0x40, 0x40),
   (0x801400, 0x40, 0x40), (0x802000, 0x20, 0x20), (0x10000, 0x1000, 0x1000)]

/-- Whether an offset lies among the registers of context `c` (R351). -/
def inCtx (c off : Nat) : Bool :=
  ctxBlocks.any fun b => b.1 + b.2.1 * c ≤ off && off < b.1 + b.2.1 * c + b.2.2

/-- Whether an offset lies in the window of a nib or die that context `c` holds. -/
def inHeld (s : State) (c off : Nat) : Bool :=
  match nibAt off with
  | some (n, _) => ctxOfNib s n = some c
  | none => off ≥ dieBase && (ctxClusters s c).any fun k => k / 12 = (off - dieBase) / 0x800000

/-- Whether an accessor is a PF, whose BAR0 is the whole control space (R350), or the Owl. -/
def isPf : Acc → Bool
  | .host _ f => f = 0
  | .owl => true

/-- The registers that are written through the PF of H0: those of contexts, regions, tally maps, spans, ribbons and links
(R351), the power registers, HUB_SVC_CMD (R422), HUB_LOGn_STATUS (R416) and NIB_ABFT_CTRL
(R50). -/
def viaH0 (off : Nat) : Bool :=
  ([(0x110000, 0x120000), (0x200000, 0x200140), (0x300100, 0x300300), (0x400000, 0x42010C), (0x581000, 0x581800),
    (0x604000, 0x604400), (0x700000, 0x710000), (0x801400, 0x802000), (0x802000, 0x802200)].any fun r =>
      r.1 ≤ off && off < r.2)
    || off = 0x2004 || (0x10000 ≤ off && off < 0x21000 && off % 0x1000 = 0xC04)
    || (nibAt off).any fun x => x.2 = 0x200

/-- Whether an accessor's read returns a value (R350, R351). -/
def mayRead (s : State) (a : Acc) (off : Nat) : Bool :=
  isPf a || inCtx (fnCtx a) off || inHeld s (fnCtx a) off

/-- Whether an accessor's write takes effect (R350, R351). -/
def mayWrite (a : Acc) (off : Nat) : Bool :=
  isOwner a || (isPf a && !viaH0 off)
    || (0x110000 + 0x1000 * fnCtx a ≤ off && off < 0x110000 + 0x1000 * (fnCtx a + 1))

/-- Whether the host may access the package: boot is complete (R433). The Owl always may. -/
def accReady (s : State) : Acc → Bool
  | .host p f => getF s Reg.HUB_STATUS 3 3 = 1 && p < 2 && f < 16
  | .owl => true

/-- An unmapped access is recorded (R434). DESIGN CHOICE: one by the Owl is recorded as the PF of H0 (R6; log entry 148). -/
def noteUnmapped (s : State) (a : Acc) (write : Bool) (off : Nat) : State :=
  let (p, f) := match a with | .host p f => (p, f) | .owl => (0, 0)
  let s := setBit s Reg.HUB_ERR_SUMMARY 17
  let s := setReg s Reg.HUB_UNMAPPED_INFO (BitVec.ofNat 32 (f % 16 + 16 * (p % 2) + (if write then 32 else 0)))
  setReg s Reg.HUB_UNMAPPED_ADDR (BitVec.ofNat 32 (off % 2 ^ 26))

/-! ### Access codes (R9, R10) -/

/-- The value of a register after a write: RW bits take the value, RWL bits too unless the context is sealed, W1C
bits clear where 1 is written, and the bits that the package sets in the same cycle stay set. -/
def written (r : RegRow) (locked : Bool) (old v set : W32) : W32 :=
  let rw : W32 := BitVec.ofNat 32 (if locked then r.rw else r.rw ||| r.rwl)
  let clr : W32 := v &&& BitVec.ofNat 32 r.w1c
  ((old &&& ~~~rw &&& ~~~clr) ||| (v &&& rw)) ||| (set &&& BitVec.ofNat 32 r.w1c)

/-- The context that owns an RWL register: that of its index, or of its block's window. -/
def ownerOf (off i : Nat) : Nat :=
  if 0x110000 ≤ off ∧ off < 0x120000 then (off - 0x110000) / 0x1000 else i

/-- Whether a write meets a locked RWL register (R9, R363). -/
def lockedAt (s : State) (r : RegRow) (off i : Nat) : Bool := r.rwl ≠ 0 && (ctxOf s (ownerOf off i)).locked

/-- A write of a locked RWL register sets the flag in the context's error record (R9, CODE 0x29). -/
def noteLocked (s : State) (c off : Nat) : State := raise s 2 0x29 0 (some c) 0 off

/-- FTC_TALc_STATUS.CFG. -/
def talCfg (s : State) (c : Nat) : State := setBit s (Reg.FTC_TALC_STATUS + 0x40 * c) 3

/-- AVF_ERR.CFG. -/
def avfCfg (s : State) : State := setBit s Reg.AVF_ERR 1

/-- A write command of accessor `a` to the register at `off`: nothing before READY, the unmapped record where the
accessor may not write, the effect otherwise. -/
def regCmd (s : State) (a : Acc) (off : Nat) (f : State → State) : Out :=
  if !accReady s a then .next s
  else if !implemented s off || !mayWrite a off then .next (noteUnmapped s a true off)
  else .next (f s)

end Sys2Proof.Machine
end

