-- ==== Sys2Proof/Machine/AvfOps.lean ====
section
/-!
DEFINITION. Avfer queues (R354 to R372): pairs, fetching, completions, journal and CQ, stopping work, and the start of
accepted commands.
-/
namespace Sys2Proof.Machine

/-! ### Pairs -/

/-- A queue pair. -/
def pairOf (s : State) (c q : Nat) : Pair := look Pair.reset s.pairs (16 * c + q)

/-- Change a queue pair. -/
def onPair (s : State) (c q : Nat) (f : Pair → Pair) : State :=
  { s with pairs := put Pair.reset s.pairs (16 * c + q) (f (pairOf s c q)) }

/-- Port that a context is bound to (R349). -/
def portOf (s : State) (c : Nat) : Nat := getF s (perCtx Reg.AVF_CTX_BIND 0x1000 c) 0 0

/-- Whether H1 runs as a CXL root port (R348). -/
def cxlRole (s : State) : Bool := getF s Reg.AVF_PORT1_STATUS 0 0 = 1

/-- AVF_Qq_CTRL.ENABLE. -/
def pairOn (s : State) (c q : Nat) : Bool := getF s (pairReg Reg.AVF_Q_CTRL c q) 0 0 = 1

/-- AVF_Qq_CTRL.PAUSE. -/
def pairPaused (s : State) (c q : Nat) : Bool := getF s (pairReg Reg.AVF_Q_CTRL c q) 1 1 = 1

/-- Entries of the SQ. -/
def sqSize (s : State) (c q : Nat) : Nat := 2 ^ getF s (pairReg Reg.AVF_Q_SIZE c q) 4 0

/-- Entries of the CQ. -/
def cqSize (s : State) (c q : Nat) : Nat := 2 ^ getF s (pairReg Reg.AVF_Q_SIZE c q) 12 8

/-- A 32-bit number of a pair. -/
def pairNum (s : State) (base c q : Nat) : Nat := (getReg s (pairReg base c q)).toNat

/-- Set a 32-bit number of a pair, modulo 2³². -/
def setPairNum (s : State) (base c q v : Nat) : State := setReg s (pairReg base c q) (BitVec.ofNat 32 v)

/-- Numbers from `a` to `b`, modulo 2³² (R359). -/
def seqDist (a b : Nat) : Nat := (b + 2 ^ 32 - a) % 2 ^ 32

/-- Completions in the journal that the CQ does not hold yet. -/
def cqWaiting (s : State) (c q : Nat) : Nat := seqDist (pairOf s c q).cqLast (pairNum s Reg.AVF_Q_CSEQ c q)

/-- Whether completions of a pair go to the journal only (R368, R370, R371). -/
def journalOnly (s : State) (c q : Nat) : Bool :=
  pairPaused s c q || s.bmeOff.contains c || !(pairOf s c q).opened

/-! ### Completions (R358, R367, R368, R372) -/

/-- The 64 bytes of a completion. -/
def compBytes (x : Comp) (cseq : Nat) : List Byte :=
  natLE 4 cseq ++ natLE 4 x.seq ++ natLE 8 x.tag ++ natLE 1 x.status ++ natLE 1 x.op
    ++ natLE 1 (if x.notice then 1 else 0) ++ natLE 1 0 ++ natLE 4 x.result ++ natLE 8 x.cursor ++ natLE 8 x.ftc
    ++ natLE 24 0

/-- DPA of a journal slot. -/
def jrnlSlot (s : State) (c q cseq : Nat) : Nat :=
  getReg64 s (pairReg Reg.AVF_Q_JRNL c q) + 64 * (cseq % 4096)

/-- The oldest completion that the CQ lacks is written to it, with REPLAYED where it is part of a replay, and the CQ's
interrupt is sent. -/
def cqWrite (s : State) (c q : Nat) : State :=
  let p := pairOf s c q
  let cseq := (p.cqLast + 1) % 2 ^ 32
  let bs := (readDpa 65 s (jrnlSlot s c q cseq) 64).1
  let again := match p.replay with | some e => seqDist p.cqLast e > 0 && seqDist p.cqLast e ≤ 4096 | none => false
  let bs := if again then bs.take 0x12 ++ natLE 1 (setBits (field bs 0x12 1) 1 1 1) ++ bs.drop 0x13 else bs
  let s := { s with hostMem := writeBytes s.hostMem (getReg64 s (pairReg Reg.AVF_Q_CQ_BASE c q) + 64 * p.cqTail) bs }
  let s := onPair s c q fun p =>
    { p with cqTail := (p.cqTail + 1) % cqSize s c q, cqUsed := p.cqUsed + 1, cqLast := cseq,
             replay := if p.replay = some cseq then none else p.replay }
  if p.quiet.contains cseq then s
  else send s (.msix (portOf s c) c (getF s (pairReg Reg.AVF_Q_CTRL c q) 12 2))

/-- Completions that wait are written to the CQ while it has room (R372). `fuel` bounds them. -/
def cqPump : Nat → State → Nat → Nat → State
  | 0, s, _, _ => s
  | fuel + 1, s, c, q =>
    if journalOnly s c q || cqWaiting s c q = 0 || (pairOf s c q).cqUsed ≥ cqSize s c q then s
    else cqPump fuel (cqWrite s c q) c q

/-- The next completion of a pair is numbered and written to the journal, and then to the CQ (R359, R367). -/
def completionWrite (s : State) (c q : Nat) : State :=
  match s.comps.find? fun x => x.c = c && x.q = q with
  | none => s
  | some x =>
    if !journalOnly s c q && cqWaiting s c q ≥ 4096 then s
    else
      let cseq := (pairNum s Reg.AVF_Q_CSEQ c q + 1) % 2 ^ 32
      let s := writeDpa { s with comps := s.comps.erase x } (jrnlSlot s c q cseq) (compBytes x cseq) [false] false
      let s := setPairNum s Reg.AVF_Q_CSEQ c q cseq
      let s := onPair s c q fun p =>
        { p with jcount := Nat.min 4096 (p.jcount + 1)
                 quiet := (p.quiet.filter fun y => seqDist y cseq < 4096) ++ (if x.noIrq then [cseq] else []) }
      let s := setPairNum s Reg.AVF_Q_OLDEST c q (cseq + 2 ^ 32 + 1 - (pairOf s c q).jcount)
      if journalOnly s c q then onPair s c q fun p => { p with cqLast := cseq }
      else cqPump 4096 s c q

/-! ### Stopping work (R369 to R371) -/

/-- A wait of the host at a tally is withdrawn; the waits behind it are served (R251). -/
def withdraw (s : State) (x : AvCmd) : State :=
  let t := { s with waits := s.waits.filter fun w => w.who ≠ hostWho x }
  match s.waits.find? fun w => w.who = hostWho x with
  | some w => serve (t.waits.length + 1) t w.tal
  | none => t

/-- Change a command in flight. -/
def onCmd (s : State) (no : Nat) (f : AvCmd → AvCmd) : State :=
  { s with cmds := s.cmds.map fun x => if x.no = no then f x else x }

/-- A command in flight ends as R369 states; those it lets run to completion stay. A transfer whose strips before a
translation fault have not all been delivered ends when they have (R372). -/
def abortCmd (s : State) (x : AvCmd) : State :=
  match x.f 0 1 with
  | 3 => match x.fault with
    | some (k, _) =>
      if x.count < k then onCmd s x.no fun x => { x with fault := some (k, .aborted) } else complete s x 4 0 x.count
    | none => complete s x 4 0 x.count
  | 5 => complete s x 4 0 0
  | 6 => complete { s with rib := { s.rib with queue := s.rib.queue.filter fun e => e.1 ≠ x.no } } x 4 0 0
  | 7 => complete s x 4 0 x.count
  | _ => s

/-- The commands in flight that `mine` selects end together (R369): their waits leave the queues of the tallies first, and
the waits that stood behind them are served last (R251). -/
def abortWork (s : State) (mine : AvCmd → Bool) : State :=
  let who := (s.cmds.filter fun x => mine x && x.f 0 1 = 5).map hostWho
  let gone := s.waits.filter fun w => who.contains w.who
  let t := (s.cmds.filter mine).foldl abortCmd { s with waits := s.waits.filter fun w => !who.contains w.who }
  gone.foldl (fun t w => serve (t.waits.length + 1) t w.tal) t

/-- Work of a pair in flight ends (R370). -/
def abortPair (s : State) (c q : Nat) : State := abortWork s fun x => x.c = c && x.q = q

/-- A pair stops accepting work (R370). -/
def stopPair (s : State) (c q : Nat) : State :=
  if pairOn s c q then abortPair (setF s (pairReg Reg.AVF_Q_CTRL c q) 0 0 0) c q else s

/-! ### AVF_Qq_CTRL (R355, R368, R370) -/

/-- Whether a pair may be enabled by an accessor (R354, R355, R367). -/
def enableOkPair (s : State) (a : Acc) (c q : Nat) : Bool :=
  let sq := getF s (pairReg Reg.AVF_Q_SIZE c q) 4 0
  let cq := getF s (pairReg Reg.AVF_Q_SIZE c q) 12 8
  (match a with | .host p _ => p = portOf s c | .owl => true)
    && 6 ≤ sq && sq ≤ 16 && 6 ≤ cq && cq ≤ 16
    && getReg64 s (pairReg Reg.AVF_Q_SQ_BASE c q) % 4096 = 0
    && getReg64 s (pairReg Reg.AVF_Q_CQ_BASE c q) % 4096 = 0
    && getReg64 s (pairReg Reg.AVF_Q_JRNL c q) % 262144 = 0
    && dpaOwned 66 s c (getReg64 s (pairReg Reg.AVF_Q_JRNL c q)) 262144

/-- PAUSE is cleared: completions from REPLAY on are written to the CQ again (R368). -/
def resumePair (s : State) (c q : Nat) : State :=
  let last := pairNum s Reg.AVF_Q_CSEQ c q
  let want := seqDist (pairNum s Reg.AVF_Q_REPLAY c q) ((last + 1) % 2 ^ 32)
  let have_ := (pairOf s c q).jcount
  let lost := have_ < want && want < 2 ^ 31
  let k := if lost then have_ else if want ≤ have_ then want else 0
  let s := if lost then setF s (pairReg Reg.AVF_Q_STATUS c q) 3 3 1 else s
  let s := onPair s c q fun p =>
    { p with cqLast := (last + 2 ^ 32 - k) % 2 ^ 32, replay := if k = 0 then none else some last }
  cqPump 4097 s c q

/-- A write of AVF_Qq_CTRL (R355, R368, R370). -/
def ctrlWrite (s : State) (a : Acc) (c q : Nat) (v : W32) : State :=
  let off := pairReg Reg.AVF_Q_CTRL c q
  let on := bitOf v.toNat 0
  let pause := bitOf v.toNat 1
  if on && !pairOn s c q && !enableOkPair s a c q then avfCfg s
  else
    let was := pairOn s c q
    let held := pairPaused s c q
    let s := if !on then stopPair s c q else s
    let s := setReg s off (v &&& 0x1FFF)
    let s := if on && !was then
        onPair s c q fun p =>
          { p with opened := true, sqHead := 0, sqTail := 0, cqTail := 0, cqUsed := 0, replay := none,
                   cqLast := pairNum s Reg.AVF_Q_CSEQ c q }
      else s
    if held && !pause then resumePair s c q else s

/-! ### Fetching (R356 to R360) -/

/-- Opcodes that R361 and R392 define. -/
def opDefined (op : Nat) : Bool := op ≤ 8 || (0x20 ≤ op && op ≤ 0x26)

/-- Whether the next command of a pair may be fetched (R368, R370, R372). -/
def canFetch (s : State) (c q : Nat) : Bool :=
  let p := pairOf s c q
  p.opened && !pairPaused s c q && !s.bmeOff.contains c && p.replay.isNone && p.sqHead ≠ p.sqTail
    && cqWaiting s c q < 4096

/-- A fetched command is accepted, or completes at once (R359, R360, R361, R370). -/
def takeCmd (s : State) (c q : Nat) (raw : List Byte) : State :=
  let x : AvCmd := ⟨s.cmdNo, c, q, raw, false, s.ftc, 0, none, false⟩
  let quiet := bitOf (x.f 1 1) 1
  let fin := fun s st => formComp s c q (x.f 4 4) (x.f 8 8) (x.f 0 1) st false quiet 0 0
  if !pairOn s c q then fin s 3
  else if x.f 4 4 ≠ pairNum s Reg.AVF_Q_SEQ_NEXT c q then fin (setF s (pairReg Reg.AVF_Q_STATUS c q) 4 4 1) 2
  else
    let s := setPairNum s Reg.AVF_Q_ACCEPTED c q (x.f 4 4)
    let s := setPairNum s Reg.AVF_Q_SEQ_NEXT c q (x.f 4 4 + 1)
    if !opDefined (x.f 0 1) || x.f 2 1 ≠ 1 then fin s 1
    else { s with cmds := s.cmds ++ [x], cmdNo := s.cmdNo + 1 }

/-- The next command of a pair is fetched (R357). -/
def commandFetch (s : State) (c q : Nat) : State :=
  if canFetch s c q then
    let p := pairOf s c q
    let raw := readBytes s.hostMem (getReg64 s (pairReg Reg.AVF_Q_SQ_BASE c q) + 64 * p.sqHead) 64
    takeCmd (onPair s c q fun p => { p with sqHead := (p.sqHead + 1) % sqSize s c q }) c q raw
  else s

/-! ### Starting a command (R357) -/

/-- Commands of a pair in flight, in order of acceptance. -/
def pairCmds (s : State) (c q : Nat) : List AvCmd := s.cmds.filter fun x => x.c = c && x.q = q

/-- The command of a pair that may start now: the oldest that has not, alone where it has FENCE (R357). -/
def readyCmd (s : State) (c q : Nat) : Option AvCmd :=
  match (pairCmds s c q).find? fun x => !x.started with
  | none => none
  | some x =>
    if bitOf (x.f 1 1) 0 && ((pairCmds s c q).head?.map (·.no)) ≠ some x.no then none else some x

/-- The pair's next command starts, if its opcode is `op`; nothing happens otherwise. -/
def startCmd (s : State) (c q op : Nat) (f : State → AvCmd → State) : Out :=
  match readyCmd s c q with
  | none => .next s
  | some x =>
    if x.f 0 1 = op then
      let y := { x with started := true, since := s.ftc }
      .next (f (onCmd s x.no fun _ => y) y)
    else .next s

/-- A started command of a pair by its SEQ and opcode. -/
def runningCmd (s : State) (c q seq op : Nat) : Option AvCmd :=
  (pairCmds s c q).find? fun x => x.started && x.f 4 4 = seq && x.f 0 1 = op

/-! ### Signals of the host engines (R261, R262, R362) -/

/-- The host transfer engine of a context signals a tally, behind the strips that the signal covers (command number and strips
that must have been delivered). -/
def hostSignal (s : State) (c : Nat) (dst : SigDst) (count : Nat) (covers : List (Nat × Nat)) : State :=
  hubSignal s (.host c) c dst count covers

/-! ### Unloading (R362, R363, R371, R401) -/

/-- A nib whose cluster has been power-gated: everything is lost but what survives a load (R46, R50). -/
def gatedNib (b : Nib) : Nib :=
  let keep := fun (n : Nib) => setNibReg (setNibReg n Reg.NIB_ABFT_CTRL (nibReg b Reg.NIB_ABFT_CTRL))
    Reg.NIB_ABFT_STATUS (nibReg b Reg.NIB_ABFT_STATUS &&& 4)
  keep { Nib.reset with st := if bitOf (nibReg b Reg.NIB_ABFT_STATUS).toNat 2 then 6 else 0 }

/-- A cluster's domain is power-gated: its nibs lose their state, the bundle stores and the wells (R401). -/
def gateCluster (s : State) (k : Nat) : State :=
  let s := ((List.range 64).map (64 * k + ·)).foldl (fun s n => onNib s n gatedNib) s
  setDom { s with wakes := s.wakes.filter fun w => w.1 ≠ k, cports := drop s.cports k } (domOf k) 0

/-- The ribbon's context ends: an emergency stop (R203); with the chain gone every landing frame returns to FREE, and no nib
is left that uses the old set of a switch (R218) (log 132). -/
def endRibCtx (s : State) : State :=
  let s := onNewSet (estop s) s.rib.awaiting
  { s with landing := [] }

/-- A context loses its program (R362, R363): its nibs stop and return to STATE 0, its clusters are power-gated, and its
RWL registers are free again. -/
def unloadCtx (s : State) (c : Nat) : State :=
  let s := if c = ribCtx s then endRibCtx s else s
  let s := haltAllNibs (haltWaits s c) c
  let nibs := jobNibs s c
  let s := { s with waits := s.waits.filter fun w => !nibs.contains w.who
                    waitsOut := s.waitsOut.filter fun n => !nibs.contains n
                    meshX := s.meshX.filter fun m => !nibs.contains m.nib
                    colls := s.colls.filter fun k => k.ctx ≠ c }
  let s := (ctxClusters s c).foldl gateCluster s
  onCtx s c fun x => { Ctx.empty with gen := x.gen, tmap := x.tmap, spans := x.spans }

end Sys2Proof.Machine
end

