-- ==== Sys2Proof/Machine/Queues.lean ====
section
/-!
DEFINITION. Commands of the Avfer queues (R353, R355 to R359, R367 to R372, R374): doorbells, fetching, completions,
queue control, bus mastering, function-level reset, and the registers of a context.
-/
namespace Sys2Proof.Machine

/-! ### Doorbells (R350, R356) -/

/-- Context and pair that a doorbell of an accessor reaches: none through the port that the context is not bound to. -/
def doorbellCtx (s : State) (a : Acc) : Option Nat :=
  match a with
  | .host p f => if accReady s a && portOf s f = p then some f else none
  | .owl => none

/-- A tail doorbell (R356, R370): an index beyond the ring is ignored. -/
def sqDoorbell (s : State) (c q i : Nat) : State :=
  if (pairOf s c q).opened && i < sqSize s c q then onPair s c q fun p => { p with sqTail := i } else s

/-- A head doorbell (R356): it frees the CQ's entries up to an index, and completions that wait are written. -/
def cqDoorbell (s : State) (c q i : Nat) : State :=
  let p := pairOf s c q
  let size := cqSize s c q
  if p.opened && i < size then
    let used := (p.cqTail + size - i) % size
    cqPump 4096 (onPair s c q fun p => { p with cqUsed := Nat.min p.cqUsed used }) c q
  else s

/-- SQ_TAIL_DOORBELL (R356): bits [31:16] are reserved. -/
def execSqTailDoorbell (a : Acc) (q : Nat) (v : BitVec 32) (s : State) : Out :=
  if q < 16 then
    match doorbellCtx s a with
    | some c => .next (sqDoorbell s c q (fld v 15 0))
    | none => .next s
  else .fault .noSuchUnit

/-- CQ_HEAD_DOORBELL (R356). -/
def execCqHeadDoorbell (a : Acc) (q : Nat) (v : BitVec 32) (s : State) : Out :=
  if q < 16 then
    match doorbellCtx s a with
    | some c => .next (cqDoorbell s c q (fld v 15 0))
    | none => .next s
  else .fault .noSuchUnit

/-! ### Fetching and completing -/

/-- A command about pair `q` of context `c`. -/
def onPairCmd (s : State) (c q : Nat) (f : State → State) : Out :=
  if c < 16 ∧ q < 16 then .next (f s) else .fault .noSuchUnit

/-- COMMAND_FETCH (R357, R359). -/
def execCommandFetch (c q : Nat) (s : State) : Out := onPairCmd s c q fun s => commandFetch s c q

/-- COMPLETION_WRITE (R367). -/
def execCompletionWrite (c q : Nat) (s : State) : Out := onPairCmd s c q fun s => completionWrite s c q

/-! ### AVF_Qq_CTRL -/

/-- A write of AVF_Qq_CTRL by an accessor. -/
def ctrlCmd (s : State) (a : Acc) (c q : Nat) (v : W32) : Out :=
  if c < 16 ∧ q < 16 then regCmd s a (pairReg Reg.AVF_Q_CTRL c q) fun s => ctrlWrite s a c q v
  else .fault .noSuchUnit

/-- QUEUE_ENABLE (R355): a write of AVF_Qq_CTRL with ENABLE set. -/
def execQueueEnable (a : Acc) (c q : Nat) (v : BitVec 32) (s : State) : Out := ctrlCmd s a c q (v ||| 1)

/-- QUEUE_DISABLE (R370): a write of AVF_Qq_CTRL with ENABLE clear. -/
def execQueueDisable (a : Acc) (c q : Nat) (v : BitVec 32) (s : State) : Out := ctrlCmd s a c q (v &&& 0xFFFFFFFE)

/-- QUEUE_PAUSE (R368): a write of AVF_Qq_CTRL with PAUSE set. -/
def execQueuePause (a : Acc) (c q : Nat) (v : BitVec 32) (s : State) : Out := ctrlCmd s a c q (v ||| 2)

/-- QUEUE_RESUME (R368): a write of AVF_Qq_CTRL with PAUSE clear. -/
def execQueueResume (a : Acc) (c q : Nat) (v : BitVec 32) (s : State) : Out := ctrlCmd s a c q (v &&& 0xFFFFFFFD)

/-! ### Functions (R370, R371) -/

/-- Bus Master Enable of a context's function is cleared: its pairs stop, and completions go to the journal only. -/
def busMasterOff (s : State) (c : Nat) : State :=
  let s := { s with bmeOff := if s.bmeOff.contains c then s.bmeOff else s.bmeOff ++ [c] }
  let s := abortWork s fun x => x.c = c && pairOn s c x.q
  (List.range 16).foldl (fun s q =>
    let s := stopPair s c q
    onPair s c q fun p => { p with cqLast := pairNum s Reg.AVF_Q_CSEQ c q, replay := none }) s

/-- BUS_MASTER_DISABLE (R370). -/
def execBusMasterDisable (c : Nat) (s : State) : Out :=
  if c < 16 then .next (busMasterOff s c) else .fault .noSuchUnit

/-- BUS_MASTER_ENABLE (R370). -/
def execBusMasterEnable (c : Nat) (s : State) : Out :=
  if c < 16 then .next { s with bmeOff := s.bmeOff.filter (· ≠ c) } else .fault .noSuchUnit

/-- What a function-level reset does to a pair: work ends with completions to the journal only; enable, pause, ring bases
and doorbells clear; numbers and journal stay (R371). -/
def resetPair (s : State) (c q : Nat) : State :=
  let s := abortPair s c q
  let s := setF s (pairReg Reg.AVF_Q_CTRL c q) 1 0 0
  let s := setReg64 (setReg64 s (pairReg Reg.AVF_Q_SQ_BASE c q) 0) (pairReg Reg.AVF_Q_CQ_BASE c q) 0
  onPair s c q fun p =>
    { Pair.reset with jcount := p.jcount, quiet := p.quiet, cqLast := pairNum s Reg.AVF_Q_CSEQ c q }

/-- A function-level reset (R371). -/
def functionReset (s : State) (c : Nat) : State :=
  let s := abortWork s fun x => x.c = c
  let s := (List.range 16).foldl (fun s q => resetPair s c q) s
  let s := unloadCtx (if (ctxOf s c).loaded then haltNotice s c else s) c
  setReg64 s (perCtx Reg.AVF_CTX_BAR4 0x1000 c) 0

/-- FUNCTION_LEVEL_RESET (R371). -/
def execFunctionLevelReset (c : Nat) (s : State) : Out :=
  if c < 16 then .next (functionReset s c) else .fault .noSuchUnit

/-! ### Registers of a context (R353, R374) -/

/-- Bits of clusters that other contexts hold. -/
def othersMask (s : State) (c : Nat) : Nat :=
  ((List.range 16).filter (· ≠ c)).foldl (fun m d => m ||| clusterMask s d) 0

/-- A write of AVF_CTXc_CLUSTERS (R353). -/
def clustersWrite (s : State) (a : Acc) (c : Nat) (v : BitVec 64) : State :=
  let m := v.toNat % 2 ^ 48
  let off := perCtx Reg.AVF_CTX_CLUSTERS 0x1000 c
  if !isOwner a || (ctxOf s c).locked || (ctxOf s c).loaded || m &&& othersMask s c ≠ 0 then
    let s := if isOwner a && (ctxOf s c).locked then noteLocked s c off else s
    avfCfg s
  else setReg64 s off m

/-- CLUSTERS_WRITE (R353). -/
def execClustersWrite (a : Acc) (c : Nat) (v : BitVec 64) (s : State) : Out :=
  if c < 16 then regCmd s a (perCtx Reg.AVF_CTX_CLUSTERS 0x1000 c) fun s => clustersWrite s a c v
  else .fault .noSuchUnit

/-- A write of AVF_CTXc_BIND (R374). -/
def bindWrite (s : State) (c : Nat) (v : W32) : State :=
  let off := perCtx Reg.AVF_CTX_BIND 0x1000 c
  if (ctxOf s c).locked then noteLocked s c off
  else if (List.range 16).any (pairOn s c) || (bitOf v.toNat 0 && cxlRole s) then avfCfg s
  else setReg s off (v &&& 1)

/-- CONTEXT_BIND_WRITE (R374). -/
def execContextBindWrite (a : Acc) (c : Nat) (v : BitVec 32) (s : State) : Out :=
  if c < 16 then regCmd s a (perCtx Reg.AVF_CTX_BIND 0x1000 c) fun s => bindWrite s c v else .fault .noSuchUnit

end Sys2Proof.Machine
end

