-- ==== Sys2Proof/Machine/HostCmds.lean ====
section
/-!
DEFINITION. Avfer commands (R362 to R366, R243, R244): NOP, UNLOAD, host transfers in strips, tallies, tier copies.
-/
namespace Sys2Proof.Machine

/-- NOP (R361). -/
def execNop (c q : Nat) (s : State) : Out := startCmd s c q 0 fun s x => complete s x 0 0 0

/-- UNLOAD (R362, R363). -/
def execUnload (c q : Nat) (s : State) : Out := startCmd s c q 2 fun s x => complete (unloadCtx s c) x 0 0 0

/-! ### Host transfers (R365, R366) -/

/-- Strips of a transfer. -/
def AvCmd.total (x : AvCmd) : Nat := x.f 0x24 2 * x.f 0x26 2
/-- Bytes of a strip. -/
def AvCmd.row (x : AvCmd) : Nat := x.f 0x20 4
/-- Device to host. -/
def AvCmd.toHost (x : AvCmd) : Bool := bitOf (x.f 0x3C 1) 0
/-- Whether it signals. -/
def AvCmd.sigEn (x : AvCmd) : Bool := bitOf (x.f 0x3C 1) 1
/-- Tally identifier of a transfer. -/
def AvCmd.xferTid (x : AvCmd) : Nat := x.f 0x38 4 % 2 ^ 20

/-- Byte offset of strip `k` with strides. -/
def stripOff (x : AvCmd) (k s1 s2 : Nat) : Nat := k % x.f 0x24 2 * s1 + k / x.f 0x24 2 * s2

/-- Host address of a strip. -/
def stripHost (x : AvCmd) (k : Nat) : Nat := (x.f 0x10 8 + stripOff x k (x.f 0x28 4) (x.f 0x2C 4)) % 2 ^ 64

/-- Device address of a strip. -/
def stripDev (x : AvCmd) (k : Nat) : W64 := BitVec.ofNat 64 (x.f 0x18 8 + stripOff x k (x.f 0x30 4) (x.f 0x34 4))

/-- The place of a strip, none where it lies outside the context (R106). -/
def stripPlace (s : State) (x : AvCmd) (k : Nat) : Option Place :=
  let r := resolveAddr s 0 x.c (stripDev x k) x.row false false
  if r.1.isEmpty then r.2 else none

/-- Whether the operands of a transfer are within R362. -/
def xferOk (x : AvCmd) : Bool :=
  let space := bits (x.f 0x18 8) 63 60
  (space = 1 || space = 3) && 64 ≤ x.row && x.row ≤ 1048576 && x.row % 64 = 0
    && 1 ≤ x.f 0x24 2 && 1 ≤ x.f 0x26 2 && x.f 0x30 4 % 64 = 0 && x.f 0x34 4 % 64 = 0

/-- Status of a transfer that ends: POISONED where a word it carried was (R360). -/
def doneStatus (x : AvCmd) : Nat := if x.poison then 0x0C else 0

/-- HOST_XFER (R362, R365): the operands are checked, and the transfer runs. -/
def execHostXfer (c q : Nat) (s : State) : Out :=
  startCmd s c q 3 fun s x =>
    if !xferOk x then complete s x 1 0 0
    else if (x.sigEn && (resolveTid s c none x.xferTid false).isNone)
        || (List.range x.total).any (fun k => (stripPlace s x k).isNone) then complete s x 0x0B 0 0
    else s

/-- The host engine writes bytes at a place: plainly, for it is no nib (R237). -/
def hostStore (s : State) (pl : Place) (bs : List Byte) (ps : List Bool) : State :=
  match pl with
  | .hbm a => writeDpa s a bs ps false
  | _ => writePlace s pl bs ps 0

/-- One strip moves: words `ep` come from the host with the EP bit set. Poison carried is noted with the command. -/
def moveStrip (s : State) (x : AvCmd) (pl : Place) (ep : List Nat) : State :=
  let host := stripHost x x.count
  if x.toHost then
    let (bs, ps) := readPlace s pl x.row
    onCmd { s with hostMem := writeBytes s.hostMem host bs } x.no fun y => { y with poison := y.poison || ps.any id }
  else
    let ps := (List.range (x.row / 64)).map ep.contains
    onCmd (hostStore s pl (readBytes s.hostMem host x.row) ps) x.no fun y => { y with poison := y.poison || ps.any id }

/-- Whether a signal is due once `k` strips have been delivered (R365). -/
def signalDue (x : AvCmd) (k : Nat) : Bool :=
  let e := x.f 0x3D 1
  x.sigEn && (k = x.total || (e ≠ 0 && k % e = 0))

/-- A transfer ends where all its strips are delivered, or those before a fault are (R365, R366, R369). -/
def xferEnd (s : State) (no : Nat) : State :=
  match s.cmds.find? fun x => x.no = no with
  | none => s
  | some x =>
    if x.count ≥ x.total then complete s x (doneStatus x) 0 x.count
    else match x.fault with
      | some (k, f) =>
        if x.count < k then s
        else match f with
          | .asked _ => s
          | .refused => complete s x 5 0 x.count
          | .exact => complete s x 6 0 x.count
          | .aborted => complete s x 4 0 x.count
      | none => s

/-- Whether the next strip of a transfer may move. -/
def stripFree (x : AvCmd) : Bool :=
  x.count < x.total && (match x.fault with | some (k, _) => decide (x.count < k) | none => true)

/-- Strips of a transfer that its engine has issued: those in flight lie within the port's 1,024 tags of 512 B. -/
def stripsIssued (x : AvCmd) : Nat :=
  Nat.min (Nat.min x.total (x.count + Nat.max 1 (524288 / x.row))) (match x.fault with | some (k, _) => k | none => x.total)

/-- What a signal of a context's host engine covers: the strips that it has issued on the channel (R262, R362). -/
def hostCovers (s : State) (c : Nat) (dst : SigDst) : List (Nat × Nat) :=
  (s.cmds.filter fun x => x.c = c && x.started && x.f 0 1 = 3 && !x.toHost && x.count < stripsIssued x
    && (List.range (stripsIssued x)).any fun k => x.count ≤ k
        && (match stripPlace s x k with | some pl => onChannel dst pl | none => false)).map
    fun x => (x.no, stripsIssued x)

/-- STRIP_DELIVERED (R365): the next strip has landed; words `ep` of it carried poison from the host. -/
def execStripDelivered (c q seq : Nat) (ep : List Nat) (s : State) : Out :=
  onPairCmd s c q fun s =>
    match runningCmd s c q seq 3 with
    | none => s
    | some x => match stripPlace s x x.count with
      | none => s
      | some pl =>
        if !stripFree x then s
        else
          let s := onCmd (moveStrip s x pl ep) x.no fun y => { y with count := x.count + 1 }
          let s := if signalDue x (x.count + 1) then
              match resolveTid s c none x.xferTid false with
              | some dst => hostSignal s c dst 1 ((hostCovers s c dst).filter fun p => p.1 ≠ x.no)
              | none => s
            else s
          xferEnd s x.no

/-- PAGE_FAULT (R366): the translation of strip `k` fails, with its page not present or refused by the agent. -/
def execPageFault (c q seq k : Nat) (refused : Bool) (s : State) : Out :=
  onPairCmd s c q fun s =>
    match runningCmd s c q seq 3 with
    | none => s
    | some x =>
      if x.fault.isSome || k < x.count || x.total ≤ k then s
      else
        let f : StripFault := if refused then .refused else if exactMode s c then .exact else .asked s.ftc
        let s := onCmd s x.no fun y => { y with fault := some (k, f) }
        let s := if refused || exactMode s c then s
          else send s (.packet "PAGE_REQUEST" (portOf s c) [c, q, seq, stripHost x k])
        xferEnd s x.no

/-- The answer to a page request: the transfer continues, or ends with TRANSLATION (R366). -/
def pageAnswer (s : State) (x : AvCmd) (ok : Bool) : State :=
  match x.fault with
  | some (k, .asked _) =>
    xferEnd (onCmd s x.no fun y => { y with fault := if ok then none else some (k, .refused) }) x.no
  | _ => s

/-- PAGE_REQUEST_RESPONSE (R366). One that finds no transfer waiting is ignored (R372). -/
def execPageRequestResponse (c q seq : Nat) (ok : Bool) (s : State) : Out :=
  onPairCmd s c q fun s =>
    match runningCmd s c q seq 3 with
    | some x => pageAnswer s x ok
    | none => s

/-- PRI_TIMEOUT (R366): the limit of AVF_PRI_TIMEOUT is tested at time `t`. -/
def execPriTimeout (c q seq t : Nat) (s : State) : Out :=
  onPairCmd s c q fun s =>
    let s := atTime s t
    match runningCmd s c q seq 3 with
    | none => s
    | some x => match x.fault with
      | some (_, .asked since) =>
        if s.ftc - since ≥ 1000000 * Nat.max 1 (getF s Reg.AVF_PRI_TIMEOUT 15 0) then
          pageAnswer (setBit s Reg.AVF_ERR 2) x false
        else s
      | _ => s

/-- Whether two byte ranges meet in a page. -/
def pagesMeet (a n b m : Nat) : Bool := a / 4096 * 4096 < b + m && b < (a + n + 4095) / 4096 * 4096

/-- Whether the strip that a transfer is moving holds a translation of the range. -/
def holdsRange (x : AvCmd) (iova len : Nat) : Bool :=
  x.started && x.f 0 1 = 3 && stripFree x && pagesMeet (stripHost x x.count) x.row iova len

/-- ATS_INVALIDATION (R365): it completes only when no strip in progress on the port holds a covered translation. -/
def execAtsInvalidation (port iova len : Nat) (s : State) : Out :=
  if port < 2 then
    if s.cmds.any fun x => portOf s x.c = port && holdsRange x iova len then .next s
    else .next (send s (.packet "ATS_INVALIDATION_DONE" port [iova, len]))
  else .fault .noSuchUnit

/-! ### Tallies (R362) -/

/-- TALLY_SIGNAL (R362). -/
def execTallySignal (c q : Nat) (s : State) : Out :=
  startCmd s c q 4 fun s x =>
    if x.f 0x14 2 = 0 then complete s x 1 0 0
    else match resolveTid s c none (x.f 0x10 4 % 2 ^ 20) false with
      | none => complete s x 0x0B 0 0
      | some dst => complete (hostSignal s c dst (x.f 0x14 2) (hostCovers s c dst)) x 0 0 0

/-- TALLY_WAIT (R362): the wait joins the tally's queue. -/
def execTallyWait (c q : Nat) (s : State) : Out :=
  startCmd s c q 5 fun s x =>
    match resolveTid s c none (x.f 0x10 4 % 2 ^ 20) true with
    | some (.here t) => enqueue s ⟨t, hostWho x, x.f 0x14 2, false⟩
    | _ => complete s x 0x0B 0 0

/-- TALLY_WAIT_TIMEOUT (R360): the limit of a TALLY_WAIT is tested at time `t`. -/
def execTallyWaitTimeout (c q seq t : Nat) (s : State) : Out :=
  onPairCmd s c q fun s =>
    let s := atTime s t
    match runningCmd s c q seq 5 with
    | some x =>
      if x.f 0x16 2 ≠ 0 && s.ftc - x.since ≥ 1000000 * x.f 0x16 2 then complete (withdraw s x) x 0x0E 0 0 else s
    | none => s

/-! ### Tier copies (R243, R244, R362) -/

/-- Bytes of a tier copy. -/
def AvCmd.len (x : AvCmd) : Nat := x.f 0x20 8

/-- Whether a context has been granted a range of the far tier (R243). -/
def farGranted (s : State) (c a n : Nat) : Bool :=
  s.farGrants.any fun g => g.1 = c && g.2.1 ≤ a && a + n ≤ g.2.1 + g.2.2

/-- TIER_COPY (R243, R362): the operands are checked, and the copy runs. -/
def execTierCopy (c q : Nat) (s : State) : Out :=
  startCmd s c q 7 fun s x =>
    let (dpa, fpa) := (x.f 0x10 8, x.f 0x18 8)
    if !cxlRole s || portOf s c ≠ 0 || dpa % 4096 ≠ 0 || fpa % 4096 ≠ 0 || x.len % 4096 ≠ 0 || 1 < x.f 0x28 1 then
      complete s x 1 0 0
    else if (resolveTid s c none (x.f 0x2C 4 % 2 ^ 20) false).isNone
        || fpa + x.len > 2 ^ 30 * getF s Reg.MEM_FAR_SIZE 12 0 || x.len > Config.hbmBytes
        || !farGranted s c fpa x.len || !dpaOwned (x.len / 4096 + 1) s c dpa x.len then complete s x 0x0B 0 0
    else if getF s Reg.MEM_FAR_STATUS 1 1 = 0 then complete s x 0x0A 0 0
    else s

/-- The far tier's words of a range that CXL returns poisoned. -/
def farPois (s : State) (a n : Nat) : List Bool := (List.range (n / 64)).map fun i => look false s.farPoison (a / 64 + i)

/-- Poison of far-tier words after a write. -/
def setFarPois (s : State) (a : Nat) (ps : List Bool) : State :=
  (List.range ps.length).foldl (fun s i =>
    { s with farPoison := put false s.farPoison (a / 64 + i) (ps.getD i false) }) s

/-- One unit of 4 KiB of a tier copy lands (R243, R244). -/
def tierUnit (s : State) (x : AvCmd) (k : Nat) : State :=
  let dpa := x.f 0x10 8 + 4096 * k
  let fpa := x.f 0x18 8 + 4096 * k
  if x.f 0x28 1 = 0 then
    let ps := farPois s fpa 4096
    let s := writeDpa s dpa (readBytes s.farMem fpa 4096) ps false
    let s := if ps.any id then
        let s := setBit s Reg.MEM_ERR 5
        match locate s dpa with
        | some l => setReg s Reg.MEM_ERR_INFO (BitVec.ofNat 32 (l.r + 256 * l.ch))
        | none => s
      else s
    onCmd s x.no fun y => { y with poison := y.poison || ps.any id }
  else
    let (bs, ps) := readDpa 4097 s dpa 4096
    let s := setFarPois { s with farMem := writeBytes s.farMem fpa bs } fpa ps
    onCmd s x.no fun y => { y with poison := y.poison || ps.any id }

/-- TIER_COPY_COMPLETE (R243): `n` more units of 4 KiB land; with the last one the copy signals its tally and
completes. -/
def execTierCopyComplete (c q seq n : Nat) (s : State) : Out :=
  onPairCmd s c q fun s =>
    match runningCmd s c q seq 7 with
    | none => s
    | some x =>
      let first := x.count / 4096
      let k := Nat.min n (x.len / 4096 - first)
      let s := (List.range k).foldl (fun s i => tierUnit s x (first + i)) s
      let s := onCmd s x.no fun y => { y with count := 4096 * (first + k) }
      match s.cmds.find? fun y => y.no = x.no with
      | none => s
      | some y =>
        if y.count < y.len then s
        else
          let s := if y.f 0x28 1 = 0 then wholeStripes s (y.f 0x10 8) y.len else s
          let s := match resolveTid s c none (y.f 0x2C 4 % 2 ^ 20) false with
            | some dst => hostSignal s c dst 1 (hostCovers s c dst)
            | none => s
          complete s y (doneStatus y) 0 y.count

/-- The CXL link goes down (R244): the copies in flight end with FAR_TIER; what has landed stays. -/
def cxlDown (s : State) : State :=
  let s := setBit (setF s Reg.MEM_FAR_STATUS 1 1 0) Reg.MEM_ERR 4
  (s.cmds.filter fun x => x.f 0 1 = 7 && x.started).foldl (fun s x => complete s x 0x0A 0 x.count) s

/-- CXL_LINK_DOWN (R244). -/
def execCxlLinkDown (s : State) : Out := .next (cxlDown s)

end Sys2Proof.Machine
end

