-- ==== Sys2Proof/Machine/MemOps.lean ====
section
/-!
DEFINITION. Memory management (R223, R226, R229 to R231, R453): region writes, failing channels, refolding, ZERO and
REBUILD.
-/
namespace Sys2Proof.Machine

/-- STATE of a channel but for its calibration bursts (R246): 0 down, 1 up, 3 failed, 4 fenced, 5 under self-test. -/
def chState (s : State) (ch : Nat) : Nat := getF s (chReg Reg.MEM_CH_STATUS ch) 2 0

/-- STATE of a channel as it reads (R246): 2 while an UP channel is in a calibration burst; a failure shows at once
(R245). -/
def chShown (s : State) (ch : Nat) : Nat :=
  if chState s ch = 1 && s.ftc < look 0 s.calEnd ch then 2 else chState s ch

/-- Change the STATE of a channel. -/
def setChState (s : State) (ch v : Nat) : State := setF s (chReg Reg.MEM_CH_STATUS ch) 2 0 v

/-- Whether a channel serves no data: failed, fenced or under self-test. -/
def chDead (s : State) (ch : Nat) : Bool := 3 ≤ chState s ch && chState s ch ≤ 5

/-- Channels of a region's map. -/
def regChannels (s : State) (r : Nat) : List Nat :=
  ((groupsOf (regionOf s r)).map (mapChannels (look [] s.regGone r))).flatten

/-- STATE of a region: 0 normal, 1 reconstructing, 2 lost, 3 refolded. -/
def regState (s : State) (r : Nat) : Nat := getF s (regOff Reg.MEM_REG_STATUS r) 1 0

/-- Change the STATE of a region. -/
def setRegState (s : State) (r v : Nat) : State := setF s (regOff Reg.MEM_REG_STATUS r) 1 0 v

/-- MEM_CMD_STATUS after a command. -/
def memResult (s : State) (st res : Nat) : State := setReg s Reg.MEM_CMD_STATUS (BitVec.ofNat 32 (st + 16 * res))

/-- A rebuild of a region ends or is given up. -/
def stopRebuild (s : State) (r : Nat) : State :=
  setF { s with regBuilt := drop s.regBuilt r } (regOff Reg.MEM_REG_STATUS r) 2 2 0

/-- A rebuild in progress stops where a channel of the region fails or is fenced again (R430): the command ends with
RESULT 3 (log 135). -/
def breakRebuild (s : State) (r : Nat) : State :=
  if getF s (regOff Reg.MEM_REG_STATUS r) 2 2 = 1 then memResult (stopRebuild s r) 3 3 else s

/-! ### Failing channels (R228, R229, R231) -/

/-- A contained error of a region (R229, R231, R418): it names the region and its lost channels in the group of `ch`, the
latest in INFO [7:0] and one before it in [15:8] (log 136). -/
def regError (s : State) (r ch : Nat) : State :=
  let old := match (failedIn s r (ch / 16)).filter (· ≠ ch) with | c :: _ => c | [] => 0
  raise s 2 0x26 6 (some (regionOf s r).ctx) r (ch + 256 * old)

/-- A region loses a channel of its map, for the first time or after it had been returned to service: what a rebuild had
formed on it is gone (R228, R229, R430). -/
def regLoses (s : State) (r ch : Nat) : State :=
  let old := look [] s.regFailed r
  let s := { s with regFailed := put [] s.regFailed r (if old.contains ch then old else old ++ [ch]) }
  if (regionOf s r).kind = 1 then
    let s := stopRebuild (breakRebuild s r) r
    if regState s r = 2 then s
    else if (failedIn s r (ch / 16)).length ≥ 2 then
      clearVerified (regError (memErr (setRegState s r 2) 2 r ch) r ch) r
    else setRegState s r 1
  else regError s r ch

/-- A channel fails, with the STATE it takes (R228, R231, R423). A failure is reported once per region: not again for a
channel that has served no data since. -/
def channelFails (s : State) (ch st : Nat) : State :=
  let was := chDead s ch
  let s := setChState s ch st
  ((List.range Config.regions).filter fun r =>
      (regionOf s r).valid && (regChannels s r).contains ch && !(was && (look [] s.regFailed r).contains ch)).foldl
    (fun s r => regLoses (memErr s 1 r ch) r ch) s

/-- Poison bits of every granule of a region are set (R231). -/
def poisonRegion (s : State) (r : Nat) : State :=
  let g := regionOf s r
  (regChannels s r).foldl (fun s ch =>
    { s with
      hbmGran := addRange (granKey ch g.chBase) (granKey ch (g.chBase + g.q)) s.hbmGran
      hbmPoison := dropRange s.hbmPoison (hbmKey ch g.chBase 0 / 64) (64 * g.q) }) s

/-- Refolding of a region (R231). -/
def refold (s : State) (r : Nat) : State :=
  let s := clearVerified s r
  let dead := ((List.range 256).filter fun ch => (groupsOf (regionOf s r)).contains (ch / 16) && chDead s ch)
  let s := { s with regGone := put [] s.regGone r dead, regFailed := drop s.regFailed r }
  setRegState (poisonRegion (stopRebuild s r) r) r 3

/-- Whether a region waits for refolding: it has lost a channel, and as a weight region it is lost. -/
def needsRefold (s : State) (r : Nat) : Bool :=
  (regionOf s r).valid && !(look [] s.regFailed r).isEmpty && ((regionOf s r).kind ≠ 1 || regState s r = 2)

/-- The regions of a context are refolded at a program load (R231). -/
def refoldCtx (s : State) (c : Nat) : State :=
  ((List.range Config.regions).filter fun r => (regionOf s r).ctx = c && needsRefold s r).foldl refold s

/-! ### Region writes (R223, R238, R453) -/

/-- Whether two intervals meet. -/
def meet (a n b m : Nat) : Bool := a < b + m && b < a + n

/-- Whether a region alone satisfies R223. -/
def regionFits (g : Region) : Bool :=
  1 ≤ g.q && g.q ≤ 524288 && g.chBase + g.q ≤ 524288 && g.kind ≤ 2 && (g.kind ≠ 2 || g.addFmt ≤ 4)
  && (match g.scope with | 0 => g.index = 0 | 1 => g.index ≤ 3 | 2 => g.index ≤ 7 | _ => g.index ≤ 15)
  && g.base + widthOf g [] * g.q ≤ 2 ^ 27

/-- Whether a region keeps clear of another valid one: in DPA, and on every shared channel (R223). -/
def regionApart (s : State) (g : Region) (r : Nat) : Bool :=
  let h := regionOf s r
  let gone := look [] s.regGone r
  !h.valid
    || (!meet g.base (widthOf g [] * g.q) h.base (widthOf h gone * h.q)
      && !((groupsOf g).any fun γ => (groupsOf h).contains γ && !(mapChannels gone γ).isEmpty
          && meet g.chBase g.q h.chBase h.q))

/-- Whether region `r` as it would stand satisfies R223 and R238. -/
def regionOk (s : State) (r : Nat) (g : Region) : Bool :=
  regionFits g && ((List.range Config.regions).all fun k => k = r || regionApart s g k)
  && !(exactMode s g.ctx && g.kind = 2 && (g.addFmt = 2 || g.addFmt = 3))

/-- A region takes a new map with every channel; channels that have failed already are lost to it at once. -/
def newMap (s : State) (r : Nat) : State :=
  let s := setRegState (stopRebuild { s with regGone := drop s.regGone r, regFailed := drop s.regFailed r } r) r 0
  if (regionOf s r).valid then
    ((regChannels s r).filter (chDead s)).foldl (fun s ch => regLoses s r ch) s
  else s

/-- A write of word `i` of region `r`: BASE, EXTENT, CHBASE or CFG (R453). -/
def regionWrite (s : State) (r i : Nat) (v : W32) : State :=
  let off := regOff Reg.MEM_REG_BASE r + 4 * i
  match rowAt off with
  | none => s
  | some (row, _, _) =>
    let v := v &&& BitVec.ofNat 32 row.rw
    let w := fun k => if k = i then v else getReg s (regOff Reg.MEM_REG_BASE r + 4 * k)
    let g := regionOfWords (w 0) (w 1) (w 2) (w 3)
    let old := regionOf s r
    if (old.valid && (ctxOf s old.ctx).loaded) || (g.valid && ((ctxOf s g.ctx).loaded || !regionOk s r g)) then
      memErr s 0 r 0
    else newMap (setReg s off v) r

/-! ### MEM_CMD (R226, R230, R231, R245) -/

/-- A range of a channel loses its poison, and with `store` stores zeros, but for locked granules. -/
def zeroChannel (s : State) (store : Bool) (ch base n : Nat) : State :=
  let lo := hbmKey ch base 0
  let keys := ((s.locks.map (·.2)).filter fun k => granKey ch base ≤ k && k < granKey ch (base + n)).eraseDups
  let keep := (keys.map fun k => keepRange s.hbm (k * 4096) 4096).flatten
  let keepP := (keys.map fun k => keepRange s.hbmPoison (k * 64) 64).flatten
  let gran := keys.filter (granBit s)
  let s := { s with
    hbm := if store then keep.foldl (fun m p => put 0 m p.1 p.2) (zeroBytes s.hbm lo (n * 4096)) else s.hbm
    hbmPoison := keepP.foldl (fun m p => put false m p.1 p.2) (dropRange s.hbmPoison (lo / 64) (n * 64))
    hbmGran := gran.foldl (fun rs k => addRange k (k + 1) rs)
      (delRange (granKey ch base) (granKey ch (base + n)) s.hbmGran) }
  if keys.isEmpty then s else setBit s Reg.SEC_ERR 0

/-- ZERO of a region: zeros on every channel that serves it, and no poison on any (R226, R246). With all data zero the parity
is zero too, so a reconstructed granule reads zero (R228). -/
def zeroRegion (s : State) (r : Nat) : State :=
  let g := regionOf s r
  if !g.valid || r ≥ 64 then memResult s 3 1
  else if (ctxOf s g.ctx).loaded then memResult s 3 2
  else
    let lost := look [] s.regFailed r
    memResult ((regChannels s r).foldl (fun s ch => zeroChannel s (!lost.contains ch) ch g.chBase g.q) s) 2 0

/-- REBUILD of a region is accepted or refused (R230). -/
def startRebuild (s : State) (r : Nat) : State :=
  let g := regionOf s r
  let failed := look [] s.regFailed r
  if !g.valid || r ≥ 64 then memResult s 3 1
  else if (ctxOf s g.ctx).loaded && exactMode s g.ctx then memResult s 3 2
  else if g.kind ≠ 1 || regState s r ≠ 1 || failed.isEmpty || failed.any (chDead s) then memResult s 3 3
  else
    memResult (setF { s with regBuilt := drop s.regBuilt r } (regOff Reg.MEM_REG_STATUS r) 2 2 1) 1 0

/-- One granule of a returned channel is formed again from the other channels of its group. -/
def rebuildGranule (s : State) (r ch gran : Nat) : State :=
  let others := (mapChannels (look [] s.regGone r) (ch / 16)).filter (· ≠ ch)
  let bytes := others.foldl (fun a c => xorBytes a (chBytes s c gran 0 4096)) (List.replicate 4096 0)
  let bad := (List.range 64).filter fun w => others.any fun c => wordPoison s c gran (64 * w)
  bad.foldl (fun s w => addPoison s ch gran (64 * w)) (storeCh s ch gran 0 bytes)

/-- The rebuild of a region completes its next stripe; after the last one the region is normal again (R230). -/
def rebuildStripe (s : State) (r : Nat) : State :=
  if getF s (regOff Reg.MEM_REG_STATUS r) 2 2 = 0 then s
  else
    let g := regionOf s r
    let q := look 0 s.regBuilt r
    let s := (look [] s.regFailed r).foldl (fun s ch => rebuildGranule s r ch (g.chBase + q)) s
    if q + 1 < g.q then { s with regBuilt := put 0 s.regBuilt r (q + 1) }
    else memResult (setRegState (stopRebuild { s with regFailed := drop s.regFailed r } r) r 0) 2 0

/-- REFOLD of a region (R231, R245). -/
def refoldCmd (s : State) (r : Nat) : State :=
  let g := regionOf s r
  if !g.valid || r ≥ 64 then memResult s 3 1
  else if (ctxOf s g.ctx).loaded then memResult s 3 2
  else if g.kind = 1 && regState s r ≠ 2 then memResult s 3 3
  else memResult (refold s r) 2 0

/-- A write of MEM_CMD (R246). -/
def memCmd (s : State) (cmd r : Nat) : State :=
  match cmd with
  | 1 => zeroRegion s r
  | 2 => startRebuild s r
  | 3 => refoldCmd s r
  | _ => memResult s 3 1

/-! ### Slot tables in force (R235, R236) -/

/-- Whether a context's program with a memory slot table uses a channel. -/
def tableUses (s : State) (c ch : Nat) : Bool :=
  (ctxOf s c).loaded && (ctxOf s c).memTab.isSome
    && (List.range Config.regions).any fun r =>
        (regionOf s r).valid && (regionOf s r).ctx = c && (regChannels s r).contains ch

/-- Whether the tables of two contexts or more bind a channel: each one's slots are off-schedule for the others (R235). -/
def tablesShare (s : State) (ch : Nat) : Bool := 2 ≤ ((List.range 16).filter fun c => tableUses s c ch).length

/-- Whether a table binds a channel. -/
def tableBinds (s : State) (ch : Nat) : Bool := (List.range 16).any fun c => tableUses s c ch

/-- Whether a table without hot slots binds some channel of a stack. -/
def coldTable (s : State) (st : Nat) : Bool :=
  (List.range 16).any fun c => (match (ctxOf s c).memTab with | some t => !t.hotReady | none => false)
    && (List.range 32).any fun k => tableUses s c (32 * st + k)

/-- Offset of a register of a stack. -/
def stkReg (base st : Nat) : Nat := base + 0x10000 * st

/-- Class of a stack temperature after class `old`, with 3 °C of hysteresis on the way down (R240). -/
def stackClass (old temp : Nat) : Nat :=
  if temp ≥ 95 then 2
  else if old = 2 ∧ temp ≥ 92 then 2
  else if temp ≥ 85 then 1
  else if old ≥ 1 ∧ temp ≥ 82 then 1
  else 0

/-- A stack reports its temperature (R240, R236). -/
def stackTemp (s : State) (st temp : Nat) : State :=
  let off := stkReg Reg.MEM_STK_STATUS st
  let cls := stackClass (getF s off 9 8) temp
  let s := setF (setF s off 7 0 temp) off 9 8 cls
  let s := setF s off 11 11 (if cls = 0 then 0 else 1)
  if cls ≠ 0 && (List.range 32).any fun k => tableBinds s (32 * st + k) then setBit s off 10 else s

/-- A refresh or calibration slot of a channel that several contexts' tables bind is off-schedule (R235, R236). -/
def slotShared (s : State) (ch : Nat) : State :=
  if tablesShare s ch then setBit s (stkReg Reg.MEM_STK_STATUS (ch / 32)) 10 else s

end Sys2Proof.Machine
end

