-- ==== Sys2Proof/Machine/Image.lean ====
section
/-!
DEFINITION. Program images (R97 to R100): the checks of a load in the order of R99, with those of the SCHEDULE section
(R149 to R152, R234, R235, R334) and of the SEAL_PLAN section (R343), and what an accepted load does (R100, R248, R401).
-/
namespace Sys2Proof.Machine

/-! ### Header and sections (R97, R98) -/

/-- A section-table entry. -/
structure Sec where
  ty : Nat
  first : Nat
  count : Nat
  off : Nat
  size : Nat
  well : Nat
deriving DecidableEq, Repr

/-- Section-table entry `i` of an image. -/
def secAt (bs : List Byte) (i : Nat) : Sec :=
  let e := (bs.drop (field bs 0x18 8 + 32 * i)).take 32
  ⟨field e 0 2, field e 4 2, field e 6 2, field e 8 8, field e 0x10 8, field e 0x18 4⟩

/-- The section table. -/
def sections (bs : List Byte) : List Sec := (List.range (field bs 0x16 2)).map (secAt bs)

/-- Bytes of a section. -/
def secBytes (bs : List Byte) (x : Sec) : List Byte := (bs.drop x.off).take x.size

/-- The first section of a type. -/
def secOf (bs : List Byte) (ty : Nat) : Option Sec := (sections bs).find? fun x => x.ty = ty

/-- GEOM, EXACT, MODE, PACKAGES and SPAN_NIBS of an image. -/
def imgGeom (bs : List Byte) : Nat := field bs 9 1
/-- EXACT. -/
def imgExact (bs : List Byte) : Nat := field bs 0x0A 1
/-- MODE. -/
def imgMode (bs : List Byte) : Nat := field bs 0x0C 1
/-- PACKAGES. -/
def imgPackages (bs : List Byte) : Nat := field bs 0x10 4
/-- SPAN_NIBS. -/
def imgSpan (bs : List Byte) : Nat := field bs 0x14 2

/-- Check 0x06: a reserved value of GEOM, EXACT, MODE or of a TYPE that lies wholly within the image. -/
def reservedImg (bs : List Byte) : Bool :=
  (imgGeom bs ≠ 1 && imgGeom bs ≠ 2) || 1 < imgExact bs || 1 < imgMode bs
    || (List.range (field bs 0x16 2)).any fun i =>
        field bs 0x18 8 + 32 * (i + 1) ≤ bs.length && ((secAt bs i).ty = 0 || 4 < (secAt bs i).ty)

/-- Whether the byte ranges of a list are pairwise apart; an empty range meets none. -/
def apart : List (Nat × Nat) → Bool
  | [] => true
  | (a, n) :: rest => rest.all (fun r => n = 0 || r.2 = 0 || !meet a n r.1 r.2) && apart rest

/-- Size and alignment of one section (R98). -/
def secOk (len : Nat) (x : Sec) : Bool :=
  x.off % 32 = 0 && x.off + x.size ≤ len
    && (match x.ty with
      | 1 => x.size % 32 = 0 && 1 ≤ x.size / 32 && x.size / 32 ≤ Config.bundleStore
      | 2 => x.well % 64 = 0 && x.well + x.size ≤ Config.wellBytes
      | _ => true)

/-- Check 0x07. -/
def badLayout (bs : List Byte) (size : Nat) : Bool :=
  let n := field bs 0x16 2
  let tab := field bs 0x18 8
  let xs := sections bs
  field bs 0x20 8 ≠ size || n < 2 || 256 < n || tab % 32 ≠ 0 || size < tab + 32 * n
    || !(xs.all (secOk size)) || !apart ((0, 128) :: (tab, 32 * n) :: xs.map fun x => (x.off, x.size))
    || (xs.filter fun x => x.ty = 3).length ≠ 1 || 1 < (xs.filter fun x => x.ty = 4).length

/-- Check 0x08: every nib of the span is served by exactly one CODE section, and no section serves another. -/
def badService (bs : List Byte) : Bool :=
  let xs := (sections bs).filter fun x => x.ty = 1 || x.ty = 2
  (xs.any fun x => 0 < x.count && imgSpan bs < x.first + x.count)
    || !((List.range (imgSpan bs)).all fun n =>
        (xs.filter fun x => x.ty = 1 && x.first ≤ n && n < x.first + x.count).length = 1)

/-- Check 0x09: ranges of R97, the nibs that the context's clusters hold (R353), and members of spans (R260). -/
def badSpan (s : State) (c : Nat) (bs : List Byte) : Bool :=
  let span := imgSpan bs
  imgPackages bs = 0 || 16384 < imgPackages bs || span = 0 || (if imgGeom bs = 1 then 3072 else 2688) < span
    || (ctxClusters s c).length * geomNibs (imgGeom bs) < span
    || (List.range 254).any fun k =>
        let a := spanOf (ctxOf s c) (k + 2)
        a.valid && a.parent = 1 && span < a.first + a.members

/-- Clusters that an image needs (R99, check 0x0C). -/
def needed (s : State) (c : Nat) (bs : List Byte) : List Nat :=
  let g := geomNibs (imgGeom bs)
  (ctxClusters s c).take ((imgSpan bs + g - 1) / g)

/-- Dies that an image uses. -/
def neededDies (s : State) (c : Nat) (bs : List Byte) : List Nat := ((needed s c bs).map (· / 12)).eraseDups

/-- Whether a cluster holds a nib that is fenced, testing or failed, or is so itself (R423), or lies on a die whose fabric has
failed (R426). -/
def clusterBad (s : State) (k : Nat) : Bool :=
  s.deadDies.contains (k / 12) || svcOf s 2 k ≠ 0 || ((List.range 64).map (64 * k + ·)).any fun n =>
    svcOf s 1 n ≠ 0 || bitOf (nibReg (nibOf s n) Reg.NIB_ABFT_STATUS).toNat 2

/-! ### The SCHEDULE section (R149) -/

/-- A directory entry of the SCHEDULE section: type, die, its bytes. -/
structure SchedEntry where
  ty : Nat
  die : Nat
  data : List Byte
deriving DecidableEq, Repr

/-- The directory of a SCHEDULE section; none where the header or an entry breaks R149. -/
def schedule (bs : List Byte) : Option (List SchedEntry) :=
  let n := field bs 2 2
  if bs.length < 16 || field bs 0 2 ≠ 1 || n < 1 || 64 < n || bs.length < 16 + 16 * n then none
  else
    let es := (List.range n).map fun i => (bs.drop (16 + 16 * i)).take 16
    let bad := es.any fun e =>
      let ty := field e 0 2
      !(ty = 1 || ty = 2 || ty = 0x10 || ty = 0x20) || (if ty = 1 then 3 else 0) < field e 2 1
        || field e 4 4 % 16 ≠ 0 || bs.length < field e 4 4 + field e 8 4
    if bad then none
    else some (es.map fun e => ⟨field e 0 2, field e 2 1, (bs.drop (field e 4 4)).take (field e 8 4)⟩)

/-! ### Mesh slot tables (R145, R146, R150, R152) -/

/-- The cluster node that an edge node lies beside, and the direction towards the edge node (R145). -/
def edgeAt : Nat → Option (Nat × Nat)
  | 12 => some (0, 0)
  | 13 => some (3, 0)
  | 14 => some (7, 3)
  | 15 => some (4, 1)
  | 16 => some (8, 3)
  | 17 => some (11, 1)
  | _ => none

/-- The cluster node at a row and column. -/
def nodeAt (r c : Nat) : Option Nat := (List.range 12).find? fun k => gridPos k = (r, c)

/-- The node that a link leads to: link 4 n + D leaves node n in direction D (R145). -/
def linkTo (l : Nat) : Option Nat :=
  let n := l / 4
  let d := l % 4
  match edgeAt n with
  | some (a, e) => if d = (e + 2) % 4 then some a else none
  | none =>
    if n ≥ 12 then none
    else match [12, 13, 14, 15, 16, 17].find? fun e => edgeAt e = some (n, d) with
      | some e => some e
      | none =>
        let (r, c) := gridPos n
        match d with
        | 0 => if r = 0 then none else nodeAt (r - 1) c
        | 1 => nodeAt r (c + 1)
        | 2 => nodeAt (r + 1) c
        | _ => if c = 0 then none else nodeAt r (c - 1)

/-- Whether a path leads from a node to another (R152). -/
def connected (a b : Nat) : List Nat → Bool
  | [] => a = b
  | l :: ls => l / 4 = a && (match linkTo l with | some n => connected n b ls | none => false)

/-- Whether DST_UNIT is permitted at a node of die `d` (R148, R150, R152). -/
def dstUnitOk (d node unit : Nat) : Bool :=
  if node < 12 then unit < 64
  else match node with
    | 13 => unit = 0xFF || (unit < 4 && unit ≠ d)
    | 16 => unit < 4 && ((unit + 4 - d) % 4 = 3 || (unit + 4 - d) % 4 = 2)
    | 17 => unit < 4 && ((unit + 4 - d) % 4 = 1 || (unit + 4 - d) % 4 = 2)
    | _ => unit = 0

/-- A flow of 16 bytes; none where it breaks R150 or R152. -/
def flowOfBytes (d : Nat) (e : List Byte) : Option Flow :=
  let hops := field e 6 1
  let links := (List.range 6).map fun i => field e (8 + i) 1
  let f : Flow := ⟨field e 0 2, field e 2 1, field e 3 1, field e 4 1, field e 5 1, links.take hops⟩
  if 1 ≤ f.id ∧ f.id ≤ 4095 ∧ f.srcNode ≤ 17 ∧ f.dstNode ≤ 17 ∧ 1 ≤ hops ∧ hops ≤ 6
      ∧ f.srcUnit < (if f.srcNode < 12 then 64 else 1) ∧ dstUnitOk d f.dstNode f.dstUnit
      ∧ (links.drop hops).all (· = 0) ∧ connected f.srcNode f.dstNode f.links then some f
  else none

/-- Whether two grants of a frame of `f` cycles share a cycle: from `a` for `n` cycles, from `b` for `m`. -/
def circMeet (f a n b m : Nat) : Bool := (b + f - a % f) % f < n || (a + f - b % f) % f < m

/-- Whether every pair of a list satisfies a relation. -/
def pairwiseB {α : Type} (r : α → α → Bool) : List α → Bool
  | [] => true
  | x :: xs => xs.all (r x) && pairwiseB r xs

/-- Every element, or none where one is missing. -/
def allSome {α : Type} : List (Option α) → Option (List α)
  | [] => some []
  | none :: _ => none
  | some x :: xs => (allSome xs).map (x :: ·)

/-- Grants of links: link, start and length (R146). -/
def grants (frame : Nat) (flows : List Flow) (run : Nat × Nat × Nat) : List (Nat × Nat × Nat) :=
  match flows.find? fun f => f.id = run.2.2 with
  | none => []
  | some f => (List.range f.links.length).map fun h => (f.links.getD h 0, (run.1 + 2 * h) % frame, run.2.1)

/-- A mesh slot table; none where it breaks R150 or R152. Runs are start, length and flow. -/
def meshOf (d : Nat) (bs : List Byte) : Option MeshTab :=
  let lg := field bs 0 1
  let (nf, nr) := (field bs 2 2, field bs 4 4)
  let frame := 2 ^ lg
  if bs.length < 16 || lg < 8 || 16 < lg || nf < 1 || 4095 < nf || nr < 1 || 65536 < nr
      || bs.length < 16 + 16 * nf + 8 * nr then none
  else match allSome ((List.range nf).map fun i => flowOfBytes d ((bs.drop (16 + 16 * i)).take 16)) with
    | none => none
    | some fs =>
      let runs := (List.range nr).map fun i =>
        let e := (bs.drop (16 + 16 * nf + 8 * i)).take 8
        (field e 0 2, field e 2 2 + 1, field e 4 2)
      let good := pairwiseB (fun f g => f.id ≠ g.id && !(f.srcNode = g.srcNode && f.srcUnit = g.srcUnit
            && f.dstNode = g.dstNode && f.dstUnit = g.dstUnit)) fs
        && runs.all (fun r => r.1 < frame && r.2.1 ≤ frame && fs.any fun f => f.id = r.2.2)
        && pairwiseB (fun a b => a.1 ≠ b.1 || !circMeet frame a.2.1 a.2.2 b.2.1 b.2.2)
            ((runs.map (grants frame fs)).flatten)
      if good then some ⟨lg, fs, runs⟩ else none

/-! ### Crossing table (R334) -/

/-- Minimum latency of a crossing; none at other nodes. -/
def crossMin : Nat → Option Nat
  | 13 => some 24
  | 14 => some 16
  | 15 => some 16
  | 16 => some 12
  | 17 => some 12
  | _ => none

/-- The declared crossings: die, node, cycles; none where the table breaks R334. -/
def crossingOf (bs : List Byte) : Option (List (Nat × Nat × Nat)) :=
  let n := field bs 2 2
  if bs.length < 16 || field bs 0 1 ≠ 1 || 20 < n || bs.length < 16 + 4 * n then none
  else
    let rs := (List.range n).map fun i =>
      let e := (bs.drop (16 + 4 * i)).take 4
      (field e 0 1, field e 1 1, field e 2 2)
    if rs.all (fun r => r.1 < 4 && (match crossMin r.2.1 with | some m => m ≤ r.2.2 | none => false))
        && pairwiseB (fun a b => !(a.1 = b.1 && a.2.1 = b.2.1)) rs then some rs
    else none

/-! ### Memory slot table (R234, R235) -/

/-- Cycles of a slot (R234). -/
def slotLen (kind : Nat) : Nat := if kind = 2 then 1500 else 136

/-- Insertion into an ascending list. -/
def sortIn (x : Nat) : List Nat → List Nat
  | [] => [x]
  | y :: ys => if x ≤ y then x :: y :: ys else y :: sortIn x ys

/-- Largest gap between consecutive starts around a frame. -/
def maxGap (frame : Nat) (starts : List Nat) : Nat :=
  let xs := starts.foldr sortIn []
  match xs with
  | [] => 2 * frame + 2 ^ 40
  | x :: rest => (List.zipWith (fun a b => b - a) xs (rest ++ [x + frame])).foldl Nat.max 0

/-- Whether a slot record covers channel `ch` of the package. -/
def slotCovers (ch : Nat) (r : Nat × Nat × Nat × Nat) : Bool := r.2.1 = ch / 32 && (r.2.2.1 = 0xFF || r.2.2.1 = ch % 32)

/-- Whether a channel's slots keep the gaps of R235. -/
def gapsOk (t : MemTab) (ch : Nat) : Bool :=
  let of := fun (p : Nat → Bool) => (t.slots.filter fun r => slotCovers ch r && p r.2.2.2).map (·.1)
  let frame := 2 ^ t.frameLog2
  10 * maxGap frame (of (· = 0)) ≤ 39 * t.floorMhz
    && (!t.hotReady || 20 * maxGap frame (of (· ≤ 1)) ≤ 39 * t.floorMhz)
    && maxGap frame (of (· = 2)) ≤ 375 * t.floorMhz

/-- A memory slot table; none where it breaks R234, overlaps slots of a channel, or leaves a gap on one of the channels
`chs` (R235). -/
def memTabOf (chs : List Nat) (bs : List Byte) : Option MemTab :=
  let (lg, mhz, n, hot) := (field bs 1 1, field bs 2 2, field bs 4 4, field bs 8 1)
  if bs.length < 16 || field bs 0 1 ≠ 1 || lg < 12 || 20 < lg || mhz < 600 || 1000 < mhz || n < 1 || 65536 < n
      || 1 < hot || bs.length < 16 + 8 * n then none
  else
    let rs := (List.range n).map fun i =>
      let e := (bs.drop (16 + 8 * i)).take 8
      (field e 0 4, field e 4 1, field e 5 1, field e 6 1)
    let t : MemTab := ⟨lg, mhz, hot = 1, rs⟩
    if rs.all (fun r => r.1 < 2 ^ lg && r.2.1 < 8 && (r.2.2.1 < 32 || r.2.2.1 = 0xFF) && r.2.2.2 ≤ 2)
        && pairwiseB (fun a b => a.2.1 ≠ b.2.1 || (a.2.2.1 ≠ b.2.2.1 && a.2.2.1 ≠ 0xFF && b.2.2.1 ≠ 0xFF)
            || !circMeet (2 ^ lg) a.1 (slotLen a.2.2.2) b.1 (slotLen b.2.2.2)) rs
        && chs.all (gapsOk t) then some t
    else none

/-- Channels that a job of context `c` uses (R235). -/
def ctxChannels (s : State) (c : Nat) : List Nat :=
  ((((List.range Config.regions).filter fun r => (regionOf s r).valid && (regionOf s r).ctx = c).map
    (regChannels s)).flatten).eraseDups

/-! ### Chain plan (R138, R139, R151, R152) -/

/-- A chain plan of 64 bytes; none where it breaks R138 or R151. -/
def chainOf (bs : List Byte) : Option ChainPlan :=
  let p : ChainPlan :=
    { clusters := field bs 1 1, rot := field bs 2 1 % 16, nxt := field bs 2 1 / 16, com := field bs 3 1 % 16,
      piece := field bs 4 4, common := field bs 8 4, rotLog := field bs 0x0C 1, nxtLog := field bs 0x0D 1,
      comLog := field bs 0x0E 1, rotBase := field bs 0x10 4, nxtBase := field bs 0x14 4, comBase := field bs 0x18 4 }
  if bs.length ≥ 64 ∧ field bs 0 1 = 1 ∧ 1 ≤ p.clusters ∧ p.clusters ≤ 12
      ∧ p.piece % 4096 = 0 ∧ 4096 ≤ p.piece ∧ p.piece ≤ 262144 ∧ p.common % 64 = 0 ∧ p.common ≤ 65536
      ∧ 12 ≤ p.rotLog ∧ p.rotLog ≤ 19 ∧ 12 ≤ p.nxtLog ∧ p.nxtLog ≤ 18 ∧ p.piece ≤ 2 ^ p.nxtLog
      ∧ 11 ≤ p.comLog ∧ p.comLog ≤ 17 ∧ 2 * p.common ≤ 2 ^ p.comLog
      ∧ p.rotBase % 2 ^ p.rotLog = 0 ∧ p.nxtBase % 2 ^ p.nxtLog = 0 ∧ p.comBase % 2 ^ p.comLog = 0 then some p
  else none

/-- Well ranges of the chain rings. -/
def chainRanges (p : ChainPlan) : List (Nat × Nat) :=
  [(p.rotBase, 2 ^ p.rotLog), (p.nxtBase, 2 ^ p.nxtLog), (p.comBase, 2 ^ p.comLog)]

/-- Whether a chain plan fits the image and the context's clusters (R139, R152). -/
def chainFits (s : State) (c : Nat) (bs : List Byte) (p : ChainPlan) : Bool :=
  imgSpan bs % geomNibs (imgGeom bs) = 0
    && needed s c bs = ((List.range 4).map fun d => (List.range p.clusters).map (12 * d + ·)).flatten
    && p.rot ≠ p.nxt && p.rot ≠ p.com && p.nxt ≠ p.com
    && apart (chainRanges p)
    && (chainRanges p).all (fun r => r.1 + r.2 ≤ Config.wellBytes)
    && ((sections bs).filter fun x => x.ty = 2).all fun x =>
        (chainRanges p).all fun r => x.size = 0 || !meet x.well x.size r.1 r.2

/-- What the SCHEDULE section gives. -/
structure Sched where
  mesh : List (Nat × MeshTab)
  chain : Option ChainPlan
  memTab : Option MemTab
  crossing : List (Nat × Nat × Nat)
deriving DecidableEq, Repr

/-- The SCHEDULE section of an image, none where it is to be rejected with 0x0A (R152, R235, R328, R334). -/
def schedOf (s : State) (c : Nat) (bs : List Byte) : Option Sched :=
  match (secOf bs 3).bind fun x => schedule (secBytes bs x) with
  | none => none
  | some es =>
    let of := fun ty => es.filter fun e => e.ty = ty
    let mesh := allSome ((of 1).map fun e => (meshOf e.die e.data).map fun t => (e.die, t))
    let chain := allSome ((of 2).map fun e => chainOf e.data)
    let mem := allSome ((of 0x10).map fun e => memTabOf (ctxChannels s c) e.data)
    let cross := allSome ((of 0x20).map fun e => crossingOf e.data)
    match mesh, chain, mem, cross with
    | some ms, some ch, some mt, some cr =>
      if pairwiseB (fun a b => a.1 ≠ b.1) ms && ((neededDies s c bs).all fun d => ms.any fun m => m.1 = d)
          && ch.length = (if imgMode bs = 0 then 1 else 0) && ch.all (chainFits s c bs)
          && mt.length ≤ 1 && cr.length ≤ 1
          && (mt.length = 1 || (imgExact bs = 0 && !exactMode s c)) then
        some ⟨ms, ch.head?, mt.head?, (cr.head?).getD []⟩
      else none
    | _, _, _, _ => none

/-! ### The SEAL_PLAN section (R343) -/

/-- A seal plan of a section; none where it is to be rejected with 0x0B. -/
def planOf (s : State) (c span packages : Nat) (bs : List Byte) : Option SealPlan :=
  let (nl, nn) := (field bs 2 2, field bs 4 2)
  if bs.length < 16 || field bs 0 2 ≠ 1 || nl < 1 || 4096 < nl || nn ≠ span
      || bs.length ≠ 16 + 32 * nl + 8 * nl * nn then none
  else
    let layers := (List.range nl).map fun i =>
      let e := (bs.drop (16 + 32 * i)).take 32
      (⟨field e 0 2, bitOf (field e 2 1) 0, field e 4 4, field e 8 4, field e 0x0C 4, field e 0x10 8⟩ : SealLayer)
    let table := (List.range (nl * nn)).map fun i =>
      let e := (bs.drop (16 + 32 * nl + 8 * i)).take 8
      (field e 0 4, field e 4 4)
    let p : SealPlan := ⟨layers, nn, table⟩
    if layers.all (fun l => !(l.tileLog && l.tlog = 0)
          && (l.tlog = 0 || dpaOwned (32 * l.tiles / 4096 + 3) s c l.tlog (32 * l.tiles)))
        && (List.range nl).all (fun i => (List.range nn).all fun n =>
          let e := planEntry p i n
          match layers[i]? with
          | some l => e.2 = 0 || e.1 + (e.2 - 1) * l.stride + (packages - 1) * l.pkgStride < l.tiles
          | none => true) then some p
    else none

/-- The seal plan of an image: none where it is to be rejected, `some none` where it has none. -/
def imgPlan (s : State) (c : Nat) (bs : List Byte) : Option (Option SealPlan) :=
  match secOf bs 4 with
  | none => some none
  | some x => (planOf s c (imgSpan bs) (imgPackages bs) (secBytes bs x)).map some

/-! ### The checks in order (R99) -/

/-- The code of the first check that an image fails, 0 where it passes all. -/
def loadCode (s : State) (c : Nat) (bs : List Byte) : Nat :=
  if (ctxOf s c).loaded then 0x0D
  else if bs.length < 128 || field bs 0 4 ≠ 0x49505143 || field bs 4 2 ≠ 1 || field bs 6 2 ≠ 128 then 0x01
  else if 1 < field bs 8 1 then 0x02
  else if imgGeom bs = 1 && s.perCluster = 56 then 0x03
  else if field bs 0x0B 1 ≠ 1 then 0x04
  else if imgExact bs = 1 && !exactMode s c then 0x05
  else if reservedImg bs then 0x06
  else if badLayout bs bs.length then 0x07
  else if badService bs then 0x08
  else if badSpan s c bs then 0x09
  else if (needed s c bs).any (clusterBad s) then 0x0C
  else if (schedOf s c bs).isNone then 0x0A
  else if (imgPlan s c bs).isNone then 0x0B
  else 0

/-! ### Acceptance (R100, R248, R259, R264, R401) -/

/-- Bundles of a CODE section. -/
def bundlesOf (bs : List Byte) : List (BitVec 256) :=
  (chunks 32 (bs.length / 32) bs).map fun b => BitVec.ofNat 256 (leNat b)

/-- A ring of the chain as the package configures it (R152). -/
def chainRing (log2 base : Nat) : Ring := { Ring.empty with valid := true, log2 := log2, base := base, offpkg := true, chain := true }

/-- A nib that an image serves (R100): reset but for the bytes of its well and NIB_ABFT_CTRL. -/
def loadedNib (b : Nib) (code : List (BitVec 256)) (chain : Option ChainPlan) : Nib :=
  let n := { Nib.reset with st := 1, well := b.well, wellPoison := b.wellPoison, code := code }
  let n := setNibReg n Reg.NIB_ABFT_CTRL (nibReg b Reg.NIB_ABFT_CTRL)
  match chain with
  | none => n
  | some p =>
    setRing (setRing (setRing n p.rot (chainRing p.rotLog p.rotBase)) p.nxt (chainRing p.nxtLog p.nxtBase))
      p.com (chainRing p.comLog p.comBase)

/-- The nibs of the span receive their code, the clusters being known to the context already. -/
def loadNibs (s : State) (c : Nat) (bs : List Byte) (chain : Option ChainPlan) : State :=
  ((sections bs).filter fun x => x.ty = 1).foldl (fun s x =>
    let code := bundlesOf (secBytes bs x)
    ((List.range x.count).filterMap fun i => nibOfIndex s c (x.first + i)).foldl
      (fun s n => onNib s n fun b => loadedNib b code chain) s) s

/-- The CONST sections are copied into wells (R98). -/
def loadConsts (s : State) (c : Nat) (bs : List Byte) (poison : List Bool) : State :=
  ((sections bs).filter fun x => x.ty = 2).foldl (fun s x =>
    let data := secBytes bs x
    let words := (List.range ((data.length + 63) / 64)).map fun i =>
      poison.getD ((x.off + 64 * i) / 64) false
    ((List.range x.count).filterMap fun i => nibOfIndex s c (x.first + i)).foldl
      (fun s n => onNib s n fun b => writeWell (data.length + 1) b x.well data words) s) s

/-- Tallies, hang records and collective counts of a context are cleared (R248, R326). -/
def clearTallies (s : State) (c : Nat) : State :=
  let (lo, n) := hubRange s c
  let s := { s with hubTal := dropRange s.hubTal lo n }
  let s := setReg (setReg s (talReg Reg.FTC_TALC_HANG_NIB c) 0) (talReg Reg.FTC_TALC_HANG_TID c) 0
  let s := setReg s (perCtx Reg.RTR_CTX_DONE 0x20 c) 0
  setReg64 s (talReg Reg.FTC_TALC_HANG_TIME c) 0

/-- Order of a cluster's wake: o = 4 k + d (R402). -/
def wakeOrder (k : Nat) : Nat := 4 * (k % 12) + k / 12

/-- Wakes of clusters join those in progress, in ascending order (R402, R410). -/
def startWakes (s : State) (ks : List Nat) (target : Nat) : State :=
  let s := { s with wakes := s.wakes ++ ((List.range 48).filterMap fun o =>
    ks.find? fun k => wakeOrder k = o).map fun k => (k, target) }
  ks.foldl (fun s k => setDom s (domOf k) 3) s

/-- SEC_SEALc_IMG0 to 7 show D_IMG (R341). -/
def showImage (s : State) (c : Nat) (d : List Byte) : State :=
  (List.range 8).foldl (fun s i =>
    setReg s (Reg.SEC_SEAL_IMG + 0x40 * c + 4 * i) (BitVec.ofNat 32 (field d (4 * i) 4))) s

/-- Mesh slot tables take effect on their dies, with their missed slots counted anew (R146, R159). -/
def loadMesh (s : State) (ms : List (Nat × MeshTab)) : State :=
  ms.foldl (fun s m =>
    setReg64 { s with mesh := put none s.mesh m.1 (some m.2) } (Reg.NIB_DIE_MESH_MISS + 0x800000 * m.1) 0) s

/-- An accepted load. -/
def loadAccept (s : State) (c : Nat) (bs : List Byte) (poison : List Bool) (d : Sched) (plan : Option SealPlan) :
    State :=
  let s := refoldCtx s c
  let img := digest "VX1-IMG" bs
  let s := onCtx s c fun x =>
    { Ctx.empty with
      tmap := x.tmap, spans := x.spans, loaded := true, locked := true, gen := x.gen + 1, geom := imgGeom bs,
      exactImg := imgExact bs = 1, resident := imgMode bs = 1, packages := imgPackages bs, spanNibs := imgSpan bs,
      image := img, chain := d.chain, memTab := d.memTab, crossing := d.crossing, plan := plan }
  let need := needed s c bs
  let s := startWakes s (need.filter fun k => domState s (domOf k) = 0) 1
  let s := loadConsts (loadNibs s c bs d.chain) c bs poison
  let s := { s with cports := (ctxClusters s c).foldl drop s.cports }
  showImage (loadMesh (clearTallies s c) d.mesh) c img

/-- Whether the clock of a die that the image uses lies below the FLOOR_MHZ of its table: the load waits (R410). -/
def loadWaits (s : State) (c : Nat) (bs : List Byte) (d : Sched) : Bool :=
  match d.memTab with
  | none => false
  | some t => (neededDies s c bs).any fun k => getF s (Reg.PWR_DIE_CLK + 4 * k) 10 0 < t.floorMhz

/-- The image that a LOAD presents, with poison by 64 B word; none where its address lies outside the context. -/
def loadSource (s : State) (x : AvCmd) : Option (List Byte × List Bool) :=
  let (src, n) := (x.f 0x10 8, x.f 0x20 8)
  if x.f 0x18 1 = 0 then some (readBytes s.hostMem src n, [])
  else if dpaOwned (n / 4096 + 2) s x.c src n then some (readDpa (n + 1) s src n) else none

/-- LOAD (R99, R362): the image is checked and loaded, or rejected with a code; it waits for the clock of R410. -/
def execLoad (c q : Nat) (s : State) : Out :=
  match readyCmd s c q with
  | none => .next s
  | some x =>
    if x.f 0 1 ≠ 1 then .next s
    else if 1 < x.f 0x18 1 then .next (complete s x 1 0 0)
    else match loadSource s x with
      | none => .next (complete s x 0x0B 0 0)
      | some (bs, poison) =>
        let t := refoldCtx s c
        let code := loadCode t c bs
        if code ≠ 0 then .next (complete s x 7 code 0)
        else match schedOf t c bs, imgPlan t c bs with
          | some d, some plan =>
            if loadWaits s c bs d then .next s
            else .next (complete (loadAccept s c bs poison d plan) x (if poison.any id then 0x0C else 0) 0 0)
          | _, _ => .next s

end Sys2Proof.Machine
end

