-- ==== Sys2Proof/Machine/RibOps.lean ====
section
/-!
DEFINITION. The ribbon controller's parts: the ring of members (R182, R186, R215), command results (R219), the directory
agreement (R194, R207), lap records and admission (R198 to R200), sending on a hop (R188, R189), and the switch (R206 to
R211).
-/
namespace Sys2Proof.Machine

/-! ### The ring -/

/-- The next surviving member from position `p` in a direction (R182, R215); `p` itself where no other is left. -/
def ribNext (s : State) (p : Nat) (ccw : Bool) : Nat :=
  let n := ribN s
  match ((List.range n).map fun i => if ccw then (p + n - 1 - i) % n else (p + 1 + i) % n).find? fun q =>
    !s.rib.failed.contains q with
  | some q => q
  | none => p

/-- Members on the closed ring. -/
def ribLiveN (s : State) : Nat := ((List.range (ribN s)).filter fun p => !s.rib.failed.contains p).length

/-- Position of the lead (R182, R215). -/
def ribLead (s : State) : Nat := getF s Reg.RIB_STATUS 21 16

/-- Whether this member is the lead. -/
def isLead (s : State) : Bool := ribPos s = ribLead s

/-- RIB_STATUS.LIVE_MEMBERS and LEAD follow the surviving positions (R215). -/
def showRing (s : State) : State :=
  let lead := match (List.range (ribN s)).find? fun p => !s.rib.failed.contains p with | some p => p | none => 0
  setF (setF s Reg.RIB_STATUS 15 8 (ribLiveN s)) Reg.RIB_STATUS 21 16 lead

/-- RIB_CTRL.MIRRORED. -/
def mirrored (s : State) : Bool := getF s Reg.RIB_CTRL 4 4 = 1

/-- The position whose HBM serves a block: its home, or the stand-in for a failed home (R186, R216). -/
def servedBy (s : State) (e : DirEntry) : Nat :=
  if s.rib.failed.contains e.home then (e.home + 2) % ribN s else e.home

/-- A command's CMD_RESULT; a refusal sets RIB_ERR.CMD (R219). -/
def ribResult (s : State) (v : Nat) : State :=
  let s := setF s Reg.RIB_STATUS 7 4 v
  if v = 0 then s else setBit s Reg.RIB_ERR 10

/-- The context's program runs in resident mode (R218). -/
def residentRib (s : State) : Bool := (ctxOf s (ribCtx s)).loaded && (ctxOf s (ribCtx s)).resident

/-! ### The directory agreement (R183, R194, R207) -/

/-- The set that is not active. -/
def shadowSet (s : State) : Nat := 1 - activeSet s

/-- Positions other than this member's that survive. -/
def others (s : State) : List Nat :=
  (List.range (ribN s)).filter fun p => p ≠ ribPos s && !s.rib.failed.contains p

/-- Whether a digest that differs from this member's has arrived for a set. -/
def digsDiffer (s : State) (set : Nat) : Bool :=
  let d := setDigest s set
  s.rib.digs.any fun x => x.1 = set && (others s).contains x.2.1 && x.2.2 ≠ d

/-- Whether every other member's digest of a set has arrived and agrees; a resident member has only its own (R218). -/
def digsAgree (s : State) (set : Nat) : Bool :=
  let d := setDigest s set
  residentRib s || (others s).all fun p => s.rib.digs.contains (set, p, d)

/-- Whether the shadow set is whole and verified at this member (R207). -/
def shadowWhole (s : State) : Bool :=
  setComplete s (shadowSet s) && (setEntries s (shadowSet s)).all fun x => (dirEntry s x).verified

/-- RIB_SETS.SHADOW_VERIFIED (R207). -/
def shadowVerified (s : State) : Bool := shadowWhole s && digsAgree s (shadowSet s)

/-- RIB_SETS.SHADOW_LOADED. -/
def shadowLoaded (s : State) : Bool := !(setEntries s (shadowSet s)).isEmpty

/-! ### Marks (R190) -/

/-- The 32 bytes of a mark: KIND, its fields, and the 16 bytes at 0x10. -/
def markBytes (kind : Nat) (m : Mark) (tail : List Byte) : List Byte :=
  natLE 1 1 ++ natLE 1 kind ++ natLE 2 m.ribbon ++ natLE 4 m.lap ++ natLE 4 m.epoch ++ natLE 1 m.set ++ natLE 1 m.origin
    ++ natLE 2 m.hops ++ tail

/-- Bytes 0x10 to 0x1F of every mark but DIRCHK: LIVE_OLD, MIN_CLOSED, FTC. -/
def markTail (m : Mark) : List Byte := natLE 4 m.liveOld ++ natLE 4 m.minClosed ++ natLE 8 m.ftc

/-- A mark that originates here now, with the fields that its kind has (R190). -/
def ownMark (s : State) : Mark := ⟨false, ribId s, 0, 0, 0, ribPos s, 0, 0, 0, s.ftc, .idle⟩

/-- A mark leaves on a hop. -/
def putMark (s : State) (what : String) (ccw : Bool) (kind : Nat) (m : Mark) (tail : List Byte) : State :=
  send s (.ring what ccw ((markBytes kind m tail).map (·.toNat)))

/-- A mark leaves on both hops; a ribbon of one has none (R183, R192). -/
def putMarkBoth (s : State) (what : String) (kind : Nat) (m : Mark) (tail : List Byte) : State :=
  if ribN s ≤ 1 then s else putMark (putMark s what false kind m tail) what true kind m tail

/-- This member's digest of a set leaves in a DIRCHK mark on both hops (R194). -/
def sendDirchk (s : State) (set : Nat) : State :=
  putMarkBoth s "DIRCHK" 5 { ownMark s with set := set } (natLE 16 (setDigest s set).toNat)

/-- A DIRCHK mark of another position goes on round the ring, with its HOPS raised at each hop (R190, R194). -/
def passDirchk (s : State) (ccw : Bool) (pos set : Nat) (dig : BitVec 128) : State :=
  let n := Nat.max 1 (ribN s)
  let m := { ownMark s with set := set, origin := pos
                            hops := (if ccw then pos + n - ribPos s else ribPos s + n - pos) % n }
  putMark s "DIRCHK" ccw 5 m (natLE 16 dig.toNat)

/-- The shadow set's exchange is judged: agreed, or a mismatch (R194). -/
def judgeShadow (s : State) : State :=
  if !shadowWhole s then s
  else if digsDiffer s (shadowSet s) then ribErr (setF s Reg.RIB_SETS 3 3 0) 1
  else if digsAgree s (shadowSet s) then setF s Reg.RIB_SETS 3 3 1
  else s

/-- After a change of the directory from `s`: where the shadow set has just become whole, its digest is exchanged. -/
def shadowChange (s t : State) : State :=
  if !shadowWhole s && shadowWhole t && 1 ≤ ribState t then judgeShadow (sendDirchk t (shadowSet t)) else t

/-! ### Directions -/

/-- A direction of the ribbon. -/
def ribDir (s : State) (ccw : Bool) : RibDir := if ccw then s.rib.ccw else s.rib.cw

/-- Plane address of a ribbon position, by the plan's ring record (R183, R282). -/
def memberAddr (s : State) (q : Nat) : Option Nat :=
  let ring := ringFrom s.rings (planeAddr s)
  if ring.isEmpty then none else ring[(q + ring.length - ribPos s) % ring.length]?

/-- A package of its group is lost while a collective runs (R324): before the first agreement it ends and writes nothing;
after that what it has not completed is lost with it. -/
def collLoses (s : State) (a : Nat) : State :=
  { s with colls := s.colls.map fun k => if k.mem.contains a && k.status = 0 then { k with status := 2 } else k }

/-- The package at a plane address is lost (R214, R306, R324). -/
def packageLost (s : State) (a : Nat) : State :=
  if s.lostPkgs.contains a then s else collLoses { s with lostPkgs := s.lostPkgs ++ [a] } a

/-- Change a direction. -/
def onDir (s : State) (ccw : Bool) (f : RibDir → RibDir) : State :=
  onRib s fun r => if ccw then { r with ccw := f r.ccw } else { r with cw := f r.cw }

/-- Entries of a set in lap order (R187). -/
def lapOrder (s : State) (set : Nat) : List Nat :=
  (List.range (getF s Reg.RIB_LAYOUT_BLOCKS 19 0)).filterMap (entryAt s set)

/-- Entries of a set that this member launches or forwards in a direction, in lap order (R186, R188). -/
def sendList (s : State) (set : Nat) (ccw : Bool) : List Nat :=
  if ribLiveN s ≤ 1 then []
  else (lapOrder s set).filter fun x =>
    let e := dirEntry s x
    e.ccw = ccw && (servedBy s e = ribPos s || ribNext s (ribPos s) ccw ≠ servedBy s e)

/-- Whether all that a mark brackets has been sent (R188). -/
def sentAll (s : State) (ccw : Bool) : Bool :=
  match (ribDir s ccw).sent with
  | none => true
  | some m => m.stop || (sendList s m.set ccw).length ≤ (ribDir s ccw).n

/-- The LIVE count of a set. -/
def liveCount (s : State) (set : Nat) : Nat := getF s (Reg.RIB_LIVE_A + 4 * set) 31 0

/-- LIVE_OLD of this member (R210): until a switch is done the old set is the active one. -/
def liveOld (s : State) : Nat := liveCount s (activeSet s)

/-- A switch as a number for the marks that leave: policy and lap, done, or nothing. -/
def swCode : SwInfo → List Nat
  | .idle => []
  | .going p l => [p, l]
  | .done => [3]

/-- A lap or stop mark leaves on a hop (R190); what the next member is to learn of a switch goes with it as a message of
its own (log 62). -/
def sendMark (s : State) (ccw : Bool) (m : Mark) : State :=
  let s := putMark s (if m.stop then "STOP_MARK" else "LAP_MARK") ccw (if m.stop then 2 else 1) m (markTail m)
  if m.sw = .idle then s else ribSend s "SWITCH_NOTE" ccw (swCode m.sw)

/-- The oldest mark that waits is passed on with its fields raised (R188, R191). -/
def passMark (s : State) (ccw : Bool) : State :=
  match (ribDir s ccw).recv with
  | [] => s
  | m :: rest =>
    let m := { m with hops := m.hops + 1, liveOld := satAdd (2 ^ 32 - 1) m.liveOld (liveOld s),
                      minClosed := Nat.min m.minClosed (s.rib.closed - 1) }
    onDir (sendMark s ccw m) ccw fun d => { d with recv := rest, sent := some m, n := 0 }

/-- A block has gone on and landed as a whole: its last tag is free (R189). -/
def dropBlk (d : RibDir) : RibDir := { d with blks := d.blks.filter fun b => b.land < b.whole || b.sent < b.whole }

/-- Units of 16 KiB of a block of `n` bytes. -/
def unitsOf (n : Nat) : Nat := (n + 16383) / 16384

/-- Ribbon-port tags that a block holds (R153, R189): one for each unit that has arrived and is not both written by the feed
and sent on. -/
def RibBlk.tags (b : RibBlk) : Nat :=
  unitsOf b.data.length - (if Nat.min b.land b.sent ≥ b.data.length then unitsOf b.data.length else Nat.min b.land b.sent / 16384)

/-- Ribbon-port tags held in a direction. -/
def tagsUsed (d : RibDir) : Nat := (d.blks.map (·.tags)).sum

/-- Poisoned words of `n` bytes at offset `o` of a block, by number in them. -/
def badIn (bad : List Nat) (o n : Nat) : List Nat :=
  (bad.filter fun w => o / 64 ≤ w && w < (o + n + 63) / 64).map fun w => w - o / 64

/-- Bytes of a block leave on a hop with their poison (R158, R188): lap, LAP_POS, offset, poisoned words, bytes. -/
def putBlock (s : State) (ccw : Bool) (lap pos off : Nat) (bad : List Nat) (bs : List Byte) : State :=
  ribSend s "BLOCK" ccw ([lap, pos, off, bad.length] ++ bad ++ bs.map (·.toNat))

/-- The next unit of a passing block that is due on a hop goes on, as soon as it has arrived (R189); none where the
next block is this member's own or has not come that far. -/
def passUnit (s : State) (ccw : Bool) : Option State :=
  let d := ribDir s ccw
  match d.sent with
  | none => none
  | some m =>
    if m.stop then none
    else match (sendList s m.set ccw)[d.n]? with
      | none => none
      | some x =>
        let e := dirEntry s x
        match d.blks.find? fun b => b.lap = m.lap && b.pos = e.pos && b.sent < b.whole with
        | none => none
        | some b =>
          let k := Nat.min 16384 (b.data.length - b.sent)
          if servedBy s e = ribPos s || k = 0 || (k < 16384 && b.sent + k < b.whole) then none
          else
            let s := putBlock s ccw m.lap e.pos b.sent (badIn b.bad b.sent k) ((b.data.drop b.sent).take k)
            some (onDir s ccw fun d =>
              dropBlk { d with n := if b.sent + k < b.whole then d.n else d.n + 1
                               blks := d.blks.map fun y => if y = b then { y with sent := b.sent + k } else y })

/-- What a hop can carry on now leaves, in order (R188). `fuel` bounds it. -/
def pump : Nat → State → Bool → State
  | 0, s, _ => s
  | fuel + 1, s, ccw =>
    match passUnit s ccw with
    | some t => pump fuel t ccw
    | none => if sentAll s ccw && !(ribDir s ccw).recv.isEmpty then pump fuel (passMark s ccw) ccw else s

/-- Steps that a hop can have to make. -/
def pumpFuel (s : State) (ccw : Bool) : Nat :=
  (ribDir s ccw).recv.length + ((ribDir s ccw).blks.map fun b => b.data.length / 16384 + 1).sum + 1

/-- A hop sends what it can. -/
def pumpDir (s : State) (ccw : Bool) : State := pump (pumpFuel s ccw) s ccw

/-- A unit takes a tag (R189): it joins its block; the member that the block retires at sends nothing on. -/
def takeUnit (s : State) (ccw : Bool) (lap pos whole : Nat) (retires : Bool) (data : List Byte) (bad : List Nat) : State :=
  let here := fun (b : RibBlk) => b.lap = lap && b.pos = pos
  onDir s ccw fun d =>
    if d.blks.any here then
      { d with blks := d.blks.map fun b =>
          if here b then
            { b with data := (b.data ++ data).take whole, bad := b.bad ++ bad.map (· + b.data.length / 64) }
          else b }
    else { d with blks := d.blks ++ [⟨lap, pos, whole, data.take whole, bad, 0, if retires then whole else 0⟩] }

/-- The set of a lap whose mark this member has. -/
def lapSet (s : State) (l : Nat) : Option Nat :=
  let sent := [s.rib.cw.sent, s.rib.ccw.sent].filterMap fun m => m
  match ((s.rib.marks ++ sent).filter fun m => !m.stop).find? fun m => m.lap = l with
  | some m => some m.set
  | none => (s.rib.laps.find? fun r => r.lap = l).map (·.set)

/-- Units that the upstream member holds arrive while tags are free, and what can go on goes on (R189). `fuel` bounds
them. -/
def serveDir : Nat → State → Bool → State
  | 0, s, ccw => pumpDir s ccw
  | fuel + 1, s, ccw =>
    let s := pumpDir s ccw
    match (ribDir s ccw).waiting with
    | [] => s
    | (lap, pos, data, bad) :: rest =>
      if 256 ≤ tagsUsed (ribDir s ccw) then s
      else
        let s := onDir s ccw fun d => { d with waiting := rest }
        match (lapSet s lap).bind fun set => entryAt s set pos with
        | none => serveDir fuel s ccw
        | some x =>
          let e := dirEntry s x
          serveDir fuel (takeUnit s ccw lap pos (64 + e.comp) (ribNext s (ribPos s) ccw = servedBy s e) data bad) ccw

/-! ### Switches (R206 to R211) -/

/-- RIB_SWITCH.STATE. -/
def switchState (s : State) : Nat := getF s Reg.RIB_SWITCH 4 2
/-- RIB_SWITCH.POLICY. -/
def switchPolicy (s : State) : Nat := getF s Reg.RIB_SWITCH 1 0
/-- The switch lap S. -/
def switchLap (s : State) : Nat := getF s Reg.RIB_SWITCH_LAP 31 0
/-- Whether a switch is in progress. -/
def switching (s : State) : Bool := switchState s = 1 || switchState s = 2

/-- What this member's marks say of a switch. -/
def swInfo (s : State) : SwInfo :=
  if switching s then .going (switchPolicy s) (switchLap s) else if switchState s = 3 then .done else .idle

/-- A switch is noted at this member. -/
def noteSwitch (s : State) (p l : Nat) : State :=
  setReg (setF (setF s Reg.RIB_SWITCH 1 0 p) Reg.RIB_SWITCH 4 2 1) Reg.RIB_SWITCH_LAP (BitVec.ofNat 32 l)

/-- A member learns of a switch from a mark. -/
def learn (s : State) (sw : SwInfo) : State :=
  match sw with
  | .idle => s
  | .done => if switching s then exchange s else s
  | .going p l =>
    if switching s && switchLap s = l then s else noteSwitch (if switching s then exchange s else s) p l

/-- Under cut, the old set's live requests go on with the new set once its last lap has closed (R208). -/
def cutMove (s : State) : State :=
  if switchState s = 2 && switchPolicy s = 2 && switchLap s ≤ s.rib.closed then
    let old := activeSet s
    let all := satAdd (2 ^ 32 - 1) (liveCount s (1 - old)) (liveCount s old)
    let s := setReg s (Reg.RIB_LIVE_A + 4 * (1 - old)) (BitVec.ofNat 32 all)
    onRib (setReg s (Reg.RIB_LIVE_A + 4 * old) 0) fun r =>
      { r with live := r.live.map fun x => { x with set := 1 - old } }
  else s

/-- The set of lap `l`, which the lead originates next (R208, R209). -/
def chooseSet (s : State) (l : Nat) : Nat :=
  let old := activeSet s
  let last := match s.rib.laps.find? fun r => r.lap + 1 = l with | some r => r.set | none => old
  if !switching s || l < switchLap s then old
  else match switchPolicy s with
    | 0 => if s.rib.report ≠ 0 && (l = switchLap s || last = old) then old else 1 - old
    | 1 => if l ≠ switchLap s && last ≠ old && s.rib.report ≠ 0 then old else 1 - old
    | _ => 1 - old

/-- Whether a mark that returns ends the switch (R211). -/
def switchDone (s : State) (liveOld minClosed : Nat) : Bool :=
  switchState s = 2 && switchLap s < s.rib.begun && (switchPolicy s ≠ 0 || s.rib.oldLast + 1 < s.rib.begun)
    && liveOld = 0 && s.rib.oldLast ≤ minClosed

/-! ### Lap records and admission (R198, R199, R200) -/

/-- DPA of the record slot of lap `l`. -/
def lapSlot (s : State) (l : Nat) : Nat := getReg64 s Reg.RIB_LAPREC_BASE + 65536 * (l % 8)

/-- The controller's bytes of a lap record, but for the entries (R199). -/
def lapHead (r : LapRec) (replay : Bool) : List Byte :=
  natLE 4 r.lap ++ natLE 4 r.epoch ++ natLE 1 r.set ++ natLE 1 (if replay then 1 else 0)
    ++ natLE 2 r.entries.length ++ natLE 4 r.liveA ++ natLE 4 r.liveB

/-- A lap record is written to its slot. -/
def writeLap (s : State) (r : LapRec) (replay : Bool) : State :=
  let s := writeDpa s (lapSlot s r.lap) (lapHead r replay) [] false
  writeDpa s (lapSlot s r.lap + 0x40) ((r.entries.map fun e => natLE 8 (e.1 + e.2 * 2 ^ 32)).flatten) [] false

/-- Whether a queued handle may join a lap of set `set` (R208); under drain none joins the old set after S (R209). -/
def mayAdmit (s : State) (l set : Nat) (after : Bool) : Bool :=
  if !switching s || set ≠ activeSet s then true
  else match switchPolicy s with
    | 0 => !after && l ≤ switchLap s
    | 1 => l < switchLap s
    | _ => true

/-- A queued handle is admitted: its RIB_REQ completes (R362), and it is live. -/
def admitCmd (s : State) (l set : Nat) (x : AvCmd) : State :=
  let s := onRib s fun r =>
    { r with queue := r.queue.filter fun e => e.1 ≠ x.no
             live := r.live ++ [⟨x.c, x.q, x.f 4 4, x.f 8 8, x.f 0x10 4, set⟩] }
  complete s x 0 (l % 2 ^ 31 + set * 2 ^ 31) 0

/-- The ribbon controller signals a tally of its context by 1. -/
def ribSignal (s : State) (tid : Nat) : State :=
  match resolveTid s (ribCtx s) none tid false with
  | none => s
  | some dst => hubSignal s .ribbon (ribCtx s) dst 1 []

/-- The admission cut of a lap (R198): the record, the handles that join it, the admission signal. A lap that is run
again keeps its entries (R204). -/
def admitLap (s : State) (m : Mark) : State :=
  match s.rib.laps.find? fun r => r.lap = m.lap with
  | some r => ribSignal (writeLap s r true) (getF s Reg.RIB_ADMIT_TALLY 19 0)
  | none =>
    let joins := ((s.rib.queue.filter fun e => mayAdmit s m.lap m.set e.2).take 8184).filterMap fun e =>
      s.cmds.find? fun x => x.no = e.1
    let r : LapRec := ⟨m.lap, m.set, m.epoch, joins.map fun x => (x.f 0x10 4, m.set), liveCount s 0, liveCount s 1,
      s.ftc, 0, 0, []⟩
    let s := joins.foldl (fun s x => admitCmd s m.lap m.set x) s
    let s := onRib s fun b => { b with laps := b.laps.filter (fun y => m.lap < y.lap + 16) ++ [r] }
    ribSignal (writeLap s r false) (getF s Reg.RIB_ADMIT_TALLY 19 0)

/-- Lap `m.lap` begins here (R191). -/
def beginLap (s : State) (m : Mark) : State :=
  let old := activeSet s
  let s := if switching s && switchLap s ≤ m.lap then setF s Reg.RIB_SWITCH 4 2 2 else s
  let s := onRib (admitLap (cutMove s) m) fun r =>
    { r with begun := m.lap + 1, marks := r.marks.filter fun y => y.lap ≠ m.lap
             oldLast := if m.set = old then m.lap else r.oldLast }
  let s := setReg s Reg.RIB_LAP (BitVec.ofNat 32 m.lap)
  setRibState (setF s Reg.RIB_SWITCH 5 5 m.set) (if ribState s = 3 then 3 else 2)

/-- Laps begin that have their mark in both directions and whose slot is free (R191, R200). `fuel` bounds them. -/
def tryBegin : Nat → State → State
  | 0, s => s
  | fuel + 1, s =>
    let r := s.rib
    match r.marks.find? fun m => m.lap = r.begun with
    | none => s
    | some m =>
      if r.begun < r.cw.got && r.begun < r.ccw.got && r.begun < r.closed + 8 then tryBegin fuel (beginLap s m) else s

/-- A member that has the STOP mark in both directions and has closed the last lap is STOPPED (R201). -/
def checkStopped (s : State) : State :=
  let r := s.rib
  if r.cw.stopped = some r.begun && r.ccw.stopped = some r.begun && r.closed = r.begun then setRibState s 4 else s

/-- Requests of a set leave the live ones, first admitted first. -/
def retire : Nat → Nat → List Live → List Live × List Live
  | _, _, [] => ([], [])
  | set, k, x :: xs =>
    if k ≠ 0 && x.set = set then
      let (gone, rest) := retire set (k - 1) xs
      (x :: gone, rest)
    else
      let (gone, rest) := retire set k xs
      (gone, x :: rest)

/-- The oldest open lap closes (R200). -/
def closeLap (s : State) (r : LapRec) : State :=
  let (bs, _) := readDpa 4 s (lapSlot s r.lap + 0x14) 8
  let (retA, retB) := (field bs 0 4, field bs 4 4)
  let new := fun set => (r.entries.filter fun e => e.2 = set).length
  let (a, b) := (liveCount s 0, liveCount s 1)
  let s := setReg s Reg.RIB_LIVE_A (BitVec.ofNat 32 (a + new 0 - retA))
  let s := setReg s Reg.RIB_LIVE_B (BitVec.ofNat 32 (b + new 1 - retB))
  let (goneA, rest) := retire 0 retA s.rib.live
  let (goneB, rest) := retire 1 retB rest
  let s := setReg64 s Reg.RIB_LAP_TIME (s.ftc - r.began)
  let s := onRib s fun x =>
    { x with closed := r.lap + 1, live := rest
             laps := x.laps.map fun y =>
               if y.lap = r.lap then { y with beforeA := a, beforeB := b, gone := goneA ++ goneB } else y }
  checkStopped (tryBegin 8 (cutMove s))

end Sys2Proof.Machine
end

