-- ==== Sys2Proof/Machine/Ribbon.lean ====
section
/-!
DEFINITION. The commands of the weight ribbon (R182 to R219): forming, marks, laps, stops, switches, blocks and slabs,
members that fail, and the directory window.
-/
namespace Sys2Proof.Machine

/-! ### FORM (R183, R192, R194, R450) -/

/-- A ribbon is not accepted: SHAPE, with `bit` where a further condition has stopped it, CMD_RESULT 3, and state IDLE
(R183, R194, R450). A digest that differs has ended the latest DIRCHK exchange without agreement (R219). -/
def formRefused (s : State) (bit : Nat) : State :=
  let s := onRib s fun r => { r with forming := none, formFrom := [], digs := [] }
  let s := if bit = 1 then setBit (setF s Reg.RIB_SETS 3 3 0) Reg.RIB_ERR 1 else s
  ribResult (ribErr s 0) 3

/-- A ribbon is accepted: FORMED, with every member on the ring and lead 0 (R183). -/
def formAccepted (s : State) : State :=
  let s := onRib s fun r =>
    { Rib.reset with queue := r.queue, digs := r.digs
                     cw := { RibDir.idle with heard := s.ftc }, ccw := { RibDir.idle with heard := s.ftc } }
  let s := setReg (setReg (setF s Reg.RIB_SETS 3 3 1) Reg.RIB_LIVE_A 0) Reg.RIB_LIVE_B 0
  let s := showRing (setRibState (setReg s Reg.RIB_SWITCH 0) 1)
  if shadowWhole s then judgeShadow (sendDirchk s (shadowSet s)) else s

/-- Whether a port belongs to the incoming hop of a direction, as a ring of the cable plan declares it (R183, R184, R279):
its peer is the ring's predecessor, or counter-clockwise its successor, and under profile R its role says so. -/
def ringHop (s : State) (ccw : Bool) (p : Nat) : Bool :=
  let ring := ringFrom s.rings (planeAddr s)
  let want := if ccw then ring[1]? else ring.getLast?
  1 < ring.length && peerOf s p = want && (profileOf s ≠ 0 || roleOf s p = if ccw then 1 else 2)

/-- FORM marks from one direction: `some true` where the neighbour's has arrived on the declared hops, `some false` where
another has. -/
def formMark (s : State) (ccw : Bool) : Option Bool :=
  let want := (ribId s, ribNext s (ribPos s) (!ccw), true)
  match (s.rib.formFrom.filter fun x => x.1 = ccw).getLast? with
  | none => none
  | some x => some ((x.2.1, x.2.2.1, x.2.2.2.1) = want)

/-- A FORM in progress is accepted once all holds, and refused at the first condition that cannot (R183). -/
def formCheck (s : State) : State :=
  if s.rib.forming.isNone then s
  else if digsDiffer s (activeSet s) then formRefused s 1
  else if formMark s false = some false || formMark s true = some false then formRefused s 0
  else if ribN s ≤ 1 || (formMark s false = some true && formMark s true = some true && digsAgree s (activeSet s)) then
    formAccepted s
  else s

/-- FORM. -/
def formCmd (s : State) : State :=
  if ribState s ≠ 0 || s.rib.forming.isSome || residentRib s then ribResult s 1
  else
    let s := setReg (setReg s Reg.RIB_ERR 0) Reg.RIB_POISON_BLOCKS 0
    if ribN s = 0 || 64 < ribN s || ribN s ≤ ribPos s then formRefused s 0
    else
      let s := ribResult (onRib s fun r =>
        { r with forming := some s.ftc, failed := []
                 formFrom := r.formFrom.filter fun x => s.ftc < x.2.2.2.2 + 10000000000 }) 0
      formCheck (sendDirchk (putMarkBoth s "FORM" 4 (ownMark s) (markTail (ownMark s))) (activeSet s))

/-- FORM (R183, R219). -/
def execForm (a : Acc) (s : State) : Out := regCmd s a Reg.RIB_CMD formCmd

/-- FORM_MARK_RECEIVE (R183): a FORM mark of ribbon and position arrives in a direction at port `port`. -/
def execFormMarkReceive (ccw : Bool) (ribbon pos port : Nat) (s : State) : Out :=
  .next (if ribState s = 0 then
    formCheck (onRib s fun r => { r with formFrom := r.formFrom ++ [(ccw, ribbon, pos, ringHop s ccw port, s.ftc)] }) else s)

/-- FORM_TIMEOUT (R450): the 10 s are tested at time `t`. -/
def execFormTimeout (t : Nat) (s : State) : Out :=
  let s := atTime s t
  .next (match s.rib.forming with
    | some since => if s.ftc - since ≥ 10000000000 then formRefused s 0 else s
    | none => s)

/-- DIRCHK_RECEIVE (R194): the digest of position `pos` over a set arrives; it is passed on round the ring. -/
def execDirchkReceive (ccw : Bool) (pos set : Nat) (dig : BitVec 128) (s : State) : Out :=
  let s := onRib s fun r =>
    { r with digs := (r.digs.filter fun d => !(d.1 = set && d.2.1 = pos)) ++ [(set, pos, dig)] }
  let s := if 1 < ribN s && ribNext s (ribPos s) ccw ≠ pos then passDirchk s ccw pos set dig else s
  .next (if s.rib.forming.isSome then formCheck s
    else if 1 ≤ ribState s && set = shadowSet s then judgeShadow s else s)

/-! ### Marks of the lead (R191, R192, R209, R211) -/

/-- The lead takes the mark's report (R209), and the switch may be done with it (R211). -/
def takeReport (s : State) (liveOld minClosed : Nat) : State :=
  let s := onRib s fun r => { r with report := liveOld }
  if switchDone s liveOld minClosed then exchange s else s

/-- The lead originates the mark of the next lap, with the set and epoch that it had before where the lap is run again;
lap `begun` begins at the lead with it. -/
def originate (s : State) : State :=
  let l := s.rib.begun
  let (set, epoch) := match s.rib.laps.find? fun r => r.lap = l with
    | some r => (r.set, r.epoch)
    | none => let k := chooseSet s l; (k, getF s (Reg.RIB_EPOCH_A + 4 * k) 31 0)
  let m : Mark := { ownMark s with lap := l, epoch := epoch, set := set, liveOld := liveOld s
                                   minClosed := s.rib.closed - 1, sw := swInfo s }
  let go := fun (d : RibDir) => { d with sent := some m, n := 0, got := l + 1, stopped := none }
  let s := onRib s fun r => { r with cw := go r.cw, ccw := go r.ccw, returned := [], marks := r.marks ++ [m] }
  let alone := ribLiveN s ≤ 1
  let s := if alone then s else sendMark (sendMark s false m) true m
  let s := tryBegin 8 (setRibState s (if ribState s = 3 then 3 else 2))
  if alone then takeReport (onRib s fun r => { r with returned := [false, true] }) m.liveOld m.minClosed else s

/-- The lead originates the STOP mark in place of the next lap mark (R201), with the epoch and set that this lap would have
(R190). -/
def originateStop (s : State) : State :=
  let l := s.rib.begun
  let set := chooseSet s l
  let m : Mark := { ownMark s with stop := true, lap := l, set := set, epoch := getF s (Reg.RIB_EPOCH_A + 4 * set) 31 0 }
  let alone := ribLiveN s ≤ 1
  let go := fun (d : RibDir) =>
    { d with sent := some m, n := 0, stopped := if alone then some l else none }
  let s := onRib s fun r => { r with cw := go r.cw, ccw := go r.ccw, stopping := false }
  if alone then checkStopped s else sendMark (sendMark s false m) true m

/-- Whether the lead has sent, or in a ribbon of one fed, all of the lap in progress (R188, R192). -/
def lapSent (s : State) : Bool :=
  sentAll s false && sentAll s true && (1 < ribLiveN s || s.rib.begun ≤ s.rib.feedLap)

/-- LAP_MARK_ORIGINATE (R188, R191, R200, R201, R209): no effect while the rules hold the mark back. -/
def execLapMarkOriginate (s : State) : Out :=
  let r := s.rib
  .next (if !isLead s || !lapSent s then s
    else if ribState s = 3 && r.stopping then originateStop s
    else if ribState s = 2 && r.returned.contains false && r.returned.contains true && r.begun < r.closed + 8 then
      originate s
    else s)

/-- The position from which the incoming hop of a direction comes. -/
def upstream (s : State) (ccw : Bool) : Nat := ribNext s (ribPos s) (!ccw)

/-- LAP_MARK_RETURN (R191, R209): a mark is back at the lead, which the last hop has raised its HOPS for, and is checked. -/
def markReturn (s : State) (ccw : Bool) (m : MarkIn) : State :=
  if !isLead s || (ribState s ≠ 2 && ribState s ≠ 3) || ribLiveN s ≤ 1 || m.version ≠ 1 then s
  else if m.ribbon ≠ ribId s || m.lap + 1 ≠ s.rib.begun || m.hops + 1 ≠ ribLiveN s then
    estop (ribErr (setF s Reg.RIB_ERR_INFO 24 19 (upstream s ccw)) 5)
  else
    let s := onDir s ccw fun d => { d with heard := s.ftc, inc := m.lap + 1 }
    let s := onRib s fun r => { r with returned := if r.returned.contains ccw then r.returned else r.returned ++ [ccw] }
    takeReport s m.liveOld m.minClosed

/-- LAP_MARK_RETURN. -/
def execLapMarkReturn (ccw : Bool) (m : MarkIn) (s : State) : Out := .next (markReturn s ccw m)

/-! ### Restarting a void lap (R204) -/

/-- Nibs of the context return to the state of R75 with PC 0, keeping wells and HBM, and run from lap `v` on, which clears
the context's halt (R204); the layer records of those laps are written again (R346). -/
def restartNibs (s : State) (c v : Nat) : State :=
  let s := onCtx s c fun x => { x with layerDone := x.layerDone.filter fun p => p.1 < v, halting := false }
  let chain := (ctxOf s c).chain
  let nibs := (jobNibs s c).filter fun n => (nibOf s n).st ≠ 6
  let s := nibs.foldl (fun s n => onNib s n fun b =>
    { loadedNib b b.code chain with st := 2, stagger := b.stagger, sealT := { SealTile.start with pass := v } }) s
  let s := (nibs.map clusterOf).eraseDups.foldl (fun s k => setDom s (domOf k) 2) s
  { s with meshX := s.meshX.filter fun m => !nibs.contains m.nib
           landing := [], cports := (ctxClusters s c).foldl drop s.cports }

/-- The void lap and those after it are to be run again: counts, live requests and the record's REPLAY (R204). -/
def reopen (s : State) (v : Nat) : State :=
  let old := s.rib.laps.find? fun r => r.lap = v
  let again := s.rib.laps.filter fun r => v ≤ r.lap && r.lap < s.rib.closed
  let s := match old with
    | some r =>
      let s := if v < s.rib.closed then
          setReg (setReg s Reg.RIB_LIVE_A (BitVec.ofNat 32 r.beforeA)) Reg.RIB_LIVE_B (BitVec.ofNat 32 r.beforeB)
        else s
      writeLap s r true
    | none => s
  let clear := fun (d : RibDir) => { RibDir.idle with heard := d.heard, got := v }
  onRib s fun r =>
    { r with closed := Nat.min r.closed v, begun := v, marks := [], feedLap := v, feedNext := 0, fed := []
             cw := clear r.cw, ccw := clear r.ccw, live := (again.map (·.gone)).flatten ++ r.live }

/-- Every member's part of RESUME, for void lap `v` (R204). -/
def resumeHere (s : State) (v : Nat) : State := setRibState (reopen (restartNibs s (ribCtx s) v) v) 2

/-- The lead resumes with the earliest lap that it has not closed (R204). -/
def resumeLead (s : State) : State := originate (resumeHere s s.rib.closed)

/-- RESUME (R204). -/
def resumeCmd (ready : Bool) (s : State) : State :=
  if !isLead s then ribResult s 2
  else if ribState s ≠ 5 || !ready then ribResult s 1
  else resumeLead (ribResult s 0)

/-- RESUME (R204): `ready` tells that every member is ESTOPPED and the ribbon is closed. -/
def execResume (a : Acc) (ready : Bool) (s : State) : Out := regCmd s a Reg.RIB_CMD (resumeCmd ready)

/-! ### Marks of the members (R191, R201) -/

/-- A mark that has arrived, as this member holds it. -/
def heldMark (stop : Bool) (m : MarkIn) : Mark :=
  ⟨stop, m.ribbon, m.lap, m.epoch, m.set, m.origin, m.hops, m.liveOld, m.minClosed, m.ftc, m.sw⟩

/-- A lap mark arrives at a member: it is queued for its outgoing hop, and the lap begins with the second one. One with
another VERSION is none (R5, R190). -/
def markIn (s : State) (ccw : Bool) (m : MarkIn) : State :=
  if isLead s || ribState s = 0 || 5 < ribState s || m.version ≠ 1 then s
  else
    let s := if ribState s = 5 then resumeHere s m.lap else s
    if m.lap < (ribDir s ccw).got then s
    else
      let s := learn s m.sw
      let k := heldMark false m
      let s := onDir s ccw fun d =>
        { d with recv := d.recv ++ [k], heard := s.ftc, got := m.lap + 1, inc := m.lap + 1, stopped := none }
      let s := onRib s fun r => if r.marks.any fun y => y.lap = m.lap then r else { r with marks := r.marks ++ [k] }
      tryBegin 8 (serveDir (ribDir s ccw).waiting.length s ccw)

/-- LAP_MARK_RECEIVE (R191). -/
def execLapMarkReceive (ccw : Bool) (m : MarkIn) (s : State) : Out := .next (markIn s ccw m)

/-- The STOP mark arrives (R201). -/
def stopMarkIn (s : State) (ccw : Bool) (m : MarkIn) : State :=
  if (ribState s ≠ 2 && ribState s ≠ 3) || m.version ≠ 1 then s
  else
    let s := onDir s ccw fun d => { d with heard := s.ftc, stopped := some m.lap }
    let s := setRibState s 3
    checkStopped (if isLead s then s
      else pumpDir (onDir s ccw fun d => { d with recv := d.recv ++ [heldMark true m] }) ccw)

/-- STOP_MARK_RECEIVE (R201). -/
def execStopMarkReceive (ccw : Bool) (m : MarkIn) (s : State) : Out := .next (stopMarkIn s ccw m)

/-- Whether the ring's hops are in use (R191, R192). -/
def hopsUsed (s : State) : Bool := 1 ≤ ribState s && ribState s ≤ 4 && 1 < ribLiveN s

/-- HEARTBEAT (R191): an idle hop carries one, out of this member or into it. -/
def execHeartbeat (ccw incoming : Bool) (s : State) : Out :=
  .next (if !hopsUsed s then s
    else if incoming then onDir s ccw fun d => { d with heard := s.ftc }
    else putMark s "HEARTBEAT" ccw 3 (ownMark s) (markTail (ownMark s)))

/-! ### Start and stop (R187, R194, R201, R203, R219) -/

/-- Whether the chain plan of the loaded program agrees with RIB_LAYOUT (R187). -/
def layoutAgrees (s : State) : Bool :=
  let x := ctxOf s (ribCtx s)
  x.loaded && match x.chain with
    | some p => p.piece = ribPiece s && p.common = ribCommon s
    | none => false

/-- START (R187, R191, R194, R201). -/
def ribStart (s : State) : State :=
  if !isLead s then ribResult s 2
  else if ribState s ≠ 1 && ribState s ≠ 4 then ribResult s 1
  else if (setEntries s (activeSet s)).any fun x => !(dirEntry s x).verified then ribResult s 4
  else if !layoutAgrees s then ribResult s 5
  else originate (ribResult s 0)

/-- START (R191). -/
def execStart (a : Acc) (s : State) : Out := regCmd s a Reg.RIB_CMD ribStart

/-- STOP (R201). -/
def stopCmd (s : State) : State :=
  if !isLead s then ribResult s 2
  else if ribState s ≠ 2 then ribResult s 1
  else onRib (setRibState (ribResult s 0) 3) fun r => { r with stopping := true }

/-- STOP (R201). -/
def execStop (a : Acc) (s : State) : Out := regCmd s a Reg.RIB_CMD stopCmd

/-- ESTOP (R203). -/
def estopCmd (s : State) : State := if ribLive s then estop (ribResult s 0) else ribResult s 1

/-- ESTOP (R203). -/
def execEstop (a : Acc) (s : State) : Out := regCmd s a Reg.RIB_CMD estopCmd

/-- ESTOP_RECEIVE (R203): the first one stops the member and goes on. -/
def execEstopReceive (s : State) : Out := .next (estop s)

/-- SWITCH (R207, R208, R218). In resident mode the sets exchange roles once every nib of the context has waited on the
admission tally (log 62). -/
def switchCmd (policy : Nat) (s : State) : State :=
  if residentRib s then
    if policy ≠ 2 then ribResult s 1
    else if switching s then ribResult s 6
    else if !shadowVerified s then ribResult s 4
    else
      let nibs := jobNibs s (ribCtx s)
      let s := setF (noteSwitch (ribResult s 0) 2 (getF s Reg.RIB_LAP 31 0)) Reg.RIB_SWITCH 4 2 2
      let s := ribSignal (onRib s fun r => { r with awaiting := nibs }) (getF s Reg.RIB_ADMIT_TALLY 19 0)
      if nibs.isEmpty then exchange s else s
  else if policy = 3 || ribState s = 0 || 4 < ribState s then ribResult s 1
  else if !isLead s then ribResult s 2
  else if switching s then ribResult s 6
  else if !shadowVerified s then ribResult s 4
  else noteSwitch (ribResult s 0) policy s.rib.begun

/-- SWITCH (R207). -/
def execSwitch (a : Acc) (policy : BitVec 2) (s : State) : Out := regCmd s a Reg.RIB_CMD (switchCmd policy.toNat)

/-- RELEASE (R219, R391): the ribbon ends, its entries' locks are released, and its landing frames are FREE (log 132). -/
def releaseCmd (s : State) : State :=
  if ribState s ≠ 4 && ribState s ≠ 5 && ribState s ≠ 7 then ribResult s 1
  else
    let s := onRib (ribResult s 0) fun r => { Rib.reset with queue := r.queue }
    let s := { s with locks := s.locks.filter fun p => match p.1 with | .entry _ => false | _ => true
                      landing := [] }
    setF (setF (setRibState s 0) Reg.RIB_STATUS 15 8 0) Reg.RIB_STATUS 21 16 0

/-- RELEASE (R219). -/
def execRelease (a : Acc) (s : State) : Out := regCmd s a Reg.RIB_CMD releaseCmd

/-- A write of RIB_CMD (R219): the commands by their numbers; other values complete with CMD_RESULT 1. -/
def ribCmd (v : Nat) (s : State) : State :=
  match v % 16 with
  | 1 => formCmd s
  | 2 => ribStart s
  | 3 => stopCmd s
  | 4 => estopCmd s
  | 5 => resumeCmd true s
  | 6 => switchCmd (v / 16 % 4) s
  | 7 => releaseCmd s
  | _ => ribResult s 1

/-! ### Laps (R200) -/

/-- The program signals the close tally: the controller takes one count and closes the oldest open lap (R200). -/
def lapClose (s : State) : State :=
  match resolveTid s (ribCtx s) none (getF s Reg.RIB_CLOSE_TALLY 19 0) true with
  | some (.here t) =>
    if (talOf s t).count = 0 || s.rib.begun ≤ s.rib.closed || (ribState s ≠ 2 && ribState s ≠ 3) then s
    else match s.rib.laps.find? fun r => r.lap = s.rib.closed with
      | some r => closeLap (subTally s t 1) r
      | none => s
  | _ => s

/-- LAP_CLOSE (R200). -/
def execLapClose (s : State) : Out := .next (lapClose s)

/-! ### Blocks and slabs (R169, R185 to R189, R195) -/

/-- Whether a header is valid and matches its entry (R161, R195). -/
def hdrMatches (x : Nat) (e : DirEntry) (bs : List Byte) : Bool :=
  let h := hdrOf (bs.take 64)
  hdrOk h && h.dirIndex = x && h.epoch = e.epoch && h.compSize = e.comp

/-- Whether the CRC64 of a block is right (R162, R195). -/
def crcMatches (e : DirEntry) (bs : List Byte) : Bool := crc64 ((bs.drop 64).take e.comp) = (hdrOf (bs.take 64)).crc

/-- Poisoned words by number, from a flag for each. -/
def badWords (ps : List Bool) : List Nat := (List.range ps.length).filter fun i => ps.getD i false

/-- This member launches the block at `pos` on one direction, if it is the next to be sent there: it checks the header and,
as the payload streams out, CRC64; the block goes out whatever they show (R195). -/
def launchOn (s : State) (ccw : Bool) (pos : Nat) : State :=
  let d := ribDir s ccw
  match d.sent with
  | none => s
  | some m =>
    match (sendList s m.set ccw)[d.n]? with
    | none => s
    | some x =>
      let e := dirEntry s x
      if m.stop || e.pos ≠ pos || servedBy s e ≠ ribPos s || !e.verified then s
      else
        let (bs, ps) := readDpa (64 + e.comp + 1) s e.addr (64 + e.comp)
        let s := if hdrMatches x e bs then s else ribErr (setF s Reg.RIB_ERR_INFO 18 0 x) 3
        let s := if crcMatches e bs then s else ribErr (setF s Reg.RIB_ERR_INFO 18 0 x) 4
        let s := putBlock s ccw m.lap e.pos 0 (badWords ps) bs
        pumpDir (onDir s ccw fun d => { d with n := d.n + 1 }) ccw

/-- BLOCK_LAUNCH (R188, R195). -/
def execBlockLaunch (pos : Nat) (s : State) : Out :=
  .next (if ribState s = 2 || ribState s = 3 then launchOn (launchOn s false pos) true pos else s)

/-- A unit comes: with a tag free it arrives, and goes on where the member forwards the block; else the upstream member
holds it until a tag is (R189). -/
def unitIn (s : State) (ccw : Bool) (pos : Nat) (data : List Byte) (bad : List Nat) : State :=
  let d := ribDir s ccw
  if (ribState s ≠ 2 && ribState s ≠ 3) || ribLiveN s ≤ 1 || d.inc = 0 || data.isEmpty then s
  else match (lapSet s (d.inc - 1)).bind fun set => entryAt s set pos with
    | none => s
    | some x =>
      let e := dirEntry s x
      if e.ccw ≠ ccw || servedBy s e = ribPos s then s
      else
        let unit := (d.inc - 1, pos, data.take 16384, bad)
        serveDir (d.waiting.length + 1) (onDir s ccw fun d => { d with waiting := d.waiting ++ [unit], heard := s.ftc }) ccw

/-- SLAB_FORWARD (R189): a unit of up to 16 KiB of the block at `pos` comes in a direction; `bad` are its poisoned words. -/
def execSlabForward (ccw : Bool) (pos : Nat) (data : List (BitVec 8)) (bad : List Nat) (s : State) : Out :=
  .next (unitIn s ccw pos data bad)

/-- The landing feed allocates frames in every landing area to the next slab of the lap, filled with the zeros of R169's
padding; none where some area lacks them (R135, R136). `count`: blocks of the slab. -/
def allocSlab (s : State) (l count : Nat) : Option State :=
  let n := slabFrames (slabBytes s (geomNibs (ctxOf s (ribCtx s)).geom))
  let areas := List.range Config.dies
  if areas.any fun d => 1024 < (look Landing.reset s.landing d).used + n then none
  else
    let s := areas.foldl (fun s d =>
      let a := look Landing.reset s.landing d
      let x : LandSlab := ⟨l, s.rib.feedNext, a.alloc, n, count, 0, 0, 0⟩
      let a' : Landing := ⟨a.used + n, (a.alloc + n) % 1024, a.slabs ++ [x]⟩
      (List.range n).foldl (fun s i =>
        let k := landKey d ((a.alloc + i) % 1024 * 65536)
        { s with landMem := zeroBytes s.landMem k 65536, landPoison := dropRange s.landPoison (k / 64) 1024 })
        { s with landing := put Landing.reset s.landing d a' }) s
    some (onRib s fun r => { r with feedNext := r.feedNext + count })

/-- Bytes of a block land at offset `off` of a slab from frame `frame` on, with the poison of the block's words; the
offset wraps at the end of the area. `q`: their offset in the block. `fuel` bounds the wraps. -/
def landBytes : Nat → State → Nat → Nat → Nat → List Byte → List Bool → Nat → State
  | 0, s, _, _, _, _, _, _ => s
  | fuel + 1, s, d, frame, off, bs, ps, q =>
    if bs.isEmpty then s
    else
      let a := (frame * 65536 + off) % Config.landBytes
      let k := Nat.min bs.length (Config.landBytes - a)
      let touched := (List.range ((a + k + 63) / 64 - a / 64)).filter fun i =>
        let w := a / 64 + i
        let lo := Nat.max (64 * w) a - a + q
        let hi := Nat.min (64 * w + 64) (a + k) - a + q
        (List.range ((hi + 63) / 64 - lo / 64)).any fun j => ps.getD (lo / 64 + j) false
      let s := touched.foldl (fun s i =>
        { s with landPoison := put false s.landPoison (landKey d a / 64 + i) true }) s
      landBytes fuel { s with landMem := writeBytes s.landMem (landKey d a) (bs.take k) } d frame (off + k) (bs.drop k) ps
        (q + k)

/-- The bytes that a block adds to the common part behind its header, and to each piece (R169). A block whose header is bad
lands as its COMP_SIZE bytes (R195): in equal pieces of whole words as far as they fit, the rest in the common part
(log 131). -/
def blockSizes (s : State) (y : LandSlab) (e : DirEntry) (h : BlockHdr) (hok : Bool) (g : Nat) : Nat × Nat :=
  if hok then (h.commonSize, h.pieceSize)
  else
    let q := Nat.min (ribPiece s - y.pie) (upTo 64 ((e.comp + g - 1) / g))
    (e.comp - g * q, q)

/-- The parts of a block in its slab (R169): offset in the slab, offset in the block, bytes; the block's bytes are its
header and `e.comp` more. -/
def slabParts (s : State) (y : LandSlab) (e : DirEntry) (n : Nat × Nat) (g : Nat) : List (Nat × Nat × Nat) :=
  let head := if e.headless then [] else [(y.com, 0, Nat.min (64 + n.1) (ribCommon s - y.com))]
  head ++ (List.range g).map fun j =>
    let o := 64 + n.1 + j * n.2
    (ribCommon s + j * ribPiece s + y.pie, o, Nat.min (Nat.min n.2 (ribPiece s - y.pie)) (64 + e.comp - o))

/-- Bytes of a block from offset `lo` on, of which `bs` are the block's first, land in its slab in all four areas (R169,
R185). -/
def landRange (s : State) (l pos lo : Nat) (e : DirEntry) (bs : List Byte) (ps : List Bool) (hok : Bool) : State :=
  let g := geomNibs (ctxOf s (ribCtx s)).geom
  (List.range Config.dies).foldl (fun s d =>
    match (look Landing.reset s.landing d).slabs.reverse.find? fun y => y.lap = l && y.pos ≤ pos with
    | none => s
    | some y =>
      (slabParts s y e (blockSizes s y e (hdrOf (bs.take 64)) hok g) g).foldl (fun s t =>
        let a := Nat.max t.2.1 lo
        landBytes 2 s d y.frame (t.1 + (a - t.2.1)) ((bs.drop a).take (t.2.1 + t.2.2 - a)) ps a) s) s

/-- A block has landed as a whole: its slab has one fewer to land and the next block's bytes follow its own. -/
def landEnd (s : State) (l pos : Nat) (e : DirEntry) (bs : List Byte) (hok : Bool) : State :=
  let g := geomNibs (ctxOf s (ribCtx s)).geom
  (List.range Config.dies).foldl (fun s d =>
    let a := look Landing.reset s.landing d
    match a.slabs.reverse.find? fun y => y.lap = l && y.pos ≤ pos with
    | none => s
    | some y =>
      let n := blockSizes s y e (hdrOf (bs.take 64)) hok g
      let z := { y with left := y.left - 1, pie := y.pie + n.2, com := if e.headless then 0 else y.com + 64 + n.1 }
      { s with landing := put Landing.reset s.landing d { a with slabs := a.slabs.map fun t => if t = y then z else t } }) s

/-- The checks of a block as it lands (R195): one that fails has the poison bit on every word before its frames become READY;
it is counted and reported. -/
def landChecks (s : State) (l x pos : Nat) (e : DirEntry) (bs : List Byte) (hok cok : Bool) : State :=
  let bad := !(hok && cok)
  let s := if bad then landRange s l pos 0 e bs (List.replicate (bs.length / 64 + 1) true) hok else s
  let s := landEnd s l pos e bs hok
  if bad then
    let s := bumpF (setF s Reg.RIB_ERR_INFO 18 0 x) Reg.RIB_POISON_BLOCKS 31 0 1
    let s := if hok then s else ribErr s 3
    let s := if cok then s else ribErr s 4
    raise s 1 0x12 8 (some (ribCtx s)) x ((if hok then 0 else 1) + (if cok then 0 else 2) + 2 ^ 32 * e.epoch)
  else s

/-- What this member has of the block at `pos` of the lap being fed, with its poison, and the bytes of it that have landed:
the whole from its own HBM, or what has come on a hop. -/
def blockSource (s : State) (l pos : Nat) (e : DirEntry) : Option (List Byte × List Bool × Nat) :=
  if servedBy s e = ribPos s then
    let (bs, ps) := readDpa (64 + e.comp + 1) s e.addr (64 + e.comp)
    some (bs, ps, 0)
  else ((ribDir s e.ccw).blks.find? fun b => b.lap = l && b.pos = pos && b.land < b.whole).map fun b =>
    (b.data, (List.range (b.data.length / 64 + 1)).map fun i => b.bad.contains i, b.land)

/-- The feed has written the first `k` bytes of a block that came on a hop; tags that this frees are taken again (R189). -/
def noteLand (s : State) (l pos k : Nat) : State :=
  let land := fun (d : RibDir) =>
    dropBlk { d with blks := d.blks.map fun b => if b.lap = l && b.pos = pos then { b with land := k } else b }
  let s := onRib s fun r => { r with cw := land r.cw, ccw := land r.ccw }
  let serve := fun (s : State) ccw => serveDir (ribDir s ccw).waiting.length s ccw
  serve (serve s false) true

/-- The block at `pos` has been fed: after the last one of the lap the feed turns to the next lap. -/
def noteFed (s : State) (l set pos : Nat) : State :=
  let n := (lapOrder s set).length
  onRib s fun r =>
    let r := { r with fed := r.fed ++ [pos] }
    if n ≤ r.fed.length then { r with feedLap := l + 1, feedNext := 0, fed := [] } else r

/-- The landing feed writes what has come of the block at `pos`, once its slab's turn to have frames has come and the blocks
before it in the slab have landed (R135, R169, R185, R189); the checks end with the block's last byte (R195). -/
def landBlock (s : State) (pos : Nat) : State :=
  let l := s.rib.feedLap
  match lapSet s l with
  | none => s
  | some set =>
    match entryAt s set pos with
    | none => s
    | some x =>
      let e := dirEntry s x
      match blockSource s l pos e with
      | none => s
      | some (bs, ps, lo) =>
        let first := (entryAt s set s.rib.feedNext).map (dirEntry s)
        let slab := (lapOrder s set).filter fun y => (dirEntry s y).slab = e.slab
        let t := if pos < s.rib.feedNext then some s
          else if (first.map (·.slab)) = some e.slab then allocSlab s l slab.length else none
        match t with
        | none => s
        | some t =>
          if t.rib.fed.contains pos || bs.length < 64
              || slab.any fun y => (dirEntry s y).pos < pos && !t.rib.fed.contains (dirEntry s y).pos then s
          else
            let hok := hdrMatches x e bs
            let t := landRange t l pos lo e bs ps hok
            if bs.length < 64 + e.comp then noteLand t l pos bs.length
            else noteLand (noteFed (landChecks t l x pos e bs hok (crcMatches e bs)) l set pos) l pos bs.length

/-- SLAB_LAND (R185). -/
def execSlabLand (pos : Nat) (s : State) : Out :=
  .next (if ribState s = 2 || ribState s = 3 then landBlock s pos else s)

/-! ### Members that fail (R214 to R217) -/

/-- Requests of the ribbon end with a status (R216, R217, R364). -/
def endRequests (s : State) (status : Nat) : State :=
  let waiting := s.rib.queue.filterMap fun e => s.cmds.find? fun x => x.no = e.1
  let live := s.rib.live
  let s := onRib s fun r => { r with queue := [], live := [] }
  let s := waiting.foldl (fun s x => complete s x status 0 0) s
  live.foldl (fun s x => formComp s x.c x.q x.seq x.tag 6 status true false 0 0) s

/-- A member is taken as failed (R214): its neighbours set MEMBER_LOST, and the ribbon stops and closes. -/
def memberFailed (s : State) (f : Nat) : State :=
  if ribState s = 0 || ribState s = 7 || ribN s ≤ f || s.rib.failed.contains f || ribN s ≤ 1 then s
  else if f = ribPos s then endRequests (estop s) 0x08
  else
    let near := ribNext s (ribPos s) false = f || ribNext s (ribPos s) true = f
    let s := match memberAddr s f with | some a => packageLost s a | none => s
    let s := if near then ribErr (setF s Reg.RIB_ERR_INFO 24 19 f) 7 else s
    setRibState (onRib (estop s) fun r => { r with failed := r.failed ++ [f] }) 6

/-- MEMBER_FAILED (R214). -/
def execMemberFailed (m : Nat) (s : State) : Out := .next (memberFailed s m)

/-- HOP_TIMEOUT (R191, R214): the silence of an incoming hop is tested at time `t`. -/
def execHopTimeout (ccw : Bool) (t : Nat) (s : State) : Out :=
  let s := atTime s t
  .next (if hopsUsed s && s.ftc - (ribDir s ccw).heard ≥ 1000 * Nat.max 50 (getF s Reg.RIB_HOP_TIMEOUT 15 0) then
      memberFailed (ribErr (setF s Reg.RIB_ERR_INFO 24 19 (upstream s ccw)) 6) (upstream s ccw)
    else s)

/-- Whether some block that serves has lost every copy (R216, R217). -/
def blockLost (s : State) : Bool :=
  let sets := if switching s then [0, 1] else [activeSet s]
  sets.any fun set => (setEntries s set).any fun x =>
    let h := (dirEntry s x).home
    s.rib.failed.contains h && (!mirrored s || s.rib.failed.contains ((h + 2) % ribN s))

/-- RIBBON_CLOSURE (R215 to R217): `joined` tells that the neighbours of the failed member are joined. -/
def closure (s : State) (joined : Bool) : State :=
  if ribState s ≠ 6 then s
  else if blockLost s then endRequests (ribErr (setRibState (showRing s) 7) 8) 0x09
  else if !joined then s
  else
    let s := setRibState (showRing s) 5
    if getF s Reg.RIB_CTRL 5 5 = 1 && isLead s then resumeLead s else s

/-- RIBBON_CLOSURE. -/
def execRibbonClosure (joined : Bool) (s : State) : Out := .next (closure s joined)

/-! ### The directory window (R194, R219) -/

/-- The bytes in RIB_DIR_DATA0 to 7. -/
def dirData (s : State) : List Byte :=
  ((List.range 8).map fun w => natLE 4 (getReg s (Reg.RIB_DIR_DATA + 4 * w)).toNat).flatten

/-- READ: entry INDEX is copied into RIB_DIR_DATA0 to 7. -/
def dirRead (s : State) (x : Nat) : State :=
  (List.range 8).foldl (fun s w => setReg s (Reg.RIB_DIR_DATA + 4 * w) (look 0 s.dir (8 * x + w))) s

/-- WRITE: RIB_DIR_DATA0 to 7 are stored into entry INDEX after the check of ENTRY_CHK, or refused (R194, R219). -/
def dirWrite (s : State) (x : Nat) : State :=
  let busy := 2 ≤ ribState s && ribState s ≤ 4
  let bs := dirData s
  let e := entryOfBytes bs
  if busy && (dirEntry s x).inSet (activeSet s) then setBit s Reg.RIB_ERR 10
  else if entryChk bs ≠ e.chk then ribErr s 2
  else
    let t := storeEntry { s with notices := s.notices.filter fun p => p.1 ≠ x } x bs
    let t := if e.valid then t else unlockEntry t x
    let note := fun (t : State) set =>
      if e.inSet set then setReg t (Reg.RIB_EPOCH_A + 4 * set) (BitVec.ofNat 32 (setEpoch t set)) else t
    shadowChange s (note (note t 0) 1)

/-- A write of RIB_DIR_INDEX (R219). DESIGN CHOICE: with READ and WRITE both 1 the entry is written, and what is then stored
in it is read (log 133). -/
def dirIndexWrite (v : W32) (s : State) : State :=
  let s := setReg s Reg.RIB_DIR_INDEX (v &&& 0x7FFFF)
  let x := fld v 18 0
  let s := if bitOf v.toNat 31 then dirWrite s x else s
  if bitOf v.toNat 30 then dirRead s x else s

/-- DIR_READ (R219): a write of RIB_DIR_INDEX with READ. -/
def execDirRead (a : Acc) (v : BitVec 32) (s : State) : Out :=
  regCmd s a Reg.RIB_DIR_INDEX (dirIndexWrite (v ||| 0x40000000))

/-- DIR_WRITE (R194, R219): a write of RIB_DIR_INDEX with WRITE. -/
def execDirWrite (a : Acc) (v : BitVec 32) (s : State) : Out :=
  regCmd s a Reg.RIB_DIR_INDEX (dirIndexWrite (v ||| 0x80000000))

/-! ### Requests (R198, R362) -/

/-- A handle joins the queue in the order in which Avfer accepted its command (R198). -/
def queueIn (x : Nat × Bool) : List (Nat × Bool) → List (Nat × Bool)
  | [] => [x]
  | y :: ys => if x.1 < y.1 then x :: y :: ys else y :: queueIn x ys

/-- RIB_REQ (R198): the handle joins the queue of the ribbon's context. -/
def execRibReq (c q : Nat) (s : State) : Out :=
  startCmd s c q 6 fun s x =>
    if c ≠ ribCtx s then complete s x 1 0 0
    else if ribState s = 7 then complete s x 0x09 0 0
    else onRib s fun r => { r with queue := queueIn (x.no, switching s) r.queue }

end Sys2Proof.Machine
end

