-- ==== Sys2Proof/Machine/LinkOps.lean ====
section
/-!
DEFINITION. Link ports (R274 to R292): states, the router's choice of ports, order numbers, what a flit slot carries, and
ports that go down.
-/
namespace Sys2Proof.Machine

/-! ### Ports and neighbours -/

/-- LNK_STATUS.STATE: 0 DOWN, 1 DETECT, 2 EQUALISE, 3 FEC_LOCK, 4 IDENTIFY, 5 NEGOTIATE, 6 UP, 7 QUARANTINED,
8 MISMATCHED, 9 FENCED, 10 CALIBRATING. -/
def pState (s : State) (p : Nat) : Nat := getF s (portReg Reg.LNK_STATUS p) 3 0

/-- LNK_STATUS.LANES_OK (R300). -/
def lanesOk (s : State) (p : Nat) : Nat := getF s (portReg Reg.LNK_STATUS p) 7 4

/-- Lanes of a port adapted and locked. -/
def setLanes (s : State) (p v : Nat) : State := setF s (portReg Reg.LNK_STATUS p) 7 4 v

/-- A port takes a state; DOWN, QUARANTINED and MISMATCHED are reported (R418, CODE 0x04), with a cause. A port that is
DOWN, FENCED or at the beginning of its training has no lane locked. -/
def setPState (s : State) (p v cause : Nat) : State :=
  let old := pState s p
  let s := onPort (setF s (portReg Reg.LNK_STATUS p) 3 0 v) p fun l => { l with since := s.ftc }
  let s := if v ≤ 3 || v = 9 then setLanes s p 0 else s
  if v ≠ old && ((v = 0 && (old = 6 || old = 10)) || v = 7 || v = 8) then
    raise s 0 0x04 4 none p (v + 256 * (Config.causeCode cause).toNat)
  else s

/-- Ports in state `st` toward a neighbour, ascending. -/
def portsIn (s : State) (st a : Nat) : List Nat :=
  (List.range Config.ports).filter fun p => pState s p = st && peerOf s p = some a

/-- UP ports toward a neighbour, ascending. -/
def upPorts (s : State) (a : Nat) : List Nat := portsIn s 6 a

/-- Ports on which traffic to a neighbour goes: the UP ones that pass `ok`, or those that wait for the end of a
recalibration burst where it has no other (R291, R292). -/
def livePorts (s : State) (a : Nat) (ok : Nat → Bool) : List Nat :=
  let up := (upPorts s a).filter ok
  if up.isEmpty then (portsIn s 10 a).filter ok else up

/-- Ports toward a neighbour that a VC may use: under profile R the ribbon uses ring ports alone (R288). -/
def portsTo (s : State) (a vc : Nat) : List Nat :=
  livePorts s a fun p => profileOf s ≠ 0 || vc ≠ 1 || roleOf s p = 1 || roleOf s p = 2

/-- Whether a plane address lies in the sub-block of a context (R293). -/
def inBlock (s : State) (c a : Nat) : Bool :=
  (List.zipWith (fun x (b : Nat × Nat) => b.1 ≤ x && x ≤ b.2) (coords a) (subBlock s c)).all id

/-! ### Routing (R288, R289, R291) -/

/-- A word of a route table. -/
def routeWord (s : State) (c sett w : Nat) : W32 := look 0 s.routes (2 * (1024 * c + sett) + w)

/-- A path slot of a route entry: target, relay, valid. -/
def pathSlot (s : State) (c sett i : Nat) : Nat × Bool × Bool :=
  let w := (routeWord s c sett 0).toNat / 2 ^ (8 * i)
  (w % 32, bitOf w 5, bitOf w 7)

/-- Ports of a path slot that is live (R289): its global port, or every port toward its relay, is UP. With `cal`, a port
that recalibrates counts as UP. -/
def slotPorts (s : State) (cal : Bool) (vc : Nat) (x : Nat × Bool × Bool) : List Nat :=
  let up := fun p => pState s p = 6 || (cal && pState s p = 10)
  if !x.2.2 then []
  else if x.2.1 then
    let a := planeAddr s / 16 * 16 + x.1 % 16
    let ps := (List.range Config.ports).filter fun p => peerOf s p = some a
    if ps.all up then ps.filter fun p => profileOf s ≠ 0 || vc ≠ 1 || roleOf s p = 1 || roleOf s p = 2 else []
  else if up x.1 then [x.1] else []

/-- Whether two packages are reported to have no UP link between them. -/
def isApart (s : State) (a b : Nat) : Bool := s.apart.contains (a, b) || s.apart.contains (b, a)

/-- Through which ports a flit for a member of the sett goes, and whether as transit (R288, R291): directly, else through
the lowest-numbered other member that has UP ports to both ends, on VC4 where that one is outside the job's sub-block. -/
def settRoute (s : State) (c : Option Nat) (dest vc : Nat) : List Nat × Bool :=
  let direct := portsTo s dest vc
  if !direct.isEmpty then (direct, false)
  else
    let me := planeAddr s
    match ((List.range 16).map fun m => me / 16 * 16 + m).find? fun a =>
        a ≠ me && a ≠ dest && !(upPorts s a).isEmpty && !isApart s a dest with
    | none => ([], false)
    | some a => (upPorts s a, match c with | some c => !inBlock s c a | none => true)

/-- The live path slots of a context toward a plane address (R289). -/
def liveSlots (s : State) (cal : Bool) (c dest vc : Nat) : List (List Nat) :=
  ((List.range 4).map fun i => slotPorts s cal vc (pathSlot s c (dest / 16) i)).filter fun l => !l.isEmpty

/-- Ports of a flit of a context for a plane address on a VC (R288, R289, R291). -/
def routeTo (s : State) (c : Option Nat) (dest vc : Nat) : List Nat × Bool :=
  let me := planeAddr s
  if dest / 16 = me / 16 then settRoute s c dest vc
  else match c with
    | none => ([], false)
    | some c =>
      let up := liveSlots s false c dest vc
      let live := if up.isEmpty then liveSlots s true c dest vc else up
      (live.getD ((me % 16 + dest % 16) % live.length) [], false)

/-- The port that would have carried a flit that has no route (R291, R300): the first toward its destination in the sett, or
of the slot that R289 would choose among those in use; with no slot in use the first global port (DESIGN CHOICE, log
entry 141). -/
def missedPort (s : State) (c : Option Nat) (dest : Nat) : Nat :=
  let me := planeAddr s
  let first := fun (ok : Nat → Bool) => ((List.range Config.ports).find? ok).getD 0
  if dest / 16 = me / 16 then first fun p => peerOf s p = some dest
  else
    let used := match c with
      | some c => ((List.range 4).map fun i => pathSlot s c (dest / 16) i).filter fun (x : Nat × Bool × Bool) => x.2.2
      | none => []
    match used[(me % 16 + dest % 16) % used.length]? with
    | some x => if x.2.1 then first fun p => peerOf s p = some (me / 16 * 16 + x.1 % 16) else x.1
    | none => first fun p => roleOf s p = 4

/-- Ports of the ribbon's hop to a neighbour in a direction (R184, R215, R279): under profile R the ring ports of that
direction where some lead to it, else every port of the neighbour. -/
def hopPorts (s : State) (a : Nat) (ccw : Bool) : List Nat :=
  let ring := fun p => roleOf s p = if ccw then 2 else 1
  if profileOf s = 0 && (List.range Config.ports).any fun p => ring p && peerOf s p = some a then livePorts s a ring
  else livePorts s a fun _ => true

/-- Ports of the outgoing hop of the ribbon in a direction: those of the hop, else a fault route to the neighbour, perhaps
as transit (R215, R278). -/
def ringPorts (s : State) (ccw : Bool) : List Nat × Nat × Bool :=
  match memberAddr s (ribNext s (ribPos s) ccw) with
  | none => ([], 0, false)
  | some a =>
    let own := hopPorts s a ccw
    if !own.isEmpty then (own, a, false)
    else
      let r := routeTo s (some (ribCtx s)) a 3
      (r.1, a, r.2)

/-! ### Order numbers and queues (R288) -/

/-- A flit joins the queue of one of the ports, in round robin, with the ORDER of its neighbour and VC. -/
def queueFlit (s : State) (ports : List Nat) (x : LFlit) : State :=
  match ports with
  | [] => s
  | first :: _ =>
    let a := (peerOf s first).getD 0
    let key := 8 * a + x.f.vc
    let n := look 0 s.orderOut key
    let p := ports.getD (n % ports.length) first
    let x := { x with f := { x.f with order := n % 512 } }
    onPort { s with orderOut := put 0 s.orderOut key (n + 1) } p fun l => { l with txq := l.txq ++ [x] }

/-- Messages lose bytes or have no route (R290, R291): a segment completes with status 5 and awaits no acknowledgement for
the copy; a collective whose agreement is lost completes with status 5. -/
def loseMsgs (s : State) (ks : List Nat) : State :=
  ks.foldl (fun (s : State) k => match s.out[k]? with
    | some (OutMsg.link "SEGMENT" _ _ c (id :: owner :: seq :: _ :: _ :: _ :: _ :: mark :: _)) =>
      { s with colls := s.colls.map fun x =>
          if x.ctx = c && x.id = id then
            { x with status := if x.status = 0 then 5 else x.status
                     segs := x.segs.map fun g =>
                       if g.owner = owner && g.seq = seq && g.stage = mark % 8 then
                         { g with acks := g.acks - 1
                                  st := if (g.st = .sent || g.st = .endSent) && g.acks ≤ 1 then .done else g.st }
                       else g }
          else x }
    | some (OutMsg.link "AGREE" _ _ c (id :: _)) =>
      { s with colls := s.colls.map fun x =>
          if x.ctx = c && x.id = id && x.status = 0 then { x with status := 5 } else x }
    | _ => s) s

/-- A flit is routed, or its message completes with a no-route error (R289, R291). -/
def routeFlit (s : State) (c : Option Nat) (x : LFlit) : State :=
  let (ports, transit) := routeTo s c x.f.dest x.f.ovc
  if ports.isEmpty then loseMsgs (setBit s (portReg Reg.LNK_ERR (missedPort s c x.f.dest)) 5) x.msg.toList
  else queueFlit s ports { x with f := { x.f with vc := if transit then 4 else x.f.vc } }

/-- Job tag of a context. -/
def ctxTag (s : State) (c : Nat) : Nat := getF s (Reg.LNK_CTX_TAG + 4 * c) 15 0

/-- VC of a ribbon message (R277): emergency stops on VC0, notices on VC5, marks and slabs on VC1. -/
def ringVc (kind : String) : Nat := if kind = "ESTOP" then 0 else if kind = "NOTICE" then 5 else 1

/-- The router takes up a message: its flits join the queues of ports. -/
def takeMsg (s : State) (k : Nat) (m : OutMsg) : State :=
  let n := msgParts (msgBytes m).length
  let flits := fun (s : State) (c : Option Nat) vc tag dest =>
    (List.range n).foldl (fun s i => routeFlit s c ⟨dataFlit vc tag dest m i, some k, i⟩) s
  match m with
  | .remoteSignal p _ _ _ tag =>
    match tagCtx s tag with
    | some c => flits s (some c) 0 tag (Config.packageAddr tag p)
    | none => s
  | .remoteHalt c =>
    ((List.range (ctxOf s c).packages).filter (· ≠ packageIndex s c)).foldl (fun s p =>
      flits s (some c) 0 (ctxTag s c) (Config.packageAddr (ctxTag s c) p)) s
  | .link _ vc dest c _ => flits s (some c) vc (ctxTag s c) dest
  | .ring kind ccw _ =>
    let (ports, a, transit) := ringPorts s ccw
    (List.range n).foldl (fun s i =>
      let f := dataFlit (ringVc kind) (ctxTag s (ribCtx s)) a m i
      queueFlit s ports ⟨{ f with vc := if transit then 4 else f.vc }, some k, i⟩) s
  | _ => s

/-- The router takes up every message that has left a unit since it last did. -/
def takeOut (s : State) : State :=
  let new := s.out.drop s.routed
  let s := (List.range new.length).foldl (fun t i => match new[i]? with
    | some m => takeMsg t (s.routed + i) m
    | none => t) s
  { s with routed := s.out.length }

/-! ### Flit slots (R274, R275, R277, R278) -/

/-- Buffers of a VC at the receiver (R277). -/
def vcBuffers (vc : Nat) : Nat :=
  match vc with | 0 => 32 | 1 => 256 | 2 => 128 | 3 => 64 | 4 => 32 | 5 => 16 | _ => 0

/-- Slots that VC4 took among the latest 392 of a port, the present one with them (R278). -/
def transitUse (l : LPort) : List Nat := l.transit.filter fun k => l.slot < k + 392

/-- Whether VC4 may take a slot: at most 39 in every 392 consecutive ones (R278). -/
def transitFree (l : LPort) : Bool := (transitUse l).length < 39

/-- Whether a VC has a flit and a credit (R277), and VC4 a slot within its cap (R278). -/
def vcReady (l : LPort) (vc : Nat) : Bool :=
  (l.txq.any fun x => x.f.vc = vc) && look 0 l.used vc < vcBuffers vc && (vc ≠ 4 || transitFree l)

/-- Weights of VC1 to VC3 (R277, LNK_ARB). -/
def arbWeights (s : State) (p : Nat) : List Nat :=
  [(3, 0), (7, 4), (11, 8)].map fun b => Nat.max 1 (getF s (portReg Reg.LNK_ARB p) b.1 b.2)

/-- The VC that is served, and the weights left: VC0, VC5, VC4 in this order, then VC1 to VC3 by weighted round robin. -/
def pickVc (s : State) (p : Nat) (l : LPort) : Option (Nat × List Nat) :=
  match [0, 5, 4].find? (vcReady l) with
  | some vc => some (vc, l.wrr)
  | none =>
    let share := fun (ws : List Nat) => ([1, 2, 3].find? fun vc => vcReady l vc && 0 < ws.getD (vc - 1) 0).map fun vc =>
      (vc, setNth ws (vc - 1) (ws.getD (vc - 1) 0 - 1))
    match share l.wrr with
    | some r => some r
    | none => share (arbWeights s p)

/-- The first flit of a VC leaves the queue. -/
def takeVc (vc : Nat) : List LFlit → Option (LFlit × List LFlit)
  | [] => none
  | x :: xs => if x.f.vc = vc then some (x, xs) else (takeVc vc xs).map fun r => (r.1, x :: r.2)

/-- A data flit as it goes onto the fibre: with its SEQ, the last SEQ received in order, and its CRC (R273). -/
def wireFlit (l : LPort) (x : LFlit) (seq : Nat) : FlitIn :=
  let f := { x.f with seq := seq, ack := (l.rx + 4095) % 4096 }
  { f with crc := flitCrc f }

/-- The flit goes onto the fibre: the model's record of it names the message and the part, then the symbols by lane
(R272). -/
def putFlit (s : State) (p : Nat) (x : LFlit) (seq : Nat) (again : Bool) : State :=
  let s := send s (.packet (if again then "FLIT_AGAIN" else "FLIT") p
    ([x.msg.getD 0, x.part] ++ flitLanes (wireFlit (portOfLink s p) x seq)))
  onPort s p fun l => { l with use := s.ftc, transit := if x.f.vc = 4 then transitUse l ++ [l.slot] else l.transit }

/-- The FTC in units of 0.1 ns (R296). -/
def stampNow (s : State) : Nat := 10 * s.ftc + 10 * s.ftcFrac / 2 ^ 32

/-- After a fatal error other than 0x33 the links' FTC role stays frozen (R419). -/
def ftcFrozen (s : State) : Bool := getF s Reg.HUB_FATAL_CODE 7 0 ≠ 0 && getF s Reg.HUB_FATAL_CODE 7 0 ≠ 0x33

/-- The timestamp of a control flit that leaves now: an answer to the one received, or one that is due (R296). -/
def stampOut (s : State) (l : LPort) : Option (Nat × Option (Nat × Nat)) :=
  if ftcFrozen s then none
  else if l.stampIn.isSome then some (stampNow s, l.stampIn)
  else if l.stampDue then some (stampNow s, none)
  else none

/-- A port once its control flit has left. -/
def controlSent (l : LPort) : LPort :=
  { l with nak := none, owed := [], asks := l.asks.drop 1, replies := l.replies.drop 1, stampDue := false, stampIn := none }

/-- A number that may be absent, in the model's record. -/
def optOut : Option Nat → List Nat
  | none => [0]
  | some n => [1, n]

/-- A control flit (R274, R275, R290, R296): acknowledgement, a negative acknowledgement that is due, a question about a
failed port, an answer to one, a timestamp with those that it answers, credits. -/
def putControl (s : State) (p : Nat) : State :=
  let l := portOfLink s p
  let stamp := stampOut s l
  let body := [(l.rx + 4095) % 4096] ++ optOut l.nak ++ optOut l.asks.head?
    ++ optOut (l.replies.head?.map fun r => r.1) ++ optOut (l.replies.head?.map fun r => r.2)
    ++ optOut (stamp.map fun t => t.1) ++ optOut (stamp.bind fun t => t.2.map fun u => u.1)
    ++ optOut (stamp.bind fun t => t.2.map fun u => u.2) ++ (l.owed.map fun c => [c.1, c.2]).flatten
  onPort (send s (.packet (if l.nak.isSome then "CONTROL_NAK" else "CONTROL") p body)) p controlSent

/-- A flit slot of an UP port passes. A flit that is sent again on VC4 waits for the cap as well (R278). -/
def flitSlot (s : State) (p : Nat) : State :=
  let s := onPort (takeOut s) p fun l => { l with slot := l.slot + 1 }
  let l := portOfLink s p
  if l.nak.isSome || l.slot % 300 = 0 then putControl s p
  else if l.resend > 0 then
    match l.replay[l.replay.length - l.resend]? with
    | some (q, x) =>
      if x.f.vc = 4 && !transitFree l then s
      else onPort (putFlit s p x q true) p fun l => { l with resend := l.resend - 1 }
    | none => onPort s p fun l => { l with resend := 0 }
  else if l.replay.length ≥ 4095 then s
  else match pickVc s p l with
    | none => s
    | some (vc, ws) =>
      match takeVc vc l.txq with
      | none => s
      | some (x, rest) =>
        onPort (putFlit s p x l.seq false) p fun l =>
          { l with txq := rest, replay := l.replay ++ [(l.seq, x)], seq := (l.seq + 1) % 4096, wrr := ws
                   used := put 0 l.used vc (look 0 l.used vc + 1) }

/-- Flits up to an acknowledged SEQ leave the replay buffer (R275). -/
def ackFlits (l : LPort) (ack : Nat) : LPort :=
  if l.replay.any fun r => r.1 = ack then
    let rest := (l.replay.dropWhile fun r => r.1 ≠ ack).drop 1
    { l with replay := rest, resend := Nat.min l.resend rest.length
             naks := if l.nakSeq.any fun q => rest.any fun r => r.1 = q then l.naks else 0 }
  else l

/-- Credits that come back. -/
def takeCredits (l : LPort) (cs : List (Nat × Nat)) : LPort :=
  cs.foldl (fun l c => { l with used := put 0 l.used c.1 (look 0 l.used c.1 - c.2) }) l

/-- A credit to be returned for a flit that has left its buffer. -/
def oweCredit (l : LPort) (vc : Nat) : LPort :=
  { l with owed := if l.owed.any fun c => c.1 = vc then
      l.owed.map fun c => if c.1 = vc then (c.1, c.2 + 1) else c
    else l.owed ++ [(vc, 1)] }

/-- A flit that has been released in order leaves its buffer at port `p`: it is forwarded, delivered to the context that
holds its job tag, or dropped (R278, R293). -/
def flitHome (s : State) (p : Nat) (f : FlitIn) : State :=
  let s := onPort s p fun l => oweCredit l f.vc
  let c := tagCtx s f.tag
  if f.dest ≠ planeAddr s then
    let vc := if c.isSome then f.ovc else 4
    let s := if vc = 4 then bumpF s (portReg Reg.LNK_TRANSIT p) 31 0 1 else s
    routeFlit s c ⟨{ f with vc := vc }, none, 0⟩
  else if f.tag = 0 then { s with rx := s.rx ++ [(none, f)] }
  else if c.isNone then bumpF s Reg.LNK_JOBTAG_DROP 31 0 1
  else { s with rx := s.rx ++ [(c, f)] }

/-- Flits of a neighbour and VC are released in ORDER (R288). `fuel` bounds those that waited. -/
def releaseFlits : Nat → State → Nat → Nat → State
  | 0, s, _, _ => s
  | fuel + 1, s, a, vc =>
    let key := 8 * a + vc
    let n := look 0 s.orderIn key
    match s.heldRx.find? fun h => h.1 = a && h.2.2.vc = vc && h.2.2.order = n with
    | none => s
    | some h =>
      let s := { s with heldRx := s.heldRx.erase h, orderIn := put 0 s.orderIn key ((n + 1) % 512) }
      releaseFlits fuel (flitHome s h.2.1 h.2.2) a vc

/-- A data flit has been accepted in SEQ order; one of a reserved VC is ignored (R5, R277). -/
def acceptFlit (s : State) (p : Nat) (f : FlitIn) : State :=
  let s := onPort s p fun l => { l with rx := (l.rx + 1) % 4096, bad := false, use := s.ftc }
  if f.vc ≥ 6 || f.ovc ≥ 6 then s
  else
    let a := (peerOf s p).getD 0
    let s := { s with heldRx := s.heldRx ++ [(a, p, f)] }
    releaseFlits s.heldRx.length s a f.vc

/-! ### Ports that go down (R276, R290, R291) -/

/-- Flits that are lost set HANDOVER_LOSS, and their messages lose bytes (R290). -/
def loseFlits (s : State) (p : Nat) (xs : List LFlit) : State :=
  if xs.isEmpty then s
  else loseMsgs (setBit s (portReg Reg.LNK_ERR p) 4) (xs.filterMap (·.msg)).eraseDups

/-- Flits spread over ports by their ORDER; they join the front or the back of the queues. -/
def spread (s : State) (ports : List Nat) (xs : List LFlit) (front : Bool) : State :=
  (if front then xs.reverse else xs).foldl (fun s x =>
    onPort s (ports.getD (x.f.order % ports.length) 0) fun l =>
      { l with txq := if front then x :: l.txq else l.txq ++ [x] }) s

/-- The flits that wait at a port move to the other ports of its peer, or are routed anew, in transit on VC4 (R278, R291);
they stay where the port itself will carry them on (R292). -/
def moveQueue (s : State) (p : Nat) : State :=
  let xs := (portOfLink s p).txq
  let s := onPort s p fun l => { l with txq := [] }
  let ports := match peerOf s p with | some a => livePorts s a fun _ => true | none => []
  if ports.isEmpty then
    xs.foldl (fun s x =>
      let c := tagCtx s x.f.tag
      routeFlit s c { x with f := { x.f with vc := if c.isNone && x.msg.isNone then 4 else x.f.ovc } }) s
  else spread s ports xs false

/-- The ribbon position at a peer whose hop has lost every port (R184, R214, R279): under profile R the ring ports of its
direction alone make the hop. -/
def hopLost (s : State) (a : Nat) : Option Nat :=
  if ribState s = 0 then none
  else [false, true].findSome? fun ccw =>
    let q := ribNext s (ribPos s) ccw
    if q ≠ ribPos s && memberAddr s q = some a && (hopPorts s a ccw).isEmpty then some q else none

/-- Ports toward a peer whose last session has left flits unacknowledged. -/
def unsettled (s : State) (a : Nat) : List Nat :=
  (List.range Config.ports).filter fun q => peerOf s q = some a && !(portOfLink s q).left.isEmpty

/-- Flits left by failed ports toward a peer: a surviving port asks what the peer accepted, or they are lost (R290). -/
def settle (s : State) (a : Nat) : State :=
  match livePorts s a fun _ => true with
  | q :: _ => onPort s q fun l => { l with asks := (unsettled s a).map (farPort s) }
  | [] => (unsettled s a).foldl (fun s q =>
      onPort (loseFlits s q ((portOfLink s q).left.map (·.2))) q fun l => { l with left := [] }) s

/-- The session of a port ends: what is not acknowledged is left to be settled, and the last SEQ accepted is kept for the
peer's question (R290). -/
def endSession (l : LPort) : LPort :=
  { l with left := l.left ++ l.replay, replay := [], resend := 0, lastRx := (l.rx + 4095) % 4096, asks := [], calDue := none }

/-- A port leaves UP: its traffic moves, and its unacknowledged flits wait for a handover where another port leads to the
same peer, or are lost (R276, R290, R291); a ribbon hop that has lost every port fails (R214). -/
def portLeaves (s : State) (p tgt cause : Nat) : State :=
  if pState s p ≠ 6 && pState s p ≠ 10 then setPState s p tgt cause
  else
    let s := onPort (setF (setPState s p tgt cause) (portReg Reg.LNK_CAL p) 16 16 0) p endSession
    let s := moveQueue s p
    match peerOf s p with
    | none => s
    | some a =>
      let s := settle s a
      match hopLost s a with
      | some q => memberFailed s q
      | none => s

/-- A port leaves UP because one of its lanes failed: the other lanes are still locked (R276, R300). -/
def laneLeaves (s : State) (p lane cause : Nat) : State :=
  let ok := lanesOk s p
  setLanes (portLeaves s p 0 cause) p (ok - if ok.testBit lane then 2 ^ lane else 0)

/-- A handover (R290): flits after the last one that the peer accepted on the failed port go out again on the surviving
ports, before the flits that wait there. -/
def handover (s : State) (p q : Nat) : State :=
  let left := (portOfLink s p).left
  let rest := if left.any fun r => r.1 = q then (left.dropWhile fun r => r.1 ≠ q).drop 1 else left
  let s := onPort s p fun l => { l with left := [] }
  match (peerOf s p).map fun a => livePorts s a fun _ => true with
  | some (x :: xs) => spread s (x :: xs) (rest.map (·.2)) true
  | _ => loseFlits s p (rest.map (·.2))

/-- A port becomes UP: sequence numbers, credits and buffers start afresh (R275, R277), and with the first port to a
neighbour its order numbers (R288; DESIGN CHOICE, log entry 142). -/
def portUp (s : State) (p : Nat) : State :=
  let a := (peerOf s p).getD 0
  let s := if !(livePorts s a fun _ => true).isEmpty then s
    else
      let clear := fun (m : NMap Nat) => (List.range 8).foldl (fun m vc => put 0 m (8 * a + vc) 0) m
      { s with orderOut := clear s.orderOut, orderIn := clear s.orderIn, heldRx := s.heldRx.filter fun h => h.1 ≠ a }
  onPort (setPState s p 6 0) p fun l =>
    { LPort.reset with since := s.ftc, asym := l.asym, reach := l.reach, len := l.len, ident := l.ident
                       peerProfile := l.peerProfile, left := l.left, lastRx := l.lastRx, use := s.ftc, errs := l.errs }

end Sys2Proof.Machine
end

