-- ==== Sys2Proof/Machine/Links.lean ====
section
/-!
DEFINITION. The commands of the links (R272 to R294, R424): flit slots, arriving flits, training, identity, ports that go
down, recalibration, lane sparing, the route window.
-/
namespace Sys2Proof.Machine

/-- A command at a link port. -/
def onLink (s : State) (p : Nat) (f : State → State) : Out :=
  if p < Config.ports then .next (f s) else .fault .noSuchUnit

/-! ### Flits -/

/-- FLIT_SEND (R274, R275, R277, R278): a flit slot of the port passes; a quarantined port sends control flits alone. -/
def execFlitSend (p : Nat) (s : State) : Out :=
  onLink s p fun s => if pState s p = 6 then flitSlot s p else if pState s p = 7 then putControl s p else s

/-- Codewords of RS(544,514) decoded on the lanes of a port (R272, R300): up to 15 wrong symbols are corrected and counted,
more cannot be. -/
def fecCount (s : State) (p : Nat) (errs : List Nat) : State :=
  let corr := (errs.filter fun k => k ≤ 15).sum
  let pair := fun (s : State) base k => setReg64 s (portReg base p) (satAdd (2 ^ 64 - 1) (getReg64 s (portReg base p)) k)
  let s := pair (pair s Reg.LNK_FEC_CORR corr) Reg.LNK_FEC_UNCORR (errs.countP fun k => 15 < k)
  if corr = 0 then s else corrected s 0x03 4 p corr

/-- The flit error ratio of a port over the present FTC second (R276): beyond 10⁻⁹ of the 392,003,136 flit slots of a second
the port is DEGRADED, until a second has passed without a failing flit (DESIGN CHOICE, log entry 143). -/
def noteRatio (s : State) (p : Nat) (fails : Bool) : State :=
  let sec := s.ftc / 1000000000
  let (t, n) := (portOfLink s p).errs
  let m := (if t = sec then n else 0) + if fails then 1 else 0
  let s := onPort s p fun l => { l with errs := (sec, m) }
  if 392003136 < 1000000000 * m then setBit (setBit s (portReg Reg.LNK_STATUS p) 17) (portReg Reg.LNK_ERR p) 6
  else if t + 1 < sec || (t ≠ sec && n = 0) then setF s (portReg Reg.LNK_STATUS p) 17 17 0
  else s

/-- What a control flit brings (R274, R290, R296): credits, the peer's question about a failed port, the answer to this
port's own question, a timestamp. -/
def controlIn (s : State) (p : Nat) (f : FlitIn) : State :=
  let s := match f.ask with
    | some q =>
      let l := portOfLink s q
      let seq := if pState s q = 6 || pState s q = 10 then (l.rx + 4095) % 4096 else l.lastRx
      onPort s p fun l => { l with replies := l.replies ++ [(farPort s q, seq)] }
    | none => s
  let s := match f.last with | some (q, seq) => handover s q seq | none => s
  onPort s p fun l =>
    let l := takeCredits l f.credits
    match f.stamp with
    | none => l
    | some (t, none) => { l with stampIn := some (t, stampNow s) }
    | some (t, some (t1, t2)) => { l with xch := some (t1, t2, t, stampNow s) }

/-- FLIT_RECEIVE (R275, R288, R293): a flit arrives. `errs` are the wrong symbols of each codeword that the lanes decode with
it, `hit` tells whether it overlaps one that could not be corrected. A quarantined port takes control flits alone (R287);
a reserved TYPE is ignored (R5). -/
def flitIn (s : State) (p : Nat) (f : FlitIn) (errs : List Nat) (hit : Bool) : State :=
  let s := fecCount s p errs
  let l := portOfLink s p
  let st := pState s p
  if st ≠ 6 && st ≠ 10 && (st ≠ 7 || f.ty ≠ 2) then s
  else
    let fails := hit || f.crc ≠ flitCrc f
    let s := noteRatio s p fails
    if fails then
      if l.bad && (f.ty ≠ 1 || f.seq ≠ l.rx) then s else onPort s p fun l => { l with bad := true, nak := some l.rx }
    else if (l.bad && (f.ty ≠ 1 || f.seq ≠ l.rx)) || 3 < f.ty then s
    else
      let s := onPort s p fun l => ackFlits l f.ack
      let s := if f.ty = 2 then controlIn s p f else s
      if f.ty = 1 && f.seq = l.rx then acceptFlit s p f else s

/-- FLIT_RECEIVE. -/
def execFlitReceive (p : Nat) (f : FlitIn) (errs : List Nat) (hit : Bool) (s : State) : Out :=
  onLink s p fun s => flitIn s p f errs hit

/-- NAK_RECEIVE (R275, R276): the flits from a SEQ on are to be sent again; the eighth replay of one SEQ in succession
takes the port DOWN. -/
def nakIn (s : State) (p seq : Nat) : State :=
  let l := portOfLink s p
  if pState s p ≠ 6 || !(l.replay.any fun r => r.1 = seq) then s
  else
    let n := if l.nakSeq = some seq then l.naks + 1 else 1
    let s := onPort s p fun l =>
      { l with nakSeq := some seq, naks := n, resend := (l.replay.dropWhile fun r => r.1 ≠ seq).length }
    let s := corrected (bumpF s (portReg Reg.LNK_REPLAYS p) 31 0 1) 0x03 4 p 1
    if n ≥ 8 then portLeaves (setBit s (portReg Reg.LNK_ERR p) 0) p 0 1 else s

/-- NAK_RECEIVE. -/
def execNakReceive (p seq : Nat) (s : State) : Out := onLink s p fun s => nakIn s p seq

/-! ### Ports that go down (R276, R290, R291) -/

/-- FEC_LOCK_LOSS (R276): a lane has been out of lock for `ns`. -/
def execFecLockLoss (p lane ns : Nat) (s : State) : Out :=
  onLink s p fun s =>
    if lane < 4 && ns > 1000 && (pState s p = 6 || pState s p = 10) then
      laneLeaves (setBit s (portReg Reg.LNK_ERR p) 1) p lane 2
    else s

/-- PORT_DOWN (R276, R290, R291): the port leaves UP. `lost` tells whether the peer itself is reported lost, `apart` which
pairs of packages are reported to have no UP link between them. -/
def execPortDown (p : Nat) (lost : Bool) (apart : List (Nat × Nat)) (s : State) : Out :=
  onLink s p fun s =>
    let s := { s with apart := apart }
    let s := if pState s p = 6 || pState s p = 10 then portLeaves s p 0 3 else s
    match peerOf s p with
    | some a => if lost then packageLost s a else s
    | none => s

/-! ### Training (R283 to R287) -/

/-- A port in state `a` moves on to state `b`. -/
def train (s : State) (p a b : Nat) : State := if pState s p = a then setPState s p b 0 else s

/-- LIGHT_DETECT (R283). -/
def execLightDetect (p : Nat) (s : State) : Out := onLink s p fun s => train s p 1 2

/-- EQUALISE_COMPLETE (R283). -/
def execEqualiseComplete (p : Nat) (s : State) : Out := onLink s p fun s => train s p 2 3

/-- The port sends its identity flit (R284, R287): plane address, port, PROFILE, IDENT, plan digest, the bitmap of versions
(version 1 alone), the arithmetic revision. -/
def sendIdentity (s : State) (p : Nat) : State :=
  send s (.packet "IDENTITY" p
    [planeAddr s, p, profileOf s, field identity 0 8, s.planDigest.toNat, getF s Reg.LNK_ID 23 8, 1])

/-- FEC_LOCK_ACQUIRE (R283, R300): codeword alignment holds on the lanes of a mask; on every lane the port goes on to
IDENTIFY and sends its identity. -/
def execFecLockAcquire (p lanes : Nat) (s : State) : Out :=
  onLink s p fun s =>
    if pState s p ≠ 3 then s
    else
      let s := setLanes s p (lanes % 16)
      if lanes % 16 = 15 then sendIdentity (setPState s p 4 0) p else s

/-- Time limit of a training state in ns (R283). -/
def trainLimit (st : Nat) : Nat :=
  match st with | 1 => 10000000 | 2 => 100000000 | _ => 1000000

/-- TRAINING_TIMEOUT (R283, R284, R287): the limit of the present state is tested at time `t`. -/
def execTrainingTimeout (p t : Nat) (s : State) : Out :=
  onLink s p fun s =>
    let s := atTime s t
    let st := pState s p
    if 1 ≤ st && st ≤ 5 && s.ftc - (portOfLink s p).since ≥ trainLimit st then
      let dark := st = 1 && getF s (portReg Reg.LNK_PLAN_PEER p) 31 31 = 1
      let s := if dark then setF s (portReg Reg.LNK_STATUS p) 14 12 7 else s
      if st = 5 then setPState (setBit s (portReg Reg.LNK_ERR p) 3) p 7 4 else setPState s p 0 5
    else s

/-- Whether a port may train: a plan was accepted and the port is enabled (R282, R283). -/
def mayTrain (s : State) (p : Nat) : Bool :=
  getF s Reg.LNK_PROFILE 2 2 = 1 && getF s (portReg Reg.LNK_CTRL p) 0 0 = 1 && svcOf s 4 p = 0

/-- TRAINING_RETRY (R283): a port that has been DOWN for a second at time `t` trains again. -/
def execTrainingRetry (p t : Nat) (s : State) : Out :=
  onLink s p fun s =>
    let s := atTime s t
    if pState s p = 0 && mayTrain s p && s.ftc - (portOfLink s p).since ≥ 1000000000 then setPState s p 1 0 else s

/-- A write of LNK_CTRL (R300): ENABLE, and RETRAIN, which starts from DETECT, also for a MISMATCHED port. -/
def lnkCtrl (s : State) (p : Nat) (v : W32) : State :=
  let s := setReg s (portReg Reg.LNK_CTRL p) (v &&& 1)
  if pState s p = 9 then s
  else if !bitOf v.toNat 0 then (if pState s p = 0 then s else portLeaves s p 0 6)
  else if bitOf v.toNat 1 then
    let s := if pState s p = 0 then s else portLeaves s p 0 7
    if mayTrain s p then setPState s p 1 0 else s
  else s

/-- RETRAIN (R300): a write of LNK_CTRL with RETRAIN. -/
def execRetrain (a : Acc) (p : Nat) (v : BitVec 32) (s : State) : Out :=
  if p < Config.ports then regCmd s a (portReg Reg.LNK_CTRL p) fun s => lnkCtrl s p (v ||| 2) else .fault .noSuchUnit

/-- The first check of R284 that an identity fails, 0 where it passes all. -/
def identCode (s : State) (p : Nat) (i : IdentIn) : Nat :=
  let l := portOfLink s p
  let plan := getReg s (portReg Reg.LNK_PLAN_PEER p)
  if roleOf s p = 0 then 1
  else if i.plan ≠ s.planDigest then 2
  else if i.addr ≠ fld plan 13 0 then 3
  else if i.port ≠ fld plan 20 16 then 4
  else if l.ident ≠ 0 && i.ident.toNat ≠ l.ident then 5
  else if i.profile ≠ l.peerProfile then 6
  else 0

/-- What was found is kept whatever the code (R284). -/
def noteFound (s : State) (p : Nat) (i : IdentIn) : State :=
  let s := setReg s (portReg Reg.LNK_FOUND_PEER p) (BitVec.ofNat 32 (i.addr % 16384 + 65536 * (i.port % 32) + 2 ^ 31))
  let s := setReg s (portReg Reg.LNK_PEER_INFO p)
    (BitVec.ofNat 32 (i.versions % 65536 + 65536 * (i.arith % 256) + 2 ^ 24 * (i.profile % 4)))
  setReg64 s (portReg Reg.LNK_PEER_IDENT p) i.ident.toNat

/-- A swap event (R285): port `p` and another have each found the peer that the other one expected. -/
def noteSwap (s : State) (p : Nat) : State :=
  let found := fun q => getReg s (portReg Reg.LNK_FOUND_PEER q)
  let plan := fun q => getReg s (portReg Reg.LNK_PLAN_PEER q)
  let same := fun a b => fld (found a) 31 31 = 1 && fld (plan b) 31 31 = 1 && fld (found a) 20 0 = fld (plan b) 20 0
  match (List.range Config.ports).find? fun q => q ≠ p && same p q && same q p with
  | none => s
  | some q =>
    let v := Nat.min p q + 32 * Nat.max p q + 2 ^ 31
    send (setReg s Reg.LNK_SWAP (BitVec.ofNat 32 v)) (.packet "SWAP_EVENT" 0 [Nat.min p q, Nat.max p q])

/-- The FTC parent: the lowest UP port whose peer may be it (R296). -/
def pickParent (s : State) : State :=
  if getF s Reg.FTC_STATUS 3 3 = 1 || ftcFrozen s then s
  else match (List.range Config.ports).find? fun p => pState s p = 6 && mayParent s p with
    | some p => setF (setF s Reg.FTC_STATUS 8 4 p) Reg.FTC_STATUS 9 9 1
    | none => setF s Reg.FTC_STATUS 9 9 0

/-- NEGOTIATE (R287): the highest common Irram version, of which CQ1 has version 1 alone. A port that comes UP may be the new
FTC parent (R296). -/
def negotiate (s : State) (p versions : Nat) : State :=
  if bitOf versions 1 then pickParent (portUp (setF s (portReg Reg.LNK_STATUS p) 11 8 1) p) else setPState s p 5 0

/-- IDENTITY_FLIT_RECEIVE (R284 to R287, R299): the identity is checked against the plan; the owner's ACCEPT_FOUND overrides
every code but 2 and 5, also at a port that is MISMATCHED already, where the other end accepts what it has found
(`accepted`). A quarantined port keeps what it finds. -/
def identIn (s : State) (p : Nat) (i : IdentIn) (accepted : Bool) : State :=
  let st := pState s p
  if st ≠ 4 && st ≠ 7 && st ≠ 8 then s
  else
    let s := noteFound s p i
    if st = 7 then s
    else
      let code := identCode s p i
      let s := setF s (portReg Reg.LNK_STATUS p) 14 12 code
      let s := if st = 4 && code ≠ 0 then noteSwap s p else s
      if st = 4 && code = 0 then negotiate (setF s (portReg Reg.LNK_STATUS p) 15 15 0) p i.versions
      else if code ≠ 2 && code ≠ 5 && getF s (portReg Reg.LNK_STATUS p) 16 16 = 1 && accepted then
        negotiate (setF s (portReg Reg.LNK_STATUS p) 15 15 1) p i.versions
      else if st = 8 then s
      else setPState (setBit s (portReg Reg.LNK_ERR p) 2) p 8 code

/-- The owner sets ACCEPT_FOUND (R286): a port that is MISMATCHED tells its peer by its identity, and comes up when the peer
accepts as well (R299). -/
def acceptPort (s : State) (p : Nat) : State :=
  let s := setBit s (portReg Reg.LNK_STATUS p) 16
  if pState s p = 8 then sendIdentity s p else s

/-- IDENTITY_FLIT_RECEIVE. -/
def execIdentityFlitReceive (p : Nat) (i : IdentIn) (accepted : Bool) (s : State) : Out :=
  onLink s p fun s => identIn s p i accepted

/-! ### Recalibration and lane sparing (R292, R424) -/

/-- When the burst of a lane became due: now, where it was not yet. -/
def calSince (s : State) (p lane : Nat) : Nat :=
  match (portOfLink s p).calDue with
  | some (k, t) => if k = lane then t else s.ftc
  | none => s.ftc

/-- Whether the last UP port to a peer need wait no longer for its burst (R292): it has been idle for 10 µs, or the burst has
been due for 100 ms. -/
def calFree (s : State) (p lane : Nat) : Bool :=
  10000 ≤ s.ftc - (portOfLink s p).use || 100000000 ≤ s.ftc - calSince s p lane

/-- LINK_RECAL_BURST (R292): the margin of a lane at time `t`; below 10 % the port is taken out for a burst, but the last UP
port to a peer waits, and while a handover is in progress the burst waits (R299). -/
def recal (s : State) (p lane margin t : Nat) : State :=
  let s := setF (atTime s t) (portReg Reg.LNK_LANE_MARGIN p) (8 * lane + 7) (8 * lane) margin
  if pState s p ≠ 6 then s
  else if margin ≥ 10 then
    onPort s p fun l => { l with calDue := l.calDue.filter fun d => d.1 ≠ lane }
  else
    let peer := (peerOf s p).getD 0
    if !(unsettled s peer).isEmpty || ((upPorts s peer).length ≤ 1 && !calFree s p lane) then
      onPort s p fun l => { l with calDue := some (lane, calSince s p lane) }
    else
      let s := setF (bumpF s (portReg Reg.LNK_CAL p) 15 0 1) (portReg Reg.LNK_CAL p) 16 16 1
      moveQueue (onPort (setPState s p 10 0) p fun l => { l with calDue := none }) p

/-- LINK_RECAL_BURST. -/
def execLinkRecalBurst (p lane margin t : Nat) (s : State) : Out :=
  onLink s p fun s => if lane < 4 && margin ≤ 100 then recal s p lane margin t else s

/-- RECALIBRATION_BURST_END (R292): the port's traffic returns to it. -/
def execRecalibrationBurstEnd (p : Nat) (s : State) : Out :=
  onLink s p fun s =>
    if pState s p = 10 then setPState (setF s (portReg Reg.LNK_CAL p) 16 16 0) p 6 0 else s

/-- LANE_SPARE (R424): both engines switch the lane and the port trains from EQUALISE, or the port goes DOWN; `peerFree`
tells whether the peer's engine has a free spare. -/
def laneSpare (s : State) (p lane : Nat) (peerFree : Bool) : State :=
  if pState s p ≠ 6 && pState s p ≠ 10 then s
  else if peerFree && !s.spares.contains (p / 2) then
    let s := portLeaves { s with spares := s.spares ++ [p / 2] } p 2 8
    raise s 0 0x04 5 none (9 * (p / 2) + 4 * (p % 2) + lane) (Config.sparedState.toNat + 256 * (Config.causeCode 8).toNat)
  else laneLeaves s p lane 9

/-- LANE_SPARE. -/
def execLaneSpare (p lane : Nat) (peerFree : Bool) (s : State) : Out :=
  onLink s p fun s => if lane < 4 then laneSpare s p lane peerFree else s

/-! ### The route window (R289, R301) -/

/-- Whether a link joins the ends of an axis that is open for a context (R294). -/
def endLink (s : State) (c a b : Nat) : Bool :=
  let x := coords a
  let y := coords b
  [(2, 3, getF s Reg.LNK_ADDR 20 16), (3, 2, getF s Reg.LNK_ADDR 25 21)].any fun i =>
    let m := x.getD i.1 0
    let n := y.getD i.1 0
    !wrapAxis s c i.1 && 1 < i.2.2 && x.getD i.2.1 0 = y.getD i.2.1 0 && Nat.min m n = 0 && Nat.max m n = i.2.2

/-- Whether a path slot of an entry may be stored (R282, R289, R294): a member of the sett, or a global port of the package
from which the plan's routes keep their bounds, and which joins no ends of an open axis. -/
def slotOk (s : State) (c sett : Nat) (x : Nat × Bool × Bool) : Bool :=
  !x.2.2 || if x.2.1 then x.1 < 16 && x.1 ≠ planeAddr s % 16
    else roleOf s x.1 = 4 && match s.plan, peerOf s x.1 with
      | some pl, some a =>
        !endLink s c (planeAddr s) a && match pl.way (a / 16) sett with
          | some (h, d) => withinBounds (h + 1) (d + (portOfLink s x.1).len)
          | none => false
      | _, _ => true

/-- Whether the Owl lets an entry be stored (R289): GHOPS is at most 12, and every slot in use is fit. -/
def routeOk (s : State) (c sett : Nat) (w0 w1 : W32) : Bool :=
  fld w1 3 0 ≤ 12 && (List.range 4).all fun i =>
    let x := w0.toNat / 2 ^ (8 * i)
    slotOk s c sett (x % 32, bitOf x 5, bitOf x 7)

/-- A write of LNK_ROUTE_WIN. With READ and WRITE both 1 the entry is stored and then read, and an entry that the Owl does
not let pass is not stored (DESIGN CHOICE, log entries 134 and 144). -/
def routeWin (v : W32) (s : State) : State :=
  let s := setReg s Reg.LNK_ROUTE_WIN (v &&& 0x3FFF)
  let key := 2 * (1024 * fld v 3 0 + fld v 13 4)
  let s := if bitOf v.toNat 31
      && routeOk s (fld v 3 0) (fld v 13 4) (getReg s Reg.LNK_ROUTE_DATA0) (getReg s Reg.LNK_ROUTE_DATA1) then
      { s with routes := put 0 (put 0 s.routes key (getReg s Reg.LNK_ROUTE_DATA0)) (key + 1) (getReg s Reg.LNK_ROUTE_DATA1) }
    else s
  if bitOf v.toNat 30 then
    setReg (setReg s Reg.LNK_ROUTE_DATA0 (look 0 s.routes key)) Reg.LNK_ROUTE_DATA1 (look 0 s.routes (key + 1))
  else s

/-- ROUTE_WIN_READ (R301): a write of LNK_ROUTE_WIN with READ. -/
def execRouteWinRead (a : Acc) (v : BitVec 32) (s : State) : Out :=
  regCmd s a Reg.LNK_ROUTE_WIN (routeWin (v ||| 0x40000000))

/-- ROUTE_WIN_WRITE (R289): a write of LNK_ROUTE_WIN with WRITE. -/
def execRouteWinWrite (a : Acc) (v : BitVec 32) (s : State) : Out :=
  regCmd s a Reg.LNK_ROUTE_WIN (routeWin (v ||| 0x80000000))

end Sys2Proof.Machine
end

