-- ==== Sys2Proof/Machine/Fabric.lean ====
section
/-!
DEFINITION. The Fabric Time Counter (R295 to R298): exchanges with the parent, a lost parent, holdover, the reference.
-/
namespace Sys2Proof.Machine

/-- FTC_STATUS.SYNC: 0 free-running, 1 acquiring, 2 locked, 3 holdover, 4 out of bound. -/
def ftcSync (s : State) : Nat := getF s Reg.FTC_STATUS 2 0

/-- Change SYNC. -/
def setSync (s : State) (v : Nat) : State := setF s Reg.FTC_STATUS 2 0 v

/-- Whether some context of the package has a job started (R296): a nib of it runs. -/
def anyStarted (s : State) : Bool := s.nibs.any fun p => p.2.st = 2

/-- The rate is slewed toward an offset by at most 100 ppm, in units of 2⁻³² (R296). -/
def slew (s : State) (off : Int) : State :=
  let r := max (-429496) (min 429496 (Config.ftcRate off))
  setReg s Reg.FTC_RATE (BitVec.ofInt 32 r)

/-- An offset to the parent in ps has been measured (R296): the FTC steps where it may, else it slews; sixteen small
offsets in succession lock it. The FTC never runs backwards (R295). -/
def takeOffset (s : State) (off : Int) : State :=
  let s := setReg s Reg.FTC_OFFSET (BitVec.ofInt 32 off)
  let s := if !anyStarted s && off > 1000000 then
      setBit { s with ftc := s.ftc + (off / 1000).toNat } Reg.FTC_ERR 2
    else slew s off
  let s := { s with ftcGood := if off.natAbs < 500 then s.ftcGood + 1 else 0 }
  if s.ftcGood ≥ 16 then
    if ftcSync s = 2 then s
    else
      let (k, s) := takeFree s
      setReg (setSync s 2) Reg.FTC_BOUND (Config.freeWord k)
  else if ftcSync s = 2 then s else setSync s 1

/-- Whether a port leads to the FTC parent and is UP. -/
def ftcParent (s : State) (p : Nat) : Bool :=
  getF s Reg.FTC_STATUS 9 9 = 1 && getF s Reg.FTC_STATUS 8 4 = p && getF s Reg.FTC_STATUS 3 3 = 0 && pState s p = 6

/-- The offset in ps that four timestamps of 0.1 ns give, corrected by ASYM, which counts 10 ps (R282, R296). -/
def offsetOf (l : LPort) (x : Nat × Nat × Nat × Nat) : Int :=
  (((x.2.1 : Int) - x.1) - ((x.2.2.2 : Int) - x.2.2.1)) * 50 - 5 * l.asym

/-- FTC_EXCHANGE (R296): every 10 µs the child takes the offset that the last whole exchange on the parent port gives, and its
next control flit there carries a new timestamp. -/
def ftcExchange (s : State) (p : Nat) : State :=
  if !ftcParent s p then s
  else
    let l := portOfLink s p
    let s := onPort s p fun l => { l with xch := none, stampDue := true }
    match l.xch with
    | some x => takeOffset s (offsetOf l x)
    | none => s

/-- FTC_EXCHANGE. -/
def execFtcExchange (p : Nat) (s : State) : Out := onLink s p fun s => ftcExchange s p

/-- FTC_PARENT_LOST (R297): the next candidate becomes the parent, or the package enters HOLDOVER; so does one whose FTC role
is frozen (R419). -/
def parentLost (s : State) : State :=
  if getF s Reg.FTC_STATUS 3 3 = 1 || getF s Reg.FTC_STATUS 9 9 = 0 || pState s (getF s Reg.FTC_STATUS 8 4) = 6 then s
  else
    let s := pickParent { setBit s Reg.FTC_ERR 0 with ftcGood := 0 }
    if getF s Reg.FTC_STATUS 9 9 = 1 && pState s (getF s Reg.FTC_STATUS 8 4) = 6 then setSync s 1 else setSync s 3

/-- FTC_PARENT_LOST. -/
def execFtcParentLost (s : State) : Out := .next (parentLost s)

/-- FTC_HOLDOVER_TICK (R297): 20 ms of holdover raise FTC_BOUND by 1 ns; beyond 2 ns the FTC is out of bound. -/
def holdoverTick (s : State) : State :=
  if ftcSync s ≠ 3 && ftcSync s ≠ 4 then s
  else
    let b := satAdd (2 ^ 32 - 1) (getF s Reg.FTC_BOUND 31 0) 1000
    let s := setReg s Reg.FTC_BOUND (BitVec.ofNat 32 b)
    if b > 2000 then setBit (setSync s 4) Reg.FTC_ERR 1 else s

/-- FTC_HOLDOVER_TICK. -/
def execFtcHoldoverTick (s : State) : Out := .next (holdoverTick s)

/-- Whether the package is the root and follows the reference (R298). -/
def refOn (s : State) : Bool := getF s Reg.FTC_STATUS 3 3 = 1 && getF s Reg.FTC_CTRL 0 0 = 1

/-- A write of FTC_CTRL (R298, R302): the wait for an edge begins with REF_EN, and without it the root follows none. -/
def refCtrl (s : State) (v : W32) : State :=
  let old := getF s Reg.FTC_CTRL 0 0
  let s := setReg s Reg.FTC_CTRL (v &&& 1)
  if fld v 0 0 = 0 then setF s Reg.FTC_STATUS 10 10 0
  else if old = 0 then { s with refEdge := s.ftc } else s

/-- FTC_REF_EDGE (R298): the root slews so that the count is a whole second at the edge. -/
def refEdgeIn (s : State) : State :=
  if !refOn s then s
  else
    let r : Int := s.ftc % 1000000000
    let off : Int := if r < 500000000 then -r * 1000 else (1000000000 - r) * 1000
    setF (slew { s with refEdge := s.ftc } off) Reg.FTC_STATUS 10 10 1

/-- FTC_REF_EDGE. -/
def execFtcRefEdge (s : State) : Out := .next (refEdgeIn s)

/-- FTC_REF_TIMEOUT (R298): the 1.1 s without an edge are tested at time `t`. -/
def execFtcRefTimeout (t : Nat) (s : State) : Out :=
  let s := atTime s t
  .next (if refOn s && s.ftc - s.refEdge ≥ 1100000000 then setF (setBit s Reg.FTC_ERR 3) Reg.FTC_STATUS 10 10 0 else s)

/-! ### Counting (R295) -/

/-- The counter's next value while no command waits: the hub core counts 1 ns with the fraction that FTC_RATE gives; while it
is gated the keeper counts 40 ns (R295); an unpowered package counts nothing. -/
def ftcTick (s : State) : State :=
  if s.pstep = 0 then s
  else if domState s 57 = 2 then
    let x : Int := s.ftcFrac + 2 ^ 32 + (getReg s Reg.FTC_RATE).toInt
    { s with ftc := s.ftc + (x / 2 ^ 32).toNat, ftcFrac := (x % 2 ^ 32).toNat }
  else { s with ftc := s.ftc + 40 }

end Sys2Proof.Machine
end

