-- ==== Sys2Proof/Machine/Exact.lean ====
section
/-!
DEFINITION. Exact Mode, job start, seals and layer records (R327, R338 to R346).
-/
namespace Sys2Proof.Machine

/-- A command about a context. -/
def onCtxCmd (s : State) (c : Nat) (f : State → State) : Out := if c < 16 then .next (f s) else .fault .noSuchUnit

/-! ### Exact Mode (R327) -/

/-- A write of FTC_CTXc_MODE. -/
def modeWrite (c : Nat) (v : W32) (s : State) : State :=
  if (ctxOf s c).loaded then talCfg s c else setF s (perCtx Reg.FTC_CTX_MODE 0x20 c) 0 0 (fld v 0 0)

/-- EXACT_MODE_WRITE (R327). -/
def execExactModeWrite (a : Acc) (c : Nat) (v : BitVec 32) (s : State) : Out :=
  if c < 16 then regCmd s a (perCtx Reg.FTC_CTX_MODE 0x20 c) (modeWrite c v) else .fault .noSuchUnit

/-! ### Job start (R338 to R340) -/

/-- The start state of a context. -/
def startOf (s : State) (c : Nat) : Start := look Start.idle s.starts c

/-- Change it. -/
def onStart (s : State) (c : Nat) (f : Start → Start) : State :=
  { s with starts := put Start.idle s.starts c (f (startOf s c)) }

/-- FTC_CTXc_START_STATUS: STATE 0 idle, 1 armed, 2 started, 3 refused; RESULT; MEMBER. -/
def setStart (s : State) (c st res member : Nat) : State :=
  setReg s (perCtx Reg.FTC_CTX_START_STATUS 0x20 c) (BitVec.ofNat 32 (st + 16 * res + 256 * (member % 2 ^ 14)))

/-- STATE of the start. -/
def startState (s : State) (c : Nat) : Nat := getF s (perCtx Reg.FTC_CTX_START_STATUS 0x20 c) 1 0

/-- The start time T. -/
def startTime (s : State) (c : Nat) : Nat := getReg64 s (perCtx Reg.FTC_CTX_START 0x20 c)

/-- A start that is refused: the program stays loaded (R339). -/
def refuseStart (s : State) (c res member : Nat) : State := onStart (setStart s c 3 res member) c fun _ => Start.idle

/-- Whether the FTC is locked, or in holdover with FTC_BOUND of at most 2 ns. -/
def ftcLocked (s : State) : Bool :=
  getF s Reg.FTC_STATUS 2 0 = 2 || (getF s Reg.FTC_STATUS 2 0 = 3 && getF s Reg.FTC_BOUND 31 0 ≤ 2000)

/-- The package's own start record. -/
def ownStart (s : State) (c : Nat) : StartRec :=
  let x := ctxOf s c
  ⟨packageIndex s c, x.packages, leNat (x.image.take 16), exactMode s c, 1, startTime s c⟩

/-- RESULT of a record that differs from package index 0's own; 0 where they agree (R339). -/
def startDiffers (a b : StartRec) : Nat :=
  if a.exact ≠ b.exact then 3
  else if a.exact && a.rev ≠ b.rev then 4
  else if a.image ≠ b.image || a.packages ≠ b.packages || a.t ≠ b.t then 5
  else 0

/-- Package index 0's verdict goes to every other member. -/
def sendVerdict (s : State) (c : Nat) (kind : String) (body : List Nat) : State :=
  let tag := getF s (Reg.LNK_CTX_TAG + 4 * c) 15 0
  (List.range (ctxOf s c).packages).foldl (fun s p =>
    if p = packageIndex s c then s else send s (.link kind 0 (Config.packageAddr tag p) c body)) s

/-- Package index 0 sends REFUSE. -/
def refuseAll (s : State) (c res member : Nat) : State :=
  refuseStart (sendVerdict s c "REFUSE" [res, member]) c res member

/-- Package index 0 decides as soon as it can (R339). -/
def judgeStart (s : State) (c : Nat) : State :=
  let x := startOf s c
  if startState s c ≠ 1 || packageIndex s c ≠ 0 || x.judged then s
  else
    let own := ownStart s c
    match x.recs.find? fun r => startDiffers own r ≠ 0 with
    | some r => refuseAll s c (startDiffers own r) r.idx
    | none =>
      if (List.range own.packages).all fun p => p = 0 || x.recs.any fun r => r.idx = p then
        onStart (sendVerdict s c "GO" []) c fun x => { x with judged := true, go := true }
      else s

/-- The clusters of a job that have to be woken to RUNNING (R401). -/
def startClusters (s : State) (c : Nat) : List Nat :=
  ((jobNibs s c).map clusterOf).eraseDups.filter fun k => domState s (domOf k) ≠ 2

/-- What arming does (R338): the checks, the wakes, the start record. -/
def armStart (s : State) (c : Nat) : State :=
  let t := startTime s c
  if !(ctxOf s c).loaded then refuseStart s c 7 0
  else if t < s.ftc + 200000 || s.ftc + 10000000000 < t then refuseStart s c 1 0
  else if 1 < (ctxOf s c).packages && !ftcLocked s then refuseStart s c 2 0
  else
    let s := onStart (setStart s c 1 0 0) c fun x => { x with judged := false, go := false }
    let s := startWakes s (startClusters s c) 2
    if packageIndex s c = 0 then judgeStart s c
    else
      let r := ownStart s c
      send s (.link "START" 0 (getF s (perCtx Reg.FTC_CTX_LEAD 0x20 c) 13 0) c
        [r.idx, r.packages, r.image, if r.exact then 1 else 0, r.rev, r.t])

/-- START_ARM (R338): FTC_CTXc_START is written, its upper half last. -/
def execStartArm (a : Acc) (c : Nat) (v : BitVec 64) (s : State) : Out :=
  if c < 16 then
    regCmd s a (perCtx Reg.FTC_CTX_START_HI 0x20 c) fun s =>
      armStart (setReg64 s (perCtx Reg.FTC_CTX_START 0x20 c) v.toNat) c
  else .fault .noSuchUnit

/-- START_RECORD_RECEIVE (R339). -/
def execStartRecordReceive (c : Nat) (r : StartIn) (s : State) : Out :=
  onCtxCmd s c fun s =>
    let y : StartRec := ⟨r.idx, r.packages, r.image.toNat, r.exact, r.rev, r.t⟩
    judgeStart (onStart s c fun x => { x with recs := (x.recs.filter fun z => z.idx ≠ r.idx) ++ [y] }) c

/-- START_RECORD_TIMEOUT (R339): the 20 µs before T are tested at time `t`. MEMBER names the first member missing. -/
def execStartRecordTimeout (c t : Nat) (s : State) : Out :=
  onCtxCmd s c fun s =>
    let s := atTime s t
    let x := startOf s c
    if startState s c ≠ 1 || packageIndex s c ≠ 0 || x.judged || s.ftc + 20000 < startTime s c then s
    else refuseAll s c 6 (((List.range (ctxOf s c).packages).find? fun p =>
      p ≠ 0 && !(x.recs.any fun r => r.idx = p)).getD 0)

/-- GO_RECEIVE (R340). -/
def execGoReceive (c : Nat) (s : State) : Out :=
  onCtxCmd s c fun s => if startState s c = 1 then onStart s c fun x => { x with go := true } else s

/-- REFUSE_RECEIVE (R339). -/
def execRefuseReceive (c res member : Nat) (s : State) : Out :=
  onCtxCmd s c fun s => if startState s c = 1 then refuseStart s c res member else s

/-- START_VERDICT_TIMEOUT (R339): T is tested at time `t`. -/
def execStartVerdictTimeout (c t : Nat) (s : State) : Out :=
  onCtxCmd s c fun s =>
    let s := atTime s t
    if startState s c = 1 && !(startOf s c).go && startTime s c ≤ s.ftc then refuseStart s c 6 (packageIndex s c) else s

/-- Offset of a nib's first bundle from its die's job start cycle (R403). -/
def staggerOf (s : State) (c n : Nat) : Nat :=
  let r := ((ctxClusters s c).filter fun k => k / 12 = dieOf n && k < clusterOf n).length
  64 * (4 * r + n % 64 / 16)

/-- JOB_START (R340): at T the nibs of the job run, each from its offset; `delay` is by die the cycles by which a clock
stop puts the start off (R410). -/
def jobStart (s : State) (c : Nat) (delay : List Nat) : State :=
  if startState s c ≠ 1 || !(startOf s c).go || !(startClusters s c).isEmpty then s
  else
    let s := atTime s (startTime s c)
    if !(ctxOf s c).loaded then refuseStart s c 7 (packageIndex s c)
    else if 1 < (ctxOf s c).packages && !ftcLocked s && 2000 < getF s Reg.FTC_BOUND 31 0 then refuseStart s c 2 (packageIndex s c)
    else
      let s := ((jobNibs s c).filter fun n => (nibOf s n).st = 1).foldl (fun s n =>
        let d := delay.getD (dieOf n) 0
        onNib s n fun b => { b with st := 2, stagger := staggerOf s c n, cycle := d, late := d, lastIssue := s.ftc }) s
      onStart (setStart s c 2 0 0) c fun _ => Start.idle

/-- JOB_START. -/
def execJobStart (c : Nat) (delay : List Nat) (s : State) : Out := onCtxCmd s c fun s => jobStart s c delay

/-! ### Seals (R341, R342, R362) -/

/-- D_MAN of the manifest that a context holds for an epoch. -/
def manifestOf (s : State) (c epoch : Nat) : Option Manifest := s.manifests.find? fun m => m.c = c && m.epoch = epoch

/-- The 176 B record of R341. -/
def sealRecord (exact poison : Bool) (epoch : Nat) (img man din dout : List Byte) : List Byte :=
  let flags := (if exact then 1 else 0) + (if poison then 2 else 0)
  let head := natLE 1 1 ++ natLE 1 flags ++ natLE 1 1
  let all := digest "VX1-SEAL" (head ++ natLE 4 epoch ++ img ++ man ++ din ++ dout)
  head ++ natLE 1 0 ++ natLE 4 epoch ++ natLE 8 0 ++ img ++ man ++ din ++ dout ++ all

/-- SEAL (R341, R362). -/
def execSeal (c q : Nat) (s : State) : Out :=
  startCmd s c q 8 fun s x =>
    let (ia, il, oa, ol) := (x.f 0x10 8, x.f 0x18 8, x.f 0x20 8, x.f 0x28 8)
    match manifestOf s c (x.f 0x38 4) with
    | none => complete s x 1 0 0
    | some m =>
      if Config.hbmBytes < ia + il || Config.hbmBytes < oa + ol
          || !dpaOwned (il / 4096 + 2) s c ia il || !dpaOwned (ol / 4096 + 2) s c oa ol then complete s x 0x0B 0 0
      else
        let (ib, ip) := readDpa (il + 1) s ia il
        let (ob, op) := readDpa (ol + 1) s oa ol
        let bad := ip.any id || op.any id
        let rec176 := sealRecord (exactMode s c) bad m.epoch (ctxOf s c).image m.dman (digest "VX1-IN" ib) (digest "VX1-OUT" ob)
        complete { s with hostMem := writeBytes s.hostMem (x.f 0x30 8) rec176 } x (if bad then 0x0C else 0) 0 0

/-! ### Layer records (R345) -/

/-- What a nib has completed of a layer in a pass. -/
def layerPart (b : Nib) (pass layer : Nat) : Option SealDone :=
  b.sealT.done.find? fun d => d.pass = pass && d.layer = layer

/-- The 64 B layer record. -/
def layerRecord (layer pass : Nat) (ds : List SealDone) : List Byte :=
  natLE 1 1 ++ natLE 1 (if ds.any (·.poison) then 1 else 0) ++ natLE 2 layer ++ natLE 4 pass
    ++ natLE 4 (ds.map (·.tiles)).sum ++ List.replicate 20 0 ++ natLE 32 ((ds.map (·.sum)).sum % 2 ^ 256)

/-- LAYER_RECORD_WRITE (R345): once every nib that absorbs tiles has completed the layer in the pass. A context that halts
writes none (R346). -/
def layerWrite (s : State) (c pass layer : Nat) : State :=
  let x := ctxOf s c
  match x.plan with
  | none => s
  | some p =>
    let nibs := (List.range x.spanNibs).filter fun i => absorbs p i
    let ds := nibs.filterMap fun i => (nibOfIndex s c i).bind fun n => layerPart (nibOf s n) pass layer
    if x.halting || x.layerDone.contains (pass, layer) || p.layers.length ≤ layer || nibs.isEmpty || ds.length ≠ nibs.length then s
    else
      let k := (pass * p.layers.length + layer) % 2 ^ getF s (Reg.SEC_SEAL_LOGCFG + 0x40 * c) 4 0
      let a := getReg64 s (Reg.SEC_SEAL_LOG + 0x40 * c) + 64 * k
      let s := writeDpa s a (layerRecord layer pass ds) [false] false
      onCtx s c fun x => { x with layerDone := x.layerDone ++ [(pass, layer)] }

/-- LAYER_RECORD_WRITE. -/
def execLayerRecordWrite (c pass layer : Nat) (s : State) : Out := onCtxCmd s c fun s => layerWrite s c pass layer

end Sys2Proof.Machine
end

