-- ==== Sys2Proof/Machine/Records.lean ====
section
/-!
DEFINITION. Signed records (R375 to R379), the boot flash, the replay-protected area (R383 to R385), the trust list.
-/
namespace Sys2Proof.Machine

/-! ### Records (R375) -/

/-- Bytes of header and trailer. -/
def recHead : Nat := 64
/-- Bytes of the trailer. -/
def recTail : Nat := 3136

/-- Fields of a record header, and its body, key and signature. -/
structure Rec where
  magic : Nat
  version : Nat
  ty : Nat
  svn : Nat
  flags : Nat
  size : Nat
  ident : List Byte
  head : List Byte
  body : List Byte
  key : List Byte
  sig : List Byte
deriving DecidableEq, Repr

/-- A record from bytes. -/
def recOf (bs : List Byte) : Rec :=
  let n := field bs 0x10 4
  let t := bs.drop (recHead + n)
  { magic := field bs 0 4, version := field bs 4 2, ty := field bs 6 2, svn := field bs 8 4, flags := field bs 0x0C 4
    size := n, ident := (bs.drop 0x20).take 32, head := bs.take recHead, body := (bs.drop recHead).take n
    key := t.take 1793, sig := (t.drop 1856).take 1280 }

/-- Bytes that a record takes. -/
def Rec.total (r : Rec) : Nat := recHead + r.size + if r.ty = 6 then 0 else recTail

/-- AUTO_FLOOR. -/
def Rec.auto (r : Rec) : Bool := bitOf r.flags 0
/-- BOUND. -/
def Rec.bound (r : Rec) : Bool := bitOf r.flags 1

/-- Whether the type of R377 is bound. -/
def boundType (ty : Nat) : Bool := ty = 3 || ty = 4 || ty = 5 || ty = 7 || ty = 0x10 || ty = 0x11

/-- Whether a body has the size that its type requires (R377, R386, R388, R394). -/
def bodyOk (r : Rec) : Bool :=
  r.size % 64 = 0 && match r.ty with
    | 1 => true
    | 2 => true
    | 3 => r.size = 64 && field r.body 0 1 ≤ 1
    | 4 => r.size = 3072
    | 5 => true
    | 6 => 64 ≤ r.size
    | 7 => r.size = 1920
    | 8 => r.size = 128
    | 9 => true
    | 10 => field r.body 0 4 ≤ 256 && r.size = 64 + 64 * field r.body 0 4
    | 0x10 => r.size = 128
    | 0x11 => r.size = 576
    | 0x20 => 1 ≤ field r.body 4 4 && field r.body 4 4 ≤ 524288 && r.size = 64 + 64 * field r.body 4 4
    | _ => false

/-- MAGIC, VERSION, size, and the bytes there are (R376). -/
def formOk (r : Rec) (n : Nat) : Bool := r.magic = 0x43525856 && r.version = 1 && bodyOk r && r.total ≤ n

/-- Whether the signature verifies (R376). -/
def sigOk (r : Rec) : Bool := falconVerify r.key (shake256 (ascii "VX1-SIG" ++ r.head ++ r.body) 64) r.sig

/-- Whether a bound record names this package; a type that R377 binds is bound. -/
def identOk (r : Rec) : Bool := if r.bound then r.ident = identity else !boundType r.ty

/-- D_REC (R376). -/
def recDigest (r : Rec) : List Byte := digest "VX1-REC" (r.head ++ r.body)

/-- A record with its header and trailer (R375), signed with the identity key. -/
def signedRec (k ty svn flags : Nat) (body : List Byte) : List Byte :=
  let head := natLE 4 0x43525856 ++ natLE 2 1 ++ natLE 2 ty ++ natLE 4 svn ++ natLE 4 flags ++ natLE 4 body.length
    ++ List.replicate 12 0 ++ identity
  let sig := Config.sign k (shake256 (ascii "VX1-SIG" ++ head ++ body) 64)
  head ++ body ++ (Config.identityKey ++ List.replicate 1856 0).take 1856 ++ (sig ++ List.replicate 1280 0).take 1280

/-! ### The replay-protected area (R383 to R385) -/

/-- The copy in use: its MAC verifies, its counter does not exceed the flash's and is the higher. -/
def rpBest (s : State) : Option RpCopy :=
  (s.rp.filter fun x => x.ok && x.counter ≤ s.rpCount).foldl (fun b x => match b with
    | none => some x
    | some y => if y.counter < x.counter then some x else some y) none

/-- The owner key digest; none while unclaimed. -/
def ownerOf' (s : State) : List Byte := match rpBest s with | some x => x.owner | none => []

/-- Whether the package is claimed (R385). -/
def claimed (s : State) : Bool := !(ownerOf' s).isEmpty

/-- The floor of a type 1 to 10. -/
def floorOf (s : State) (ty : Nat) : Nat := match rpBest s with | some x => x.floors.getD (ty - 1) 0 | none => 0

/-- SEC_OWNER and SEC_FLOOR show the area (R385, R397). -/
def showRp (s : State) : State :=
  let o := ownerOf' s
  let s := (List.range 8).foldl (fun s w => setReg s (Reg.SEC_OWNER + 4 * w) (BitVec.ofNat 32 (field o (4 * w) 4))) s
  let s := (List.range 10).foldl (fun s i => setReg s (Reg.SEC_FLOOR + 4 * i) (BitVec.ofNat 32 (floorOf s (i + 1)))) s
  setF s Reg.SEC_BOOT_STATUS 3 3 (if claimed s then 0 else 1)

/-- A write of the area (R383): the flash counter rises, and the older copy is written. -/
def rpWrite (s : State) (owner : List Byte) (floors : List Nat) : State :=
  let n := s.rpCount + 1
  let new : RpCopy := ⟨n, owner, floors, true⟩
  let keep := match rpBest s with | some x => [x] | none => []
  showRp { s with rpCount := n, rp := keep ++ [new] }

/-! ### The flash (R377, R379) -/

/-- A directory entry of the flash: type, slot, offset, size. -/
structure FlashEnt where
  ty : Nat
  slot : Nat
  off : Nat
  size : Nat
deriving DecidableEq, Repr

/-- The entries in use of the flash directory: 128 of 32 B; TYPE 0 and TYPE 0xFFFF mark an unused one. -/
def flashDir (s : State) : List FlashEnt :=
  ((List.range 128).map fun i =>
    let bs := readBytes s.flash (32 * i) 32
    (⟨field bs 0 2, field bs 2 1, field bs 3 4, field bs 7 4⟩ : FlashEnt)).filter fun e => e.ty ≠ 0 && e.ty ≠ 0xFFFF

/-- Whether a directory is consistent (R380): types and slots of R377, none twice. -/
def flashDirOk (d : List FlashEnt) : Bool :=
  d.all (fun e => 1 ≤ e.ty && e.ty ≤ 10 && (e.slot ≤ 1 || (e.slot = 2 && e.ty = 4)) && 4096 ≤ e.off)
    && (d.map fun e => (e.ty, e.slot)).eraseDups.length = d.length

/-- The directory entry of a slot. -/
def slotOf (s : State) (ty slot : Nat) : Option FlashEnt := (flashDir s).find? fun e => e.ty = ty && e.slot = slot

/-- The bytes of a slot. -/
def slotBytes (s : State) (ty slot : Nat) : List Byte :=
  match slotOf s ty slot with
  | some e =>
    let r := recOf (readBytes s.flash e.off 64)
    readBytes s.flash e.off (Nat.min e.size r.total)
  | none => []

/-- Anchors of a type in a slot (R377): the owner's for types 8 to 10. -/
def anchorOf (s : State) (ty slot : Nat) : List Byte :=
  match ty with
  | 1 => Config.anchorFK
  | 2 => Config.anchorFK
  | 4 => if slot = 2 then Config.anchorMK else identity
  | 8 => ownerOf' s
  | 9 => ownerOf' s
  | 10 => ownerOf' s
  | _ => Config.anchorMK

/-- Whether the record of a slot is valid (R376, R379): PUF_HELPER has no signature, and slot F no floor. -/
def slotValid (s : State) (ty slot : Nat) : Bool :=
  let bs := slotBytes s ty slot
  let r := recOf bs
  r.ty = ty && formOk r bs.length && identOk r
    && (ty = 6 || (sigOk r && keyDigest r.key = anchorOf s ty slot))
    && (slot = 2 || floorOf s ty ≤ r.svn)

/-- The slot whose record is taken (R379): the valid one of A and B with the higher SVN, A where they are equal; for
REPAIR else slot F. -/
def pickSlot (s : State) (ty : Nat) : Option Nat :=
  let svn := fun k => (recOf (slotBytes s ty k)).svn
  let a := slotValid s ty 0
  let b := slotValid s ty 1
  if a && (!b || svn 1 ≤ svn 0) then some 0
  else if b then some 1
  else if ty = 4 && slotValid s 4 2 then some 2
  else none

/-- A record is taken into force: SEC_SVN shows it. -/
def takeRec (s : State) (ty slot : Nat) : State :=
  let r := recOf (slotBytes s ty slot)
  let s := { s with running := (s.running.filter fun x => x.ty ≠ ty) ++ [⟨ty, slot, r.svn, r.auto, recDigest r, r.body⟩] }
  setReg s (Reg.SEC_SVN + 4 * (ty - 1)) (BitVec.ofNat 32 r.svn)

/-- The record of a type in force. -/
def runOf (s : State) (ty : Nat) : Option RunRec := s.running.find? fun x => x.ty = ty

/-- Body of the record of a type in force. -/
def runBody (s : State) (ty : Nat) : List Byte := match runOf s ty with | some x => x.body | none => []

/-! ### Trust list (R377, R387) -/

/-- The entry of the trust list for a key: CONTEXTS and MIN_SVN. -/
def trustOf (s : State) (key : List Byte) : Option (Nat × Nat) :=
  let b := runBody s 10
  let d := keyDigest key
  ((List.range (field b 0 4)).map fun i => (b.drop (64 + 64 * i)).take 64).findSome? fun e =>
    if e.take 32 = d then some (field e 0x20 2, field e 0x24 4) else none

/-! ### Writing a record (R392, R428) -/

/-- The code with which a record to be written is refused; 0 for none (R392, R393). -/
def recordCode (s : State) (bs : List Byte) : Nat :=
  let r := recOf bs
  if !formOk r bs.length || 10 < r.ty || 4 ≤ r.flags then 5
  else if r.ty = 6 then 2
  else if !sigOk r then 1
  else if keyDigest r.key ≠ anchorOf s r.ty 0 then 2
  else if r.svn < floorOf s r.ty then 3
  else if !identOk r then 4
  else 0

/-- The slot that is not in force. -/
def freeSlot (s : State) (ty : Nat) : Nat :=
  match runOf s ty with | some x => if x.slot = 0 then 1 else 0 | none => 0

/-- Writes a valid record into the slot not in force; none where the flash has no room for it. -/
def writeRecord (s : State) (bs : List Byte) : Option (Nat × State) :=
  let r := recOf bs
  let k := freeSlot s r.ty
  match slotOf s r.ty k with
  | some e => if r.total ≤ e.size then some (k, { s with flash := writeBytes s.flash e.off (bs.take r.total) }) else none
  | none => none

/-! ### Nonces (R386) -/

/-- SEC_NONCE takes a fresh random value. -/
def newNonce (s : State) : State :=
  let (k, s) := takeFree s
  let v := (Config.freshRandom k).toNat
  (List.range 8).foldl (fun s w => setReg s (Reg.SEC_NONCE + 4 * w) (BitVec.ofNat 32 (v / 2 ^ (32 * w)))) s

/-- The nonce as bytes. -/
def nonceBytes (s : State) : List Byte :=
  ((List.range 8).map fun w => natLE 4 (getReg s (Reg.SEC_NONCE + 4 * w)).toNat).flatten

end Sys2Proof.Machine
end

