-- ==== Sys2Proof/Machine/Security.lean ====
section
/-!
DEFINITION. Commands of the security engine (R384 to R395): manifests, verification of blocks, attestation, records, the
owner's commands, and the same requests over MCTP.
-/
namespace Sys2Proof.Machine

/-! ### Refusals (R393) -/

/-- SEC_ERR and SEC_ERR_INFO of a refusal. -/
def secRefuse (s : State) (c bit code x : Nat) : State :=
  let s := if bit < 7 then setBit s Reg.SEC_ERR bit else s
  let s := if code = 0x0B then setBit s Reg.SEC_ERR 5 else s
  let s := setF (setF s Reg.SEC_ERR_INFO 26 19 code) Reg.SEC_ERR_INFO 30 27 c
  if code = 8 || code = 9 then setF s Reg.SEC_ERR_INFO 18 0 x else s

/-- A command of R392 completes REJECTED. -/
def secReject (s : State) (x : AvCmd) (bit code d : Nat) : State :=
  complete (secRefuse s x.c bit code d) x 7 (code + if code = 8 || code = 9 then 256 * d else 0) 0

/-- Whether a command is on a queue of context 0 bound to H0. -/
def ownerQueue (s : State) (x : AvCmd) : Bool := x.c = 0 && portOf s 0 = 0

/-! ### Manifests (R387 to R389, R391) -/

/-- An entry of a manifest (R388). -/
structure ManEntry where
  x : Nat
  comp : Nat
  home : Nat
  flags : Nat
  pos : Nat
  slab : Nat
  digest : List Byte
deriving DecidableEq, Repr

/-- Entry `i` of a manifest body. -/
def manEntry (body : List Byte) (i : Nat) : ManEntry :=
  let e := (body.drop (64 + 64 * i)).take 64
  ⟨field e 0 4, field e 4 4, field e 8 1, field e 9 1, field e 0x0C 4, field e 0x10 4, (e.drop 0x20).take 32⟩

/-- Entries of a manifest body. -/
def manEntries (body : List Byte) : List ManEntry := (List.range (field body 4 4)).map (manEntry body)

/-- Whether the entries satisfy R388. -/
def manOk (body : List Byte) : Bool :=
  let es := manEntries body
  es.all (fun e => e.x ≤ 524287 && (e.flags = 0 || e.flags = 2 || e.flags = 4 || e.flags = 6))
    && (es.map (·.x)).eraseDups.length = es.length

/-- D_MAN (R388). -/
def manDigest (r : Rec) : List Byte := digest "VX1-MAN" (r.head ++ r.body ++ keyDigest r.key)

/-- The code with which MANIFEST_LOAD refuses a record; 0 for none. -/
def manCode (s : State) (c : Nat) (bs : List Byte) : Nat :=
  let r := recOf bs
  if r.ty ≠ 0x20 || !formOk r bs.length || !manOk r.body then 5
  else if !sigOk r then 1
  else match trustOf s r.key with
    | none => 2
    | some (ctxs, minSvn) =>
      if !ctxs.testBit c then 2
      else if r.svn < minSvn then 3
      else if !identOk r then 4
      else match manifestOf s c (field r.body 0 4) with
        | some m => if m.dman = manDigest r then 0 else 7
        | none => if (s.manifests.filter fun m => m.c = c).length ≥ 8 then 7 else 0

/-- MANIFEST_LOAD (R389). -/
def execManifestLoad (c q : Nat) (s : State) : Out :=
  startCmd s c q 0x20 fun s x =>
    let (a, n) := (x.f 0x10 8, x.f 0x18 8)
    if Config.hbmBytes < a + n || !dpaOwned (n / 4096 + 2) s c a n then complete s x 0x0B 0 0
    else
      let bs := (readDpa (n + 1) s a n).1
      let code := manCode s c bs
      if code ≠ 0 then secReject s x 2 code 0
      else
        let r := recOf bs
        let epoch := field r.body 0 4
        if (manifestOf s c epoch).isSome then complete s x 0 epoch 0
        else
          let s := lockRange s (.manifest c epoch) a r.total
          complete { s with manifests := s.manifests ++ [⟨c, epoch, a, r.total, manDigest r⟩] } x 0 epoch 0

/-- RELEASE_MANIFEST (R389). -/
def execReleaseManifest (c q : Nat) (s : State) : Out :=
  startCmd s c q 0x26 fun s x =>
    let epoch := x.f 0x10 4
    match manifestOf s c epoch with
    | none => secReject s x 2 0x0A 0
    | some _ =>
      complete { s with manifests := s.manifests.filter fun m => !(m.c = c && m.epoch = epoch)
                        locks := s.locks.filter fun p => p.1 ≠ .manifest c epoch } x 0 0 0

/-! ### Verification of blocks (R390, R391) -/

/-- Positions that process an entry: its home, and its mirror holder. -/
def holdersOf (s : State) (e : DirEntry) : List Nat :=
  if mirrored s && !residentRib s then [e.home, (e.home + 2) % Nat.max 1 (ribN s)].eraseDups else [e.home]

/-- Whether VERIFY_BLOCKS is permitted (R390): FORMED or later and not FAILED, or resident mode. -/
def verifyState (s : State) (c : Nat) : Bool :=
  (1 ≤ ribState s && ribState s ≤ 5) || ((ctxOf s c).loaded && (ctxOf s c).resident)

/-- The entries of a range and set that this member processes. -/
def verifyList (s : State) (first count set : Nat) : List Nat :=
  (setEntries s set).filter fun x => first ≤ x && x < first + count && (holdersOf s (dirEntry s x)).contains (ribPos s)

/-- A run that has no entry left completes. -/
def verifyEnd (s : State) (v : VerifyRun) : State :=
  if !v.todo.isEmpty then { s with verifies := s.verifies.map fun w => if w.no = v.no then v else w }
  else
    let s := { s with verifies := s.verifies.filter fun w => w.no ≠ v.no }
    match s.cmds.find? fun y => y.no = v.no with
    | none => s
    | some y => match v.fail with
      | some (code, x) => secReject s y 1 code x
      | none => complete s y 0 v.passed 0

/-- VERIFY_BLOCKS (R390): the run begins. -/
def execVerifyBlocks (c q : Nat) (s : State) : Out :=
  startCmd s c q 0x21 fun s x =>
    let (first, count, set) := (x.f 0x10 4, x.f 0x14 4, x.f 0x18 1)
    if !verifyState s c then secReject s x 1 7 0
    else if 1 < set || Config.dirEntries < first + count then secReject s x 1 5 0
    else
      let v : VerifyRun := ⟨x.no, c, verifyList s first count set, 0, none⟩
      verifyEnd { s with verifies := s.verifies ++ [v] } v

/-- The manifest entry of a directory entry. -/
def manFor (s : State) (c x : Nat) : Option ManEntry :=
  match manifestOf s c (dirEntry s x).epoch with
  | none => none
  | some m =>
    let body := (recOf (readDpa (m.size + 1) s m.dpa m.size).1).body
    (manEntries body).find? fun e => e.x = x

/-- The code with which an entry fails; 0 where it passes (R390). -/
def blockCode (s : State) (c x : Nat) : Nat :=
  let e := dirEntry s x
  if (manifestOf s c e.epoch).isNone then 0x0A
  else match manFor s c x with
    | none => 8
    | some m =>
      let bs := (readDpa (64 + e.comp + 1) s e.addr (64 + e.comp)).1
      if m.comp ≠ e.comp || m.home ≠ e.home || m.flags ≠ e.flags &&& 6 || m.pos ≠ e.pos || m.slab ≠ e.slab
          || !hdrMatches x e bs then 8
      else if digest "VX1-BLK" bs ≠ m.digest then 9
      else 0

/-- Bytes 0x00 to 0x1B of an entry, with VERIFIED clear. -/
def noticeBytes (s : State) (x : Nat) : List Byte :=
  let bs := (entryBytes s x).take 0x1C
  bs.take 0x0D ++ [(bs.getD 0x0D 0) &&& 0xF7] ++ bs.drop 0x0E

/-- A holder has vouched for an entry; it gains VERIFIED once every holder has (R390). -/
def vouch (s : State) (x pos : Nat) : State :=
  let s := if s.notices.contains (x, pos) then s else { s with notices := s.notices ++ [(x, pos)] }
  let e := dirEntry s x
  if e.valid && !e.verified && (holdersOf s e).all fun p => s.notices.contains (x, p) then
    shadowChange s (setEntryFlags s x (e.flags + 8))
  else s

/-- An entry has passed at this member. -/
def blockPass (s : State) (c x : Nat) : State :=
  if (ctxOf s c).loaded && (ctxOf s c).resident then setEntryFlags s x ((dirEntry s x).flags ||| 8)
  else
    let body := noticeBytes s x
    let s := vouch s x (ribPos s)
    if ribN s ≤ 1 then s else ribSend s "NOTICE" false ((ribPos s) :: body.map (·.toNat))

/-- An entry has failed: its locks are released, and it is counted. -/
def blockFail (s : State) (c code x : Nat) : State :=
  secRefuse (bumpF (unlockEntry s x) Reg.SEC_VERIFY_FAIL 31 0 1) c 1 code x

/-- BLOCK_HASH_COMPLETE (R390, R391): the next entry of command `no` has been locked, read and hashed. -/
def blockHash (s : State) (no : Nat) : State :=
  match s.verifies.find? fun v => v.no = no with
  | none => s
  | some v =>
    match v.todo with
    | [] => verifyEnd s v
    | x :: rest =>
      let e := dirEntry s x
      let v := { v with todo := rest }
      if !e.valid then verifyEnd s v
      else
        let s := if s.locks.any fun p => p.1 = .entry x then s else lockRange s (.entry x) e.addr (64 + e.comp)
        let code := blockCode s v.c x
        if code = 0 then verifyEnd (blockPass s v.c x) { v with passed := v.passed + 1 }
        else verifyEnd (blockFail s v.c code x) { v with fail := if v.fail.isSome then v.fail else some (code, x) }

/-- BLOCK_HASH_COMPLETE. -/
def execBlockHashComplete (no : Nat) (s : State) : Out := .next (blockHash s no)

/-- VERIFY_NOTICE_RECEIVE (R390): a notice of the member at `pos`; it goes on around the ring. -/
def noticeIn (s : State) (pos : Nat) (body : List Byte) : State :=
  if ribState s = 0 || pos = ribPos s then s
  else
    let s := match (dirIndices s).find? fun x => (dirEntry s x).valid && noticeBytes s x = body with
      | some x => vouch s x pos
      | none => s
    if ribNext s (ribPos s) false = pos then s else ribSend s "NOTICE" false (pos :: body.map (·.toNat))

/-- VERIFY_NOTICE_RECEIVE. -/
def execVerifyNoticeReceive (pos : Nat) (body : List (BitVec 8)) (s : State) : Out := .next (noticeIn s pos body)

/-- BLOCK_DIGEST (R391, R392). -/
def execBlockDigest (c q : Nat) (s : State) : Out :=
  startCmd s c q 0x25 fun s x =>
    let (first, count) := (x.f 0x10 4, x.f 0x14 4)
    if Config.dirEntries < first + count then secReject s x 7 5 0
    else
      let es := (dirIndices s).mergeSort.filter fun y =>
        first ≤ y && y < first + count && (dirEntry s y).valid && (dirEntry s y).home = ribPos s
      let ds := (es.map fun y => digest "VX1-BLK" (readDpa (64 + (dirEntry s y).comp + 1) s (dirEntry s y).addr
        (64 + (dirEntry s y).comp)).1).flatten
      complete { s with hostMem := writeBytes s.hostMem (x.f 0x18 8) ds } x 0 es.length 0

/-! ### Attestation (R394, R395) -/

/-- D_REC of the record of a type in force; zero if absent. -/
def runDigest (s : State) (ty : Nat) : List Byte := match runOf s ty with | some x => x.drec | none => List.replicate 32 0

/-- D_MAN of the epoch of a set, or zero. -/
def setMan (s : State) (c set : Nat) : List Byte :=
  match manifestOf s c (getReg s (Reg.RIB_EPOCH_A + 4 * set)).toNat with
  | some m => m.dman
  | none => List.replicate 32 0

/-- Zero bytes. -/
def zeros (n : Nat) : List Byte := List.replicate n 0

/-- The body of an attestation report (R394). -/
def reportBody (s : State) (c : Nat) (nonce : List Byte) : List Byte :=
  let x := ctxOf s c
  let b := fun (p : Bool) n => if p then 2 ^ n else 0
  let st := getReg s Reg.SEC_BOOT_STATUS
  let flags := b (bitOf st.toNat 4) 0 + b (exactMode s c) 1 + b x.loaded 2 + b (!claimed s) 3 + b (fld st 2 0 = 7) 4
  natLE 2 flags ++ natLE 1 c ++ natLE 1 (field (runBody s 3) 0 1)
    ++ natLE 1 (if x.loaded then 1 else 0) ++ natLE 1 (if x.loaded then x.geom else 0) ++ natLE 2 0
    ++ natLE 8 s.ftc ++ natLE 4 (getReg s Reg.RIB_EPOCH_A).toNat ++ natLE 4 (getReg s Reg.RIB_EPOCH_B).toNat
    ++ natLE 1 (activeSet s) ++ zeros 7 ++ nonce ++ identity
    ++ runDigest s 1 ++ runDigest s 2 ++ runDigest s 8 ++ runDigest s 9 ++ runDigest s 10 ++ runDigest s 4
    ++ (if x.loaded then x.image else zeros 32) ++ setMan s c 0 ++ setMan s c 1
    ++ ((List.range 10).map fun i => natLE 4 (match runOf s (i + 1) with | some r => r.svn | none => 0)).flatten
    ++ zeros 24
    ++ ((List.range 10).map fun i => natLE 4 (floorOf s (i + 1))).flatten ++ zeros 24
    ++ (ownerOf' s ++ zeros 32).take 32 ++ zeros 32

/-- A signed report, and the state after the signature (R394). -/
def report (s : State) (c : Nat) (nonce : List Byte) : List Byte × State :=
  let (k, s) := takeFree s
  (signedRec k 0x11 0 2 (reportBody s c nonce), s)

/-- ATTEST (R394). -/
def execAttest (c q : Nat) (s : State) : Out :=
  startCmd s c q 0x22 fun s x =>
    if 16 ≤ x.f 0x18 1 then secReject s x 7 5 0
    else
      let (r, s) := report s (x.f 0x18 1) ((x.raw.drop 0x20).take 32)
      complete { s with hostMem := writeBytes s.hostMem (x.f 0x10 8) r } x 0 0 0

/-! ### Records (R392) -/

/-- RECORD_WRITE (R392). -/
def execRecordWrite (c q : Nat) (s : State) : Out :=
  startCmd s c q 0x23 fun s x =>
    if !ownerQueue s x then complete s x 1 0 0
    else
      let bs := readBytes s.hostMem (x.f 0x10 8) (x.f 0x18 8)
      let code := recordCode s bs
      if code ≠ 0 then secReject s x 4 code 0
      else match writeRecord s bs with
        | some (k, s) => complete s x 0 k 0
        | none => secReject s x 4 5 0

/-! ### The owner's commands (R384, R386) -/

/-- The code with which a token is refused; 0 for none. -/
def tokenCode (s : State) (bs : List Byte) : Nat :=
  let r := recOf bs
  let op := field r.body 0 1
  let new := (r.body.drop 0x40).take 32
  let anchor := if op = 1 && !claimed s then new else ownerOf' s
  if r.ty ≠ 0x10 || !formOk r bs.length || op = 0 || 4 < op then 5
  else if !sigOk r then 1
  else if keyDigest r.key ≠ anchor then 2
  else if !identOk r then 4
  else if (r.body.drop 0x20).take 32 ≠ nonceBytes s then 6
  else if (op = 1 || op = 4) && (List.range 16).any fun c => (ctxOf s c).loaded then 7
  else 0

/-- The answer to an owner command. -/
def ownerReply (s : State) (tgt : Reply) (code op : Nat) : State :=
  match tgt with
  | .cmd no => match s.cmds.find? fun y => y.no = no with
    | some y => if code = 0 then complete s y 0 op 0 else secReject s y 3 code 0
    | none => s
  | .mctp b =>
    send (if code = 0 then s else secRefuse s 0 3 code 0) (.packet "MCTP_OWNER" b [code, op])

/-- A token is judged, and the nonce changes (R386): refused, or the operation awaits its execution. -/
def takeToken (s : State) (bs : List Byte) (tgt : Reply) : State :=
  let code := tokenCode s bs
  let s := newNonce s
  if code ≠ 0 then ownerReply s tgt code 0
  else
    let b := (recOf bs).body
    { s with ownerOp := some ⟨field b 0 1, field b 4 4, (b.drop 0x40).take 32, tgt⟩ }

/-- OWNER_CMD (R386, R392); one token at a time is carried out. -/
def execOwnerCmd (c q : Nat) (s : State) : Out :=
  if s.ownerOp.isSome then .next s
  else startCmd s c q 0x24 fun s x =>
    if !ownerQueue s x then complete s x 1 0 0
    else takeToken s (readBytes s.hostMem (x.f 0x10 8) (x.f 0x18 8)) (.cmd x.no)

/-- The judged owner command with opcode `op` is carried out by `f`; `wrote` tells whether the replay-protected write
succeeded. -/
def ownerDo (s : State) (op : Nat) (wrote : Bool) (f : State → OwnerOp → State) : State :=
  match s.ownerOp with
  | none => s
  | some o =>
    if o.op ≠ op then s
    else
      let s := { s with ownerOp := none }
      if !wrote then ownerReply s o.reply 0x0B 0 else ownerReply (f s o) o.reply 0 op

/-- Floors of the area, types 1 to 10. -/
def floors (s : State) : List Nat := (List.range 10).map fun i => floorOf s (i + 1)

/-- OWNER_SET (R386). -/
def execOwnerSet (wrote : Bool) (s : State) : Out :=
  .next (ownerDo s 1 wrote fun s o => rpWrite s (if o.newOwner.all (· = 0) then [] else o.newOwner) (floors s))

/-- Floors raised to the SVNs in force of the types that `p` selects (R384). -/
def raisedFloors (s : State) (p : RunRec → Bool) : List Nat :=
  (List.range 10).map fun i => match runOf s (i + 1) with
    | some r => if p r && i ≠ 5 then Nat.max (floorOf s (i + 1)) r.svn else floorOf s (i + 1)
    | none => floorOf s (i + 1)

/-- FLOOR_COMMIT (R384, R386). -/
def execFloorCommit (wrote : Bool) (s : State) : Out :=
  .next (ownerDo s 2 wrote fun s o => rpWrite s (ownerOf' s) (raisedFloors s fun r => o.arg.testBit r.ty))

/-- ACCEPT_FOUND (R286, R386): it writes no replay-protected area. -/
def execAcceptFound (s : State) : Out :=
  .next (ownerDo s 3 true fun s o => (List.range Config.ports).foldl (fun s p =>
    if o.arg.testBit p then acceptPort s p else s) s)

/-- OWNER_CLEAR (R386). -/
def execOwnerClear (wrote : Bool) (s : State) : Out :=
  .next (ownerDo s 4 wrote fun s _ => rpWrite s [] ((floors s).take 7 ++ [0, 0, 0]))

/-! ### MCTP (R395, R428) -/

/-- MCTP bindings: 0 and 1 the PFs of H0 and H1, 2 I3C. -/
def mctpUp (s : State) (b : Nat) : Bool :=
  getF s Reg.HUB_OWL_STATUS 1 0 = 0 && 1 ≤ s.pstep && s.pstep ≤ 6
    && (b = 2 || (b < 2 && getF s Reg.SEC_BOOT_STATUS 2 0 = 3 && !(b = 1 && cxlRole s)))

/-- An MCTP request over a binding that answers. -/
def onMctp (s : State) (b : Nat) (f : State → State) : Out :=
  if b < 3 then .next (if mctpUp s b then f s else s) else .fault .noSuchUnit

/-- Bytes as a message body. -/
def asBody (bs : List Byte) : List Nat := bs.map (·.toNat)

/-- GET_REPORT (R395). -/
def execGetReport (b c : Nat) (nonce : BitVec 256) (s : State) : Out :=
  onMctp s b fun s =>
    if 16 ≤ c then send s (.packet "MCTP_ERROR" b [5])
    else
      let (r, s) := report s c (natLE 32 nonce.toNat)
      send s (.packet "MCTP_REPORT" b (asBody r))

/-- GET_CERT (R395): the identity certificate as the flash holds it. -/
def execGetCert (b : Nat) (s : State) : Out :=
  onMctp s b fun s =>
    let k := match runOf s 7 with | some r => r.slot | none => 0
    send s (.packet "MCTP_CERT" b (asBody (slotBytes s 7 k)))

/-- GET_NONCE (R395). -/
def execGetNonce (b : Nat) (s : State) : Out :=
  onMctp s b fun s => send s (.packet "MCTP_NONCE" b (asBody (nonceBytes s)))

/-- MCTP_OWNER_CMD (R395). -/
def execMctpOwnerCmd (b : Nat) (token : List (BitVec 8)) (s : State) : Out :=
  onMctp s b fun s => if s.ownerOp.isSome then s else takeToken s token (.mctp b)

/-- PLDM_FIRMWARE_UPDATE (R428): a component of type 1, 2, 8, 9 or 10 that passes the checks of RECORD_WRITE; the boot ROM
of stage 0 takes OWL_FW alone (R380). -/
def execPldmFirmwareUpdate (b : Nat) (image : List (BitVec 8)) (s : State) : Out :=
  onMctp s b fun s =>
    let ty := (recOf image).ty
    let rom := s.pstep = 1
    let code := if !([1, 2, 8, 9, 10].contains ty) || (rom && ty ≠ 1) then 5 else recordCode s image
    let r : Option (Nat × State) := if code = 0 then writeRecord s image else none
    match r with
    | some (k, s) => send s (.packet "PLDM_UPDATE" b [0, k])
    | none => send s (.packet "PLDM_UPDATE" b [if code = 0 then 5 else code, 0])

/-- MCTP_ENDPOINT_ID_ASSIGN (R428): one endpoint ID per binding. -/
def execMctpEndpointIdAssign (b eid : Nat) (s : State) : Out :=
  onMctp s b fun s => send { s with eids := put 0 s.eids b (eid % 256) } (.packet "MCTP_EID" b [eid % 256])

end Sys2Proof.Machine
end

