-- ==== Sys2Proof/Machine/SvcOps.lean ====
section
/-!
DEFINITION. Error logs (R413 to R416), fatal errors (R419), the alert land (R442), and the units of live service (R420, R422).
-/
namespace Sys2Proof.Machine

/-! ### The alert land (R442) -/

/-- HUB_OWL_STATUS.STATE: 0 running, 1 restarting, 2 lost. -/
def owlState (s : State) : Nat := getF s Reg.HUB_OWL_STATUS 1 0

/-- Whether ALERT_N is driven low. -/
def alertOn (s : State) : Bool := s.fatalSeen || getF s Reg.PWR_STATUS 1 1 = 1 || owlState s = 2

/-- A change by which ALERT_N falls shows on the land. -/
def withAlert (s : State) (f : State → State) : State :=
  let t := f s
  if !alertOn s && alertOn t then send t .alert else t

/-! ### Logs (R414 to R416) -/

/-- Base of log `n`. -/
def logBase (n : Nat) : Nat := 0x10000 + 0x1000 * n

/-- SEQ of the entry in a slot; 0 marks an empty one. -/
def slotSeq (s : State) (n e : Nat) : Nat := (getReg s (logBase n + 32 * e)).toNat

/-- SEQ of the last entry written. -/
def logSeq (s : State) (n : Nat) : Nat := (getReg s (Reg.HUB_LOG_SEQ + 0x1000 * n)).toNat

/-- The slot that the next entry takes: the one after the slot that holds the last SEQ. -/
def nextSlot (s : State) (n : Nat) : Nat :=
  match (List.range 64).find? fun e => logSeq s n ≠ 0 && slotSeq s n e = logSeq s n with
  | some e => (e + 1) % 64
  | none => 0

/-- The SEQ after one: 0 is never assigned. -/
def seqAfter (q : Nat) : Nat := if (q + 1) % 2 ^ 32 = 0 then 1 else (q + 1) % 2 ^ 32

/-- The eight words of an entry (R415). -/
def entryWords (r : Report) (seq : Nat) : List Nat :=
  [seq, r.cls + 2 ^ 8 * r.code + 2 ^ 16 * r.kind + 2 ^ 24 * (r.ctx.getD 0xFF), r.unit, 0,
    r.time % 2 ^ 32, r.time / 2 ^ 32, r.info % 2 ^ 32, r.info / 2 ^ 32]

/-- Eight words are stored at an offset of the log area. -/
def putWords8 (s : State) (off : Nat) (ws : List Nat) : State :=
  (List.range 8).foldl (fun s i => setReg s (off + 4 * i) (BitVec.ofNat 32 (ws.getD i 0))) s

/-- The interrupt of a log (R416): to the function that serves the context, or for the package log to the PF of H0. -/
def logIrq (s : State) (n cls : Nat) : State :=
  let ctrl := Reg.HUB_LOG_CTRL + 0x1000 * n
  if bitOf (getF s ctrl 3 0) cls then
    let v := getF s ctrl 14 4
    send s (if n < 16 then .msix (getF s (perCtx Reg.AVF_CTX_BIND 0x1000 n) 0 0) n v else .msix 0 0 v)
  else s

/-- A report is written into its log (R414, R416). -/
def writeEntry (s : State) (r : Report) : State :=
  let n := r.ctx.getD 16
  let base := logBase n
  let st := Reg.HUB_LOG_STATUS + 0x1000 * n
  let q := seqAfter (logSeq s n)
  let e := nextSlot s n
  let old := slotSeq s n e
  let d := (old + 2 ^ 32 - (getReg s (Reg.HUB_LOG_SEQ_READ + 0x1000 * n)).toNat) % 2 ^ 32
  let unread := old ≠ 0 && 1 ≤ d && d ≤ 2 ^ 31 - 1
  let first := getF s st 3 0 = 0
  let s := putWords8 s (base + 32 * e) (entryWords r q)
  let s := if first then setF (putWords8 s (base + 0x800) (entryWords r q)) st 5 5 1 else s
  let s := if unread then setF s st 4 4 1 else s
  let s := setReg (setF s st r.cls r.cls 1) (Reg.HUB_LOG_SEQ + 0x1000 * n) (BitVec.ofNat 32 q)
  let s := bumpF s (Reg.HUB_LOG_CNT + 0x1000 * n + 4 * r.cls) 31 0 1
  let s := logIrq s n r.cls
  let s := if 1 ≤ r.cls && owlState s = 0 then send s (.packet "LOG_EVENT" n [r.cls, r.code, q]) else s
  if r.cls = 3 then { s with fatalSeen := true } else s

/-- The order of reports that reach a log in one hub cycle (R416). -/
def reportLe (a b : Report) : Bool := a.code < b.code || (a.code = b.code && a.unit ≤ b.unit)

/-- The `k` oldest reports reach their logs in one hub cycle. -/
def reportsArrive (s : State) (k : Nat) : State :=
  let now := (s.reports.take k).mergeSort reportLe
  withAlert { s with reports := s.reports.drop k } fun s => now.foldl writeEntry s

/-- A write of HUB_LOGn_STATUS: class bits and OVF clear where 1 is written, but for those that the package sets in the same
cycle (R10), and FIRST is freed once every class bit is zero (R416). -/
def logStatusWrite (s : State) (n : Nat) (v set : W32) : State :=
  let st := Reg.HUB_LOG_STATUS + 0x1000 * n
  let s := setReg s st ((getReg s st &&& ~~~(v &&& 0x1F)) ||| (set &&& 0x1F))
  if getF s st 3 0 = 0 then setF (putWords8 s (logBase n + 0x800) []) st 5 5 0 else s

/-! ### Service states (R420, R422) -/

/-- Whether a unit of a kind exists (R420). -/
def svcUnitOk (s : State) (kind unit : Nat) : Bool :=
  match kind with
  | 1 => populated s unit
  | 2 => unit < 48
  | 3 => unit < 256
  | 4 => unit < 32
  | 5 => unit < 144
  | _ => false

/-- Units under test. -/
def testsOf (s : State) : List Nat := (s.svc.filter fun p => p.2 = 2).map (·.1)

/-- Every test is aborted, and its unit stays FENCED (R427, R430). -/
def abortTests (s : State) : State :=
  (testsOf s).foldl (fun s k =>
    let s := if k / 65536 = 3 then setF s (chReg Reg.MEM_CH_STATUS (k % 65536)) 2 0 4 else s
    setSvc s (k / 65536) (k % 65536) 1 11) s

/-! ### Fatal errors (R419) -/

/-- HUB_FATAL_CODE and HUB_FATAL_TIME keep the first fatal error. -/
def noteFatal (s : State) (code : Nat) : State :=
  if getF s Reg.HUB_FATAL_CODE 7 0 = 0 then setReg64 (setF s Reg.HUB_FATAL_CODE 7 0 code) Reg.HUB_FATAL_TIME s.ftc else s

/-- A fatal error other than 0x33: every context halts, the ribbon stops, a notice goes out on VC0 of every UP port, the
links' FTC role freezes, and tests are aborted (R419, R430). -/
def fatal (s : State) (code unit info : Nat) : State :=
  let s := raise (noteFatal s code) 3 code 11 none unit info
  let s := ((List.range 16).filter fun c => (ctxOf s c).loaded).foldl haltCtx s
  let s := estop s
  let s := ((List.range Config.ports).filter fun p => pState s p = 6).foldl (fun s p =>
    send s (.packet "FATAL_NOTICE" p [code])) s
  abortTests (setF s Reg.FTC_STATUS 9 9 0)

end Sys2Proof.Machine
end

