-- ==== Sys2Proof/Machine/Boot.lean ====
section
/-!
DEFINITION. Power-up and boot (R378 to R382, R400), and the reset lands (R440, R448).
-/
namespace Sys2Proof.Machine

/-! ### Boot stages (R378, R380) -/

/-- SEC_BOOT_STATUS.STAGE. -/
def bootStage (s : State) : Nat := getF s Reg.SEC_BOOT_STATUS 2 0

/-- Change STAGE. -/
def setStage (s : State) (v : Nat) : State := setF s Reg.SEC_BOOT_STATUS 2 0 v

/-- Boot stops with a code, and the package enters recovery (R380). -/
def bootFail (s : State) (code : Nat) : State := setStage (setF s Reg.SEC_BOOT_STATUS 15 8 code) 7

/-- The record of a type comes into force, unless this boot has taken one already (R379, R428). -/
def takeSlot (s : State) (ty : Nat) : State :=
  if (runOf s ty).isSome then s else match pickSlot s ty with | some k => takeRec s ty k | none => s

/-- A record without which boot stops. -/
def needRec (s : State) (ty code : Nat) (f : State → State) : State :=
  let s := takeSlot s ty
  if (runOf s ty).isSome then f s else bootFail s code

/-- Slot of the record of a type in force, as a bit: 1 for B. -/
def runSlot (s : State) (ty : Nat) : Nat := match runOf s ty with | some r => r.slot | none => 0

/-- SEC_IDENT shows the identity digest (R381). -/
def showIdent (s : State) : State :=
  (List.range 8).foldl (fun s w => setReg s (Reg.SEC_IDENT + 4 * w) (BitVec.ofNat 32 (field identity (4 * w) 4))) s

/-- Boot stage 0 (R378, R380, R381): `readable` tells whether the flash directory can be read, `fails` how many attempts to
reconstruct the seed failed. -/
def bootStage0 (s : State) (readable : Bool) (fails : Nat) : State :=
  let s := newNonce (setDom s 56 2)
  if !readable || !flashDirOk (flashDir s) then bootFail s 9
  else
    let s := if fails ≥ 1 then setBit s Reg.SEC_ERR 6 else s
    if fails ≥ 3 || !slotValid s 6 0 then bootFail s 1
    else
      let s := showIdent s
      if (rpBest s).isNone then bootFail s 2
      else needRec (showRp s) 1 3 fun s =>
        { setStage (setF s Reg.SEC_BOOT_STATUS 6 6 (runSlot s 1)) 1 with pstep := 2 }

/-- BOOT_STAGE_0 (R378). -/
def execBootStage0 (readable : Bool) (fails : Nat) (s : State) : Out :=
  .next (if s.pstep = 1 && bootStage s = 0 then bootStage0 s readable fails else s)

/-- ID_CERT is taken (R380, R382): CERTIFIED where it is valid and names the key of this boot. -/
def takeCert (s : State) : State :=
  let s := takeSlot s 7
  let b := runBody s 7
  let key := (Config.identityKey ++ zeros 1856).take 1856
  let s := if (runOf s 7).isSome then
      (List.range 4).foldl (fun s w => setReg s (Reg.HUB_SERIAL + 4 * w) (BitVec.ofNat 32 (field b (1856 + 4 * w) 4))) s
    else s
  if (runOf s 7).isSome && b.take 1856 = key then setF s Reg.SEC_BOOT_STATUS 4 4 1
  else setF (setF s Reg.SEC_BOOT_STATUS 4 4 0) Reg.SEC_BOOT_STATUS 15 8 0x0A

/-- The owner's records (R380): an unclaimed package ignores them. -/
def takeBoard (s : State) (f : State → State) : State :=
  if !claimed s then f s
  else needRec s 8 8 fun s =>
    let s := takeSlot (takeSlot s 9) 10
    f (if (runOf s 10).isSome then s else setF s Reg.SEC_BOOT_STATUS 15 8 0x0B)

/-- Whether the owner's records are in force. -/
def ownerRecs (s : State) : Bool := (runOf s 8).isSome

/-- The grade is applied (R1, R433). -/
def applyGrade (s : State) : State :=
  let g := field (runBody s 3) 0 1
  let n := if g = 1 then 56 else 64
  setF (setF { s with perCluster := n } Reg.HUB_CAP 0 0 g) Reg.HUB_CAP 7 1 n

/-- Whether stack `n` passes R221. -/
def stackOk (s : State) (n : Nat) : Bool :=
  match s.stackIns[n]? with
  | none => false
  | some x => x.trained && x.fits && (!ownerRecs s ||
      (bitOf (field (runBody s 8) 0x11 1) n && x.ident.toNat = field (runBody s 8) (0x20 + 8 * n) 8))

/-- Stack `n` is checked (R221): its channels are up, or failed with it. -/
def checkStack (s : State) (n : Nat) : State :=
  let ok := stackOk s n
  let s := setReg s (stkReg Reg.MEM_STK_ID n) (BitVec.ofNat 32 (n + (if ok then 8 else 0) + 2 ^ 28))
  let s := setF s Reg.HUB_CAP (13 + n) (13 + n) (if ok then 1 else 0)
  ((List.range 32).map (32 * n + ·)).foldl (fun s ch =>
    if ok then setChState s ch 1
    else raise (setChState s ch 3) 0 0x04 3 none ch (3 + 256 * (Config.causeCode 12).toNat)) s

/-- Service states that survive a package reset act on their units (R422, R423). -/
def svcApply (s : State) : State :=
  s.svc.foldl (fun s p =>
    let u := p.1 % 65536
    match p.1 / 65536 with
    | 1 => onNib s u fun b => setNibF { b with st := 6 } Reg.NIB_ABFT_STATUS 2 2 1
    | 3 => setChState s u (if p.2 = 2 then 5 else if p.2 = 4 then 3 else 4)
    | 4 => setF s (portReg Reg.LNK_STATUS u) 3 0 9
    | _ => s) s

/-- Boot stage 1 (R378): the records, the grade, the stacks, the runtime. -/
def bootStage1 (s : State) : State :=
  needRec (takeCert s) 3 5 fun s => needRec s 5 6 fun s => needRec s 4 7 fun s => takeBoard s fun s =>
    let s := setF (applyGrade s) Reg.SEC_BOOT_STATUS 5 5 (if runSlot s 4 = 2 then 0 else 1)
    let s := setF s Reg.HUB_CAP 21 21 (if ownerRecs s && field (runBody s 8) 0x10 1 = 1 then 1 else 0)
    let s := svcApply ((List.range 8).foldl checkStack s)
    needRec s 2 4 fun s => setStage (setF s Reg.SEC_BOOT_STATUS 7 7 (runSlot s 2)) 2

/-- BOOT_STAGE_1 (R378): it works on the stacks and needs steps 3 to 5 of R400. -/
def execBootStage1 (s : State) : Out := .next (if s.pstep = 5 && bootStage s = 1 then bootStage1 s else s)

/-- The H1 role of the board manifest (R348), the trained widths of the host ports, and the far tier as the Owl finds it
(R242): devices, GiB, whether the devices are equal. -/
def setPorts (s : State) (w0 w1 devices gib : Nat) (equal : Bool) : State :=
  let up := fun w => (if w = 0 then 0 else 2) + 4 * Nat.min w 8
  let cxl := getF s Reg.HUB_CAP 21 21
  let s := setReg s Reg.AVF_PORT0_STATUS (BitVec.ofNat 32 (up w0))
  let s := setReg s Reg.AVF_PORT1_STATUS (BitVec.ofNat 32 (cxl + up w1))
  if cxl = 0 then s
  else
    let v := 1 + (if w1 = 0 then 0 else 2) + 4 * Nat.min devices 8 + (if equal then 64 else 0)
    setReg (setReg s Reg.MEM_FAR_STATUS (BitVec.ofNat 32 v)) Reg.MEM_FAR_SIZE (BitVec.ofNat 32 (Nat.min gib 4096))

/-- Floors of running records that carry AUTO_FLOOR rise (R384). -/
def autoFloors (s : State) : State :=
  let new := raisedFloors s fun r => r.auto
  if new = floors s then s else rpWrite s (ownerOf' s) new

/-- Whether the flash of a claimed package holds a cable plan of which no copy verifies (R301). -/
def badPlan (s : State) : Bool :=
  claimed s && [0, 1].any fun k =>
    let bs := slotBytes s 9 k
    let r := recOf bs
    r.ty = 9 && formOk r bs.length && !(sigOk r && keyDigest r.key = anchorOf s 9 k)

/-- Boot stage 2 (R378). -/
def bootStage2 (s : State) (w0 w1 devices gib : Nat) (equal : Bool) : State :=
  let s := setPorts (autoFloors s) w0 w1 devices gib equal
  let s := if (runOf s 9).isSome then planApply s (runBody s 9) (field identity 0 8)
    else if badPlan s then setF s Reg.LNK_PROFILE 11 8 1 else s
  let s := svcApply s
  { setStage (setBit s Reg.HUB_STATUS 3) 3 with pstep := 6 }

/-- BOOT_STAGE_2 (R378). -/
def execBootStage2 (w0 w1 devices gib : Nat) (equal : Bool) (s : State) : Out :=
  .next (if s.pstep = 5 && bootStage s = 2 then bootStage2 s w0 w1 devices gib equal else s)

/-! ### Power-up (R400) -/

/-- Domains run. -/
def runDoms (s : State) (ds : List Nat) : State := ds.foldl (fun s d => setDom s d 2) s

/-- The next step of R400 whose condition is met; `stacks` is what the training of step 4 finds. With the hub core the FTC
passes through ACQUIRING (R295). -/
def powerUp (s : State) (stackIns : List StackIn) : State :=
  match s.pstep with
  | 0 => { setDom s 56 2 with pstep := 1 }
  | 2 => if bootStage s = 1 then { setSync (runDoms s [57, 58, 59]) 1 with pstep := 3 } else s
  | 3 => { runDoms s [13, 27, 41, 55] with pstep := 4, stackIns := stackIns }
  | 4 => { runDoms s [12, 26, 40, 54] with pstep := 5 }
  | _ => s

/-- POWER_UP (R400): steps 2 and 6 are the boot stages. -/
def execPowerUp (stackIns : List StackIn) (s : State) : Out := .next (powerUp s stackIns)

/-! ### Resets (R440, R400, R414, R422) -/

/-- What no reset touches: the queue, the flash with its counter and area, host and far memory, the model's records. -/
def afterReset (s : State) : State :=
  { State.reset with
    pending := s.pending, hostMem := s.hostMem, farMem := s.farMem, farPoison := s.farPoison, flash := s.flash, rp := s.rp,
    rpCount := s.rpCount, free := s.free, cmdNo := s.cmdNo, out := s.out, routed := s.out.length, tap := s.tap }

/-- An always-on reset (R440): boot begins from step 2 of R400. An unpowered package holds the reset. -/
def aonReset (s : State) : State := { afterReset s with pstep := if s.pstep = 0 then 0 else 1 }

/-- AON_RESET (R440). -/
def execAonReset (s : State) : Out := .next (aonReset s)

/-- Registers of the always-on domain that a package reset keeps (R397, R414, R427, R431). -/
def aonReg (off : Nat) : Bool :=
  (0x2100 ≤ off && off < 0x2118) || (0x10000 ≤ off && off < 0x21000 && (off % 0x1000 ≠ 0xC00))
    || off = Reg.SEC_BOOT_STATUS || (Reg.SEC_IDENT ≤ off && off < Reg.SEC_IDENT + 32)
    || (Reg.SEC_OWNER ≤ off && off < Reg.SEC_OWNER + 32) || (Reg.SEC_FLOOR ≤ off && off < Reg.SEC_FLOOR + 40)
    || (Reg.SEC_SVN ≤ off && off < Reg.SEC_SVN + 40)

/-- What the always-on domain keeps where all others lose their state. -/
def aonKeeps (s : State) : State :=
  { afterReset s with
    ftc := s.ftc, reports := s.reports, svc := s.svc, badPhys := s.badPhys, owlTimes := s.owlTimes, eids := s.eids
    corr := s.corr, running := s.running, regs := s.regs.filter fun p => aonReg p.1, fatalSeen := s.fatalSeen
    ownerOp := s.ownerOp }

/-- A package reset (R440): steps 3 to 6 of R400 repeat. RUNTIME_FW and the cable plan are taken anew, the other records at
the next boot (R299, R428). A package that R398 or R408 has powered off stays off. -/
def packageReset (s : State) : State :=
  let t := aonKeeps s
  let t := newNonce (setDom (setF t Reg.HUB_STATUS 8 8 1) 56 2)
  let t := { t with running := t.running.filter (fun r => r.ty ≠ 2 && r.ty ≠ 9), fatalSeen := false }
  let again := 2 ≤ s.pstep && s.pstep ≠ 7
  let t := { t with pstep := if again then 2 else s.pstep }
  svcApply (if again then setStage t 1 else t)

/-- PACKAGE_RESET (R440, R448): ignored while RST_AON_N is low. -/
def execPackageReset (aonLow : Bool) (s : State) : Out := .next (if aonLow || s.pstep = 0 then s else packageReset s)

/-- Fundamental reset of a host port (R440, R448): its contexts are treated as under R371, or the CXL link goes down. -/
def perstAssert (s : State) (p : Nat) : State :=
  if p = 1 && cxlRole s then cxlDown (setF s Reg.AVF_PORT1_STATUS 5 1 0)
  else
    let s := ((List.range 16).filter fun c => portOf s c = p).foldl functionReset s
    setF s (Reg.AVF_PORT0_STATUS + 4 * p) 9 1 0

/-- PERST_ASSERT (R440). -/
def execPerstAssert (port : Nat) (s : State) : Out :=
  if port < 2 then .next (perstAssert s port) else .fault .noSuchUnit

/-- A host port has retrained with a width. -/
def perstRelease (s : State) (p width : Nat) : State :=
  let s := setF s (Reg.AVF_PORT0_STATUS + 4 * p) 5 1 ((if width = 0 then 0 else 1) + 2 * Nat.min width 8)
  if p = 1 && cxlRole s then setF s Reg.MEM_FAR_STATUS 1 1 (if width = 0 then 0 else 1) else s

/-- PERST_RELEASE (R440): ports are released once boot is complete (R378). -/
def execPerstRelease (port width : Nat) (s : State) : Out :=
  if port < 2 then .next (if getF s Reg.HUB_STATUS 3 3 = 1 then perstRelease s port width else s)
  else .fault .noSuchUnit

end Sys2Proof.Machine
end

