-- ==== Sys2Proof/Machine/CollTree.lean ====
section
/-!
DEFINITION. The algorithms of collectives (R303, R305, R306): through which member packages a shard's partial results run
together, and how a gathered or broadcast segment spreads.

A partial result of a reduce-scatter passes the stages 0 (x), 1 (y), 2 (u, inward), 3 (u, back out), 4 (v, inward),
5 (v, back out) and 6 (whole). Stages 3 and 5 are those in which a line's result runs from the middle back out.
-/
namespace Sys2Proof.Machine

/-- Descriptor of a collective: that of its first contributing nib. -/
def Coll.desc (k : Coll) : CDesc := cdescOf ((k.parts.map (·.desc)).headD [])

/-- A coordinate of a plane address. -/
def coordOf (a i : Nat) : Nat := (coords a).getD i 0

/-- Member packages that differ from `a` on axis `i` alone, in ascending order: holes are passed (R306). -/
def Coll.line (k : Coll) (i a : Nat) : List Nat :=
  k.mem.filter fun b => (List.range 4).all fun j => j = i || coordOf b j = coordOf a j

/-- Index in a line of the member on the coordinate of `o`; none where that is a hole. -/
def lineAt (xs : List Nat) (i o : Nat) : Option Nat := xs.findIdx? fun b => coordOf b i = coordOf o i

/-- The next index from `p` toward `q` among `n`: on a ring the shorter way, upward where both are equal. -/
def stepIdx (ring : Bool) (n p q : Nat) : Nat :=
  if ring then (if 2 * ((q + n - p) % n) ≤ n then (p + 1) % n else (p + n - 1) % n)
  else if p < q then p + 1 else p - 1

/-- Index of the middle rank of a line; the lower one of two (DESIGN CHOICE, log entry 145). -/
def midIdx (n : Nat) : Nat := (n - 1) / 2

/-- Whether the collective runs a ring on an axis (R305). -/
def Coll.ring (k : Coll) (i : Nat) : Bool := k.wrap.getD i false

/-- Where a partial result of the shard of member `o` goes from stage `n` at member `a` (R305): member and stage. Where the
member that should take it is a hole, it goes to `o` (DESIGN CHOICE, log entry 145). -/
def Coll.step (k : Coll) (o : Nat) (x : Nat × Nat) : Nat × Nat :=
  let (a, n) := x
  if n ≤ 1 then
    if coordOf a n = coordOf o n then (a, n + 1)
    else
      let xs := k.line n a
      match lineAt xs n o with
      | some q => (xs.getD q o, n + 1)
      | none => (o, 6)
  else if n ≤ 5 then
    let i := n / 2 + 1
    let xs := k.line i a
    let p := (posOf a xs 0).getD 0
    match lineAt xs i o with
    | none => (o, 6)
    | some q =>
      if n % 2 = 1 then (if p = q then (a, n + 1) else (xs.getD (stepIdx false xs.length p q) o, n))
      else if k.ring i then (if p = q then (a, n + 2) else (xs.getD (stepIdx true xs.length p q) o, n))
      else if p = midIdx xs.length then (a, n + 1)
      else (xs.getD (stepIdx false xs.length p (midIdx xs.length)) o, n)
  else (a, 6)

/-- The way of a contribution from member `x.1` on. `fuel` bounds its steps. -/
def Coll.way (k : Coll) (o : Nat) : Nat → Nat × Nat → List (Nat × Nat)
  | 0, _ => []
  | fuel + 1, x => x :: if x = (o, 6) then [] else k.way o fuel (k.step o x)

/-- Steps that a way can have. -/
def wayFuel : Nat := 160

/-- The last stage that a partial result passes at member `a` before it leaves, from stage `n` on. -/
def Coll.lastStage (k : Coll) (o a : Nat) : Nat → Nat → Nat
  | 0, n => n
  | fuel + 1, n => if n < 6 && (k.step o (a, n)).1 = a then k.lastStage o a fuel (k.step o (a, n)).2 else n

/-- Member packages whose contributions pass a stage at a member. -/
def Coll.through (k : Coll) (o a n : Nat) : Nat :=
  k.mem.countP fun m => (k.way o wayFuel (m, 0)).contains (a, n)

/-- Member packages whose lanes a segment of the shard of rank `owner` gathers at this package from stage `n` on, before it
leaves or is written. -/
def Coll.need (k : Coll) (owner n : Nat) : Nat :=
  if k.desc.op ≠ 1 then 1
  else
    let o := k.mem.getD owner 0
    let me := k.mem.getD k.rank 0
    k.through o me (k.lastStage o me 6 n)

/-- The stages at which a shard's partial results enter this package: its own contribution at 0, and what comes back out
along a line. -/
def Coll.entries (k : Coll) (owner : Nat) : List Nat :=
  let o := k.mem.getD owner 0
  let me := k.mem.getD k.rank 0
  if k.desc.op ≠ 1 then [0]
  else
    0 :: [3, 5].filter fun n =>
      0 < k.through o me n && k.lastStage o me 6 0 < n && !(n = 5 && k.lastStage o me 6 3 ≥ 5 && 0 < k.through o me 3)

/-- Whether a package adds lanes to those that enter at a stage, so that the segment needs a slot there (R316). -/
def Coll.reduces (k : Coll) (owner n : Nat) : Bool :=
  n = 0 || k.through (k.mem.getD owner 0) (k.mem.getD k.rank 0) n < k.need owner n

/-- The member that takes the partial result of another's segment from this package, and the stage it enters; none where the
result is whole here. -/
def Coll.next (k : Coll) (owner n : Nat) : Option (Nat × Nat) :=
  let o := k.mem.getD owner 0
  let me := k.mem.getD k.rank 0
  let e := k.lastStage o me 6 n
  if e = 6 then none else some (k.step o (me, e))

/-- The member from which `a` takes a gathered or broadcast segment of member `o` (R305): the axes run in the order v, u, y, x,
directly on x and y, else from the neighbour toward `o`. -/
def Coll.giver (k : Coll) (o a : Nat) : Nat :=
  match (List.range 4).find? fun i => coordOf a i ≠ coordOf o i with
  | none => o
  | some i =>
    let xs := k.line i a
    match lineAt xs i o with
    | none => o
    | some q => if i < 2 then xs.getD q o else xs.getD (stepIdx (k.ring i) xs.length ((posOf a xs 0).getD 0) q) o

/-- The members to which this one passes a gathered or broadcast segment on. -/
def Coll.copies (k : Coll) (owner : Nat) : List Nat :=
  let o := k.mem.getD owner 0
  k.mem.filter fun a => a ≠ o && k.giver o a = k.mem.getD k.rank 0

end Sys2Proof.Machine
end

