-- ==== Sys2Proof/Machine/CollData.lean ====
section
/-!
DEFINITION. The data of collectives (R308 to R315, R317): segments, agreement words, lanes, results.
-/
namespace Sys2Proof.Machine

/-! ### Segments (R308) -/

/-- Member packages M. -/
def Coll.m (k : Coll) : Nat := Nat.max 1 k.mem.length

/-- Elements of a shard. -/
def Coll.shard (k : Coll) : Nat := shardElems k.desc k.m

/-- Segments of a shard. -/
def Coll.segsOf (k : Coll) : Nat := (k.shard + segElems k.desc.red - 1) / segElems k.desc.red

/-- Every segment of the collective in element order: owner and number (R308). A barrier has none. -/
def Coll.plan (k : Coll) : List (Nat × Nat) :=
  let owners := match k.desc.op with | 3 => [k.desc.root] | 4 => [] | _ => List.range k.m
  (owners.map fun o => (List.range k.segsOf).map fun q => (o, q)).flatten

/-- Whether some contributing nib drips (R318): one that supplies nothing cannot. -/
def Coll.drips (k : Coll) : Bool := k.parts.any fun x => (cdescOf x.desc).drip

/-- Segments in a batch of phase 1 (R316, R318). -/
def Coll.batch (k : Coll) : Nat := if k.drips then 1 else 64

/-- First element of a segment in the full vector, and in its shard; number of its elements. -/
def Coll.first (k : Coll) (owner seq : Nat) : Nat :=
  (if k.desc.op = 3 then 0 else owner * k.shard) + seq * segElems k.desc.red

/-- Elements of a segment. -/
def Coll.count (k : Coll) (seq : Nat) : Nat :=
  Nat.min (segElems k.desc.red) (k.shard - seq * segElems k.desc.red)

/-- The contribution of the nib that is span member 0. -/
def part0 (s : State) (k : Coll) : Option CollPart :=
  let p := spanOf (ctxOf s k.ctx) k.desc.span
  match nibOfIndex s k.ctx p.first with
  | some n => k.parts.find? fun x => x.nib = n
  | none => none

/-- Whether every nib of the span has issued the collective (R309). -/
def collWhole (s : State) (k : Coll) : Bool :=
  (spanNibs s k.ctx k.desc.span).all fun n => k.parts.any fun x => x.nib = n

/-- The fields of a group that every member's descriptor shares (R304). -/
def groupFields (d : CDesc) : List Nat :=
  [d.op, d.red, d.inFmt, d.outFmt, if d.sat then 1 else 0, d.axes, d.span, d.count, d.addends, d.root] ++ d.ext

/-- Their 64-bit digest; the manual does not say how it is formed (R304; log entry 146). -/
def groupDigest (d : CDesc) : BitVec 64 := Config.collDigest (groupFields d)

/-- Whether two descriptors have one digest. -/
def sameGroup (d e : CDesc) : Bool := groupFields d = groupFields e || groupDigest d = groupDigest e

/-! ### Sources (R308, R310, R318) -/

/-- Bytes of `n` at offset `o` of a nib's source, with poison by word; a ring's from its head. -/
def srcAt (s : State) (k : Coll) (x : CollPart) (o n : Nat) : List Byte × List Bool :=
  let d := cdescOf x.desc
  let a : W64 := if d.drip then d.src else d.src + BitVec.ofNat 64 o
  match (resolveAddr s x.nib k.ctx a n false false).2 with
  | some pl => readPlace s pl n
  | none => (List.replicate n 0, [])

/-- Codes of the elements of one grain in a segment, and poison by stripe (R322). -/
def grainAt (s : State) (k : Coll) (x : CollPart) (g owner seq : Nat) : List Nat × List Bool :=
  let d := k.desc
  let w := fmtBytes d.inFmt
  let n := k.count seq
  let (bs, ps) := srcAt s k x ((g * d.count + k.first owner seq) * w) (n * w)
  let per := 256 * w / 64
  ((chunks w n bs).map leNat, (chunks per n ps).map fun c => c.any id)

/-- Every grain of the package in a segment, in the order in which the nibs issued the collective. -/
def grainsAt (s : State) (k : Coll) (owner seq : Nat) : List (List Nat × List Bool) :=
  (k.parts.map fun x => (List.range (cdescOf x.desc).grains).map fun g => grainAt s k x g owner seq).flatten

/-- An element of a source as a value: FP32, or BF16 at its FP32 value. -/
def elemVal (fmt code : Nat) : Val := if fmt = 10 then decodeFlt fBF16 code else decodeFlt fFP32 code

/-! ### Agreement words (R310) -/

/-- The agreement word of a stripe of one grain. -/
def agreeWord (vs : List Val) : Nat :=
  let es := (vs.filter fun v => v.isFin && !v.isZero).map fun v => (v.expo + 512).toNat
  let has := fun (p : Val → Bool) (b : Nat) => if vs.any p then 2 ^ b else 0
  (match es with | [] => 0 | e :: r => r.foldl Nat.max e % 1024)
    + has Val.isNan 10 + has (fun v => !v.isFin && !v.isNan && !v.neg?) 11 + has (fun v => !v.isFin && !v.isNan && v.neg?) 12

/-- Two agreement words together: maximum on bits [9:0], OR on bits [12:10]. -/
def joinWords (a b : Nat) : Nat := Nat.max (a % 1024) (b % 1024) + 1024 * ((a / 1024) ||| (b / 1024))

/-- The words of a segment's stripes over a list of grains. -/
def segWords (fmt n : Nat) (gs : List (List Nat)) : List Nat :=
  let stripes := (n + 255) / 256
  (List.range stripes).map fun i =>
    (gs.map fun g => agreeWord (((g.drop (256 * i)).take 256).map (elemVal fmt))).foldl joinWords 0

/-- Whether an agreed word makes its stripe special (R312). -/
def isSpecial (w : Nat) : Bool := bits w 12 10 ≠ 0

/-! ### Lanes (R311, R314, R315, R317) -/

/-- Bits of a lane. -/
def laneBits (red : Nat) : Nat := if red = 1 then 64 else 32

/-- F of R311. -/
def laneF (red : Nat) : Int := if red = 1 then 47 else 19

/-- `x × 2^q` truncated toward zero. -/
def truncZero (d : Dy) (q : Int) : Int :=
  let m := truncTo ⟨d.n.natAbs, d.e⟩ (-q)
  if d.n < 0 then -m else m

/-- The lane of one addend under an agreed word (R311); in a stripe whose only special values are infinities of one sign
it counts them (R312). -/
def addendLane (red w : Nat) (v : Val) : Nat :=
  if bitOf w 10 || (bitOf w 11 && bitOf w 12) then 0
  else if isSpecial w then (if v.isFin then 0 else 1)
  else if w % 1024 = 0 then 0
  else wrapNat (laneBits red) (truncZero v.dy (laneF red - ((w % 1024 : Nat) - 512 : Int)))

/-- One lane added to another (R311, R314, R315): modulo the lane, as FP32, or the maximum. -/
def addLane (red fmt a b : Nat) : Nat :=
  match red with
  | 1 => (a + b) % 2 ^ 64
  | 3 => (addElem 2 a b).1
  | 5 => if fmt = 13 then (if signed 32 a < signed 32 b then b else a)
    else (toF32 (maxV (f32 (BitVec.ofNat 32 a)) (f32 (BitVec.ofNat 32 b)))).toNat
  | _ => (a + b) % 2 ^ 32

/-- Whether an INT32 sum wraps (R314). -/
def laneWraps (red a b : Nat) : Bool := red = 4 && wraps (signed 32 a + signed 32 b)

/-- A set of lanes added to those that a segment has; the first set is taken as it is, but for a loose sum, which adds
it to zeros. -/
def addLanes (red fmt : Nat) (a b : List Nat) : List Nat :=
  if a.isEmpty then (if red = 3 then b.map (addLane 3 fmt 0) else b) else List.zipWith (addLane red fmt) a b

/-- Whether adding a set of lanes wraps somewhere. -/
def lanesWrap (red : Nat) (a b : List Nat) : Bool := (List.zipWith (laneWraps red) a b).any id

/-- The lanes that one grain brings, under the agreed words of the segment's stripes. -/
def grainLanes (d : CDesc) (words g : List Nat) : List Nat :=
  match d.red with
  | 4 => g
  | 3 => g.map fun c => (toF32 (elemVal d.inFmt c)).toNat
  | 5 => if d.inFmt = 13 then g else g.map fun c => (toF32 (elemVal d.inFmt c)).toNat
  | r => (List.range g.length).map fun i => addendLane r (words.getD (i / 256) 0) (elemVal d.inFmt (g.getD i 0))

/-- Elements of a list in a given order, where that is a permutation; else in theirs. -/
def arrange {α : Type} (order : List Nat) (xs : List α) : List α :=
  if order.length = xs.length && (List.range xs.length).all order.contains then order.filterMap fun i => xs[i]? else xs

/-- What this package brings to a segment: lanes, poison by stripe, whether a sum wrapped. `order`: the order in which a
loose sum's grains reach the slab (R315). -/
def ownLanes (s : State) (k : Coll) (order words : List Nat) (owner seq : Nat) : List Nat × List Bool × Bool :=
  let d := k.desc
  match d.op with
  | 1 =>
    let gs := arrange order (grainsAt s k owner seq)
    let stripes := (k.count seq + 255) / 256
    let ps := (List.range stripes).map fun i => gs.any fun g => g.2.getD i false
    let r := gs.foldl (fun (a : List Nat × Bool) g =>
      let b := grainLanes d words g.1
      (addLanes d.red d.inFmt a.1 b, a.2 || lanesWrap d.red a.1 b)) ([], false)
    (r.1, ps, r.2)
  | _ =>
    match part0 s k with
    | none => ([], [], false)
    | some x =>
      let n := k.count seq
      let (bs, ps) := srcAt s k x (4 * (if d.op = 3 then k.first owner seq else seq * segElems d.red)) (4 * n)
      ((chunks 4 n bs).map leNat, (chunks 16 n ps).map fun c => c.any id, false)

/-! ### Results (R312, R314) -/

/-- A lane of a reduced segment as an element of OUT_FMT, under the agreed word of its stripe. -/
def resultCode (d : CDesc) (w lane : Nat) : Nat :=
  let to' := fun (sat : Bool) (v : Val) => if d.outFmt = 12 then (toF32 v).toNat else (convert d.outFmt sat v).1
  let out := to' d.sat
  match d.op, d.red with
  | 1, 4 => lane
  | 1, 5 => if d.inFmt = 13 then lane else to' false (f32 (BitVec.ofNat 32 lane))
  | 1, 3 => out (f32 (BitVec.ofNat 32 lane))
  | 1, r =>
    if bitOf w 10 || (bitOf w 11 && bitOf w 12) then out .nan
    else if isSpecial w then (if lane = 0 then out .nan else to' false (.inf (bitOf w 12)))
    else if w % 1024 = 0 then 0
    else out (ofInt (signed (laneBits r) lane) (((w % 1024 : Nat) - 512 : Int) - laneF r))
  | _, _ => lane

/-- Bytes of a result segment. -/
def resultBytes (k : Coll) (words lanes : List Nat) : List Byte :=
  let d := k.desc
  let w := if d.op = 1 then fmtBytes d.outFmt else 4
  ((List.range lanes.length).map fun i =>
    natLE w (resultCode d (words.getD (i / 256) 0) (lanes.getD i 0))).flatten

/-- Poison of the 64 B words of a result segment, by its stripes. -/
def resultPoison (k : Coll) (n : Nat) (stripes : List Bool) : List Bool :=
  let w := if k.desc.op = 1 then fmtBytes k.desc.outFmt else 4
  (List.range ((n * w + 63) / 64)).map fun i => stripes.getD (64 * i / (256 * w)) false

/-- Offset of a segment in the destination (R308). -/
def dstOffset (k : Coll) (owner seq : Nat) : Nat :=
  let d := k.desc
  if d.op = 1 then seq * segElems d.red * fmtBytes d.outFmt else 4 * k.first owner seq

/-- The collective engine writes bytes at a nib's DST (R309): it is no nib, so adder regions take the bytes as they are. -/
def writeDst (s : State) (k : Coll) (x : CollPart) (o : Nat) (bs : List Byte) (ps : List Bool) : State :=
  let a := (cdescOf x.desc).dst + BitVec.ofNat 64 o
  match (resolveAddr s x.nib k.ctx a bs.length false true).2 with
  | some (.hbm p) => writeDpa s p bs ps false
  | some pl => writePlace s pl bs ps 0
  | none => s

/-- A result segment is written (R309): once in HBM, or in the well of every contributing nib. -/
def writeResult (s : State) (k : Coll) (owner seq : Nat) (bs : List Byte) (ps : List Bool) : State :=
  let o := dstOffset k owner seq
  if k.desc.own then k.parts.foldl (fun s x => writeDst s k x o bs ps) s
  else match part0 s k with
    | some x => writeDst s k x o bs ps
    | none => s

/-- First stripe of a segment among the collective's stripes. -/
def firstStripe (k : Coll) (owner seq : Nat) : Nat := k.first owner seq / 256

/-- Agreed words of a segment's stripes. -/
def segAgreed (k : Coll) (owner seq : Nat) : List Nat :=
  (k.words.drop (firstStripe k owner seq)).take ((k.count seq + 255) / 256)

end Sys2Proof.Machine
end

