-- ==== Sys2Proof/Machine/Collective.lean ====
section
/-!
DEFINITION. The commands of collectives (R304 to R324): agreement, slab slots, segments that arrive and are acknowledged,
endpoint mode, completion.
-/
namespace Sys2Proof.Machine

/-! ### Collectives and segments -/

/-- The collective of a context with a COLL_ID. -/
def collFind (s : State) (c id : Nat) : Option Coll := s.colls.find? fun k => k.ctx = c && k.id = id

/-- Change a collective. -/
def onColl (s : State) (c id : Nat) (f : Coll → Coll) : State :=
  { s with colls := s.colls.map fun k => if k.ctx = c && k.id = id then f k else k }

/-- A segment of a collective at a stage. -/
def segFind (k : Coll) (owner seq stage : Nat) : Option CSeg :=
  k.segs.find? fun g => g.owner = owner && g.seq = seq && g.stage = stage

/-- Change a segment. -/
def onSeg (s : State) (c id owner seq stage : Nat) (f : CSeg → CSeg) : State :=
  onColl s c id fun k =>
    { k with segs := k.segs.map fun g => if g.owner = owner && g.seq = seq && g.stage = stage then f g else g }

/-- A condition of RTR_COLL_ERR, with the collective that it names. -/
def collErr (s : State) (c id bit status : Nat) : State :=
  setReg (setBit s Reg.RTR_COLL_ERR bit) Reg.RTR_COLL_ERR_INFO
    (BitVec.ofNat 32 (c % 16 + 256 * (status % 256) + 65536 * (id % 65536)))

/-! ### Slab slots (R316) -/

/-- Whether a segment holds a slab slot: until the reduced segment has been written, or acknowledged (R322). -/
def CSeg.holds (g : CSeg) : Bool := g.st = .slot || g.st = .sent

/-- Whether a segment is in flight. -/
def CSeg.busy (g : CSeg) : Bool := g.holds || g.st = .endpoint || g.st = .endSent

/-- Slots that a context holds. -/
def slabHeld (s : State) (c : Nat) : Nat := ((s.colls.filter fun k => k.ctx = c).map fun k => k.segs.countP CSeg.holds).sum

/-- Free slots. -/
def slabFree (s : State) : Nat := Config.slabSlots - (s.colls.map fun k => k.segs.countP CSeg.holds).sum

/-- Segments that wait for a slot. -/
def slabWaiting (s : State) : Nat := (s.colls.map fun k => k.segs.countP fun g => g.st = .waiting).sum

/-- MIN and MAX of a context; a MAX below MIN acts as MIN. -/
def slabShare (s : State) (c : Nat) : Nat × Nat :=
  let lo := getF s (perCtx Reg.RTR_CTX_SLAB 0x20 c) 12 0
  (lo, Nat.max lo (getF s (perCtx Reg.RTR_CTX_SLAB 0x20 c) 28 16))

/-- Rank of a waiting segment in the order of R316: contexts below MIN first, then priority, age, context, COLL_ID. -/
def slabKey (s : State) (k : Coll) (g : CSeg) : List Nat :=
  [if slabHeld s k.ctx < (slabShare s k.ctx).1 then 0 else 1, bits k.desc.flags 4 3, g.since, k.ctx, k.id]

/-- Lexicographic order. -/
def lexLt : List Nat → List Nat → Bool
  | x :: xs, y :: ys => x < y || (x = y && lexLt xs ys)
  | _, _ => false

/-- Slots that the contexts below their MIN are still guaranteed. -/
def slabOwed (s : State) : Nat := ((List.range 16).map fun c => (slabShare s c).1 - slabHeld s c).sum

/-- Waiting segments that may take a slot, with their collectives: the context is below its MAX, and below its MIN or leaves
free what others are guaranteed, and the collective has fewer than 64 segments in flight. -/
def slabCalls (s : State) : List (Coll × CSeg) :=
  (s.colls.map fun k =>
    if slabHeld s k.ctx < (slabShare s k.ctx).2 && (slabHeld s k.ctx < (slabShare s k.ctx).1 || slabOwed s < slabFree s)
        && k.segs.countP CSeg.busy < 64 && k.status ∉ [2, 3, 4] then
      (k.segs.filter fun g => g.st = .waiting).map fun g => (k, g)
    else []).flatten

/-- The segment that the next free slot goes to. -/
def slabPick (s : State) : Option (Coll × CSeg) :=
  if slabFree s = 0 then none
  else match slabCalls s with
    | [] => none
    | x :: xs => some (xs.foldl (fun b y => if lexLt (slabKey s y.1 y.2) (slabKey s b.1 b.2) then y else b) x)

/-! ### Endpoint mode (R317) -/

/-- DPA of a segment's place in the endpoint area. -/
def endPlace (s : State) (k : Coll) (seq : Nat) : Nat :=
  let d := match part0 s k with | some x => cdescOf x.desc | none => k.desc
  bits d.endpoint.toNat 47 0 + seq * segElems d.red * laneBytes d.red

/-- Bytes of lanes. -/
def laneList (red : Nat) (lanes : List Nat) : List Byte := (lanes.map (natLE (laneBytes red))).flatten

/-- Poison of the words of a segment's lanes. -/
def lanePoison (red n : Nat) (stripes : List Bool) : List Bool :=
  (List.range ((n * laneBytes red + 63) / 64)).map fun i => stripes.getD (64 * i / (256 * laneBytes red)) false

/-- A mask with bit `i` set where the list holds there. -/
def maskOf : List Bool → Nat
  | [] => 0
  | b :: bs => (if b then 1 else 0) + 2 * maskOf bs

/-- CRC-32C of a segment's lanes (R322). -/
def segCrc (red : Nat) (lanes : List Nat) : Nat := crc32c (laneList red lanes)

/-- A segment goes to the member at a plane address (R322): COLL_ID, owner, number, packages in it, poison by stripe, bytes
of a lane, CRC-32C, the stage it enters there with that it leaves here, lanes. -/
def sendSeg (s : State) (k : Coll) (g : CSeg) (tgt enters : Nat) : State :=
  send s (.link "SEGMENT" 2 tgt k.ctx
    ([k.id, g.owner, g.seq, g.got, maskOf g.poison, laneBytes k.desc.red, segCrc k.desc.red g.lanes, 8 * enters + g.stage]
      ++ g.lanes))

/-- Lanes are added into a segment's place by the channel adders. -/
def endAdd (s : State) (k : Coll) (seq : Nat) (lanes : List Nat) (ps : List Bool) : State :=
  writeDpa s (endPlace s k seq) (laneList k.desc.red lanes) (lanePoison k.desc.red lanes.length ps) true

/-- The sum is read back: lanes and poison by stripe. -/
def endRead (s : State) (k : Coll) (seq : Nat) : List Nat × List Bool :=
  let w := laneBytes k.desc.red
  let n := k.count seq
  let (bs, ps) := readDpa (n * w + 1) s (endPlace s k seq) (n * w)
  ((chunks w n bs).map leNat, (chunks (4 * w) n ps).map fun c => c.any id)

/-! ### Progress of a segment -/

/-- Lanes of a segment to which no grain has contributed: zeros for a sum; for a maximum a value that the manual does
not state. -/
def noLanes (s : State) (k : Coll) (n : Nat) : List Nat × State :=
  if k.desc.red = 5 then
    ((List.range n).map fun i => (Config.freeWord (s.free + i)).toNat, { s with free := s.free + n })
  else (List.replicate n 0, s)

/-- Poison of two sets of stripes together (R323). -/
def joinPoison (n : Nat) (a b : List Bool) : List Bool := (List.range n).map fun i => a.getD i false || b.getD i false

/-- Stripes of a segment. -/
def Coll.stripes (k : Coll) (seq : Nat) : Nat := (k.count seq + 255) / 256

/-- A set of lanes joins a segment: in its slot, or by the adders in endpoint mode (R311, R314, R315, R317, R323). -/
def joinSeg (s : State) (k : Coll) (g : CSeg) (lanes : List Nat) (ps : List Bool) (members : Nat) : State :=
  let old := if g.st = .endpoint && k.desc.red = 4 then (endRead s k g.seq).1 else g.lanes
  let s := if lanesWrap k.desc.red old lanes then collErr s k.ctx k.id 1 k.status else s
  let s := if g.st = .endpoint then endAdd s k g.seq lanes ps else s
  onSeg s k.ctx k.id g.owner g.seq g.stage fun g =>
    { g with
      got := g.got + members
      poison := joinPoison (k.stripes g.seq) g.poison ps
      lanes := if g.st = .endpoint || lanes.isEmpty then g.lanes else addLanes k.desc.red k.desc.inFmt g.lanes lanes }

/-- The result of a segment is written at this member (R309, R312). -/
def writeSeg (s : State) (k : Coll) (g : CSeg) : State :=
  let n := k.count g.seq
  let s := writeResult s k g.owner g.seq (resultBytes k (segAgreed k g.owner g.seq) g.lanes) (resultPoison k n g.poison)
  onColl s k.ctx k.id fun k => { k with bad := k.bad || g.poison.any id }

/-- Members to which a segment goes from here, with the stage that it enters there (R305). -/
def Coll.targets (k : Coll) (owner stage : Nat) : List (Nat × Nat) :=
  if k.desc.op = 1 then (k.next owner stage).toList else (k.copies owner).map fun a => (a, 0)

/-- Whether a segment's result is written at this member: a reduced one where it is whole, a gathered or broadcast one
always. -/
def Coll.writes (k : Coll) (owner stage : Nat) : Bool := k.desc.op ≠ 1 || (k.next owner stage).isNone

/-- A segment whose member packages have all contributed leaves its slot (R305, R312, R316, R322). -/
def segProgress (s : State) (c id owner seq stage : Nat) : State :=
  match collFind s c id with
  | none => s
  | some k =>
    match segFind k owner seq stage with
    | none => s
    | some g =>
      if !(g.st = .slot || g.st = .endpoint || g.st = .pass) || g.got < k.need owner stage then s
      else
        let (ls, ps) := if g.st = .endpoint then endRead s k seq else (g.lanes, g.poison)
        let (ls, s) := if ls.isEmpty then noLanes s k (k.count seq) else (ls, s)
        let g := { g with lanes := ls, poison := joinPoison (k.stripes seq) ps g.poison }
        let tgt := k.targets owner stage
        let s := tgt.foldl (fun s r => sendSeg s k g r.1 r.2) s
        let s := if k.writes owner stage then writeSeg s k g else s
        let g := { g with acks := tgt.length, st := if tgt.isEmpty then .done else if g.st = .slot then .sent else .endSent }
        onSeg s c id owner seq stage fun _ => g

/-! ### COLL_AGREEMENT (R304, R310, R313, R318) -/

/-- Segments of the next batch: of a reduction with phase 1, 64; in drip mode, one; else all. -/
def nextBatch (k : Coll) : List (Nat × Nat) :=
  let rest := k.plan.drop (if k.drips || k.desc.red = 1 || k.desc.red = 2 then k.agreed * k.batch else
    (if k.agreed = 0 then 0 else k.plan.length))
  if k.drips || k.desc.red = 1 || k.desc.red = 2 then rest.take k.batch else rest

/-- Whether this package contributes to a segment of `owner`: to every segment of a reduction, else to its own. -/
def Coll.gives (k : Coll) (owner : Nat) : Bool := k.desc.op = 1 || owner = k.rank

/-- The contributing nibs' rings of a drip collective: nib, ring, bytes of a segment. -/
def dripRings (s : State) (k : Coll) (owner seq : Nat) : List (Nat × Nat × Nat) :=
  if !k.gives owner then []
  else
    let parts := if k.desc.op = 1 then k.parts else (part0 s k).toList
    let w := if k.desc.op = 1 then fmtBytes k.desc.inFmt else 4
    (parts.filter fun x => (cdescOf x.desc).drip).map fun x => (x.nib, bits (cdescOf x.desc).src.toNat 3 0, k.count seq * w)

/-- Whether a segment's elements are present at every contributor of this package (R318). -/
def dripReady (s : State) (k : Coll) (b : List (Nat × Nat)) : Bool :=
  b.all fun g => (dripRings s k g.1 g.2).all fun x => (ringOf (nibOf s x.1) x.2.1).fill ≥ x.2.2

/-- A segment begins to wait for a slot, with what this package brings to it; a ring gives up the bytes copied. Where a line's
result will come back, the segment has an entry for that as well (R305). -/
def startSeg (order : List Nat) (s : State) (c id : Nat) (g : Nat × Nat) : State :=
  match collFind s c id with
  | none => s
  | some k =>
    let (ls, ps, w) := if k.gives g.1 then ownLanes s k order (segAgreed k g.1 g.2) g.1 g.2 else ([], [], false)
    let s := if w then collErr s c id 1 k.status else s
    let s := (dripRings s k g.1 g.2).foldl (fun s x => onNib s x.1 fun b => ringPop b x.2.1 x.2.2) s
    let bad := ps.any fun b => b
    let s := if bad then bumpF s Reg.RTR_COLL_POISON 31 0 1 else s
    onColl s c id fun k =>
      { k with segs := k.segs ++ (k.entries g.1).map fun n =>
          if n = 0 then ⟨g.1, g.2, 0, .waiting, s.ftc, if k.gives g.1 then 1 else 0, ls, ps, false, 0, bad⟩
          else ⟨g.1, g.2, n, if k.reduces g.1 n then .idle else .pass, s.ftc, 0, [], [], false, 0, false⟩ }

/-- The agreement words of this package for a batch: those of a sum that is exact (R310). -/
def ownWords (s : State) (k : Coll) (b : List (Nat × Nat)) : List Nat :=
  if k.desc.red = 1 || k.desc.red = 2 then
    (b.map fun g => segWords k.desc.inFmt (k.count g.2) ((grainsAt s k g.1 g.2).map (·.1))).flatten
  else []

/-- The grains of this package. -/
def Coll.ownGrains (k : Coll) : Nat := (k.parts.map fun x => (cdescOf x.desc).grains).sum

/-- This package's digest, grain total and words for a batch go to every other member (R304, R310). -/
def sendAgree (s : State) (k : Coll) (words : List Nat) : State :=
  (k.mem.filter fun a => a ≠ k.mem.getD k.rank 0).foldl (fun s a =>
    send s (.link "AGREE" 2 a k.ctx ([k.id, k.agreed, (groupDigest k.desc).toNat, k.ownGrains] ++ words))) s

/-- COLL_AGREEMENT (R304, R310): the members of collective `id` of context `c` agree on its next batch; `others` is what
each other member package brings, `order` the order in which this package's grains reach the slab (R315). -/
def agreement (s : State) (c id : Nat) (others : List AgreeIn) (order : List Nat) : State :=
  match collFind s c id with
  | none => s
  | some k =>
    let exact := k.desc.red = 1 || k.desc.red = 2
    let b := nextBatch k
    if !collWhole s k || k.status ≠ 0 || others.length + 1 ≠ k.m || (k.agreed ≠ 0 && b.isEmpty) || !dripReady s k b then s
    else
      let own := ownWords s k b
      let s := sendAgree s k own
      let same := (others.all fun o => o.digest = groupDigest k.desc)
        && k.parts.all fun x => sameGroup (cdescOf x.desc) k.desc
      let grains := k.ownGrains + (others.map (·.grains)).sum
      if !same then onColl s c id fun k => { k with status := 4, segs := [] }
      else if exact && grains ≠ k.desc.addends then
        onColl s c id fun k => { k with status := 3, grains := grains, segs := [] }
      else
        let words := (List.range own.length).map fun i => others.foldl (fun w o => joinWords w (o.words.getD i 0)) (own.getD i 0)
        let s := if words.any isSpecial then collErr s c id 0 0 else s
        let s := onColl s c id fun k =>
          { k with grains := grains, words := k.words ++ words, agreed := k.agreed + 1 }
        b.foldl (fun s g => startSeg order s c id g) s

/-- COLL_AGREEMENT. -/
def execCollAgreement (c id : Nat) (others : List AgreeIn) (order : List Nat) (s : State) : Out :=
  .next (agreement s c id others order)

/-! ### SLAB_SLOT_GRANT (R316) -/

/-- The next free slot is granted. -/
def slotGrant (s : State) : State :=
  match slabPick s with
  | none => s
  | some (k, g) =>
    segProgress (onSeg s k.ctx k.id g.owner g.seq g.stage fun g => { g with st := .slot }) k.ctx k.id g.owner g.seq g.stage

/-- SLAB_SLOT_GRANT. -/
def execSlabSlotGrant (s : State) : Out := .next (slotGrant s)

/-! ### SEGMENT_ARRIVE and SEGMENT_ACKNOWLEDGE (R322, R323) -/

/-- A segment that arrives is answered to the member of rank `src` that sent it. -/
def answerSeg (s : State) (k : Coll) (src owner seq mark : Nat) (ok : Bool) : State :=
  send s (.link (if ok then "SEGMENT_ACK" else "SEGMENT_AGAIN") 2 (k.mem.getD src 0) k.ctx [k.id, owner, seq, mark])

/-- The entry of a segment at this package that a stage belongs to. -/
def segEntry (k : Coll) (owner seq stage : Nat) : Option CSeg :=
  let o := k.mem.getD owner 0
  let me := k.mem.getD k.rank 0
  k.segs.find? fun g => g.owner = owner && g.seq = seq
    && (k.desc.op ≠ 1 || (g.stage ≤ stage && stage ≤ k.lastStage o me 6 g.stage))

/-- SEGMENT_ARRIVE (R322, R323): from the member of rank `src`, with `members` packages in it, its lanes and poison by stripe;
`mark` is 8 times the stage that it enters, with the sender's own stage. `lost` tells whether the sender reports bytes lost
beyond recovery (R290), `ecc` what the slot's ECC finds (0 nothing, 1 a corrected error, 2 an uncorrectable one). It waits
outside while its segment has no slot. -/
def segArrive (s : State) (c id src owner seq mark members : Nat) (lanes : List Nat) (poison : List Bool)
    (crc : Nat) (lost : Bool) (ecc : Nat) : State :=
  match collFind s c id with
  | none => s
  | some k =>
    match segEntry k owner seq (mark / 8) with
    | none => s
    | some g =>
      let ok := crc = segCrc k.desc.red lanes
      if g.st = .idle then onSeg s c id owner seq g.stage fun g => { g with st := .waiting, since := s.ftc }
      else if !(g.st = .slot || g.st = .endpoint || g.st = .pass) then s
      else if !ok && !g.resent && !lost then
        onSeg (answerSeg s k src owner seq mark false) c id owner seq g.stage fun g => { g with resent := true }
      else
        let slot := g.st = .slot
        let s := if slot && ecc = 1 then corrected (bumpF s Reg.RTR_SLAB_ECC 15 0 1) 0x01 11 (Config.hubUnit 1).toNat 1 else s
        let s := if slot && ecc = 2 then
            let (k, s) := takeFree s
            raise (setBit s Reg.RTR_SLAB_ECC 16) 1 0x14 9 (some c) id (Config.freeWord k).toNat
          else s
        let dead := !ok || lost || (slot && ecc = 2)
        let s := if dead && !g.counted then bumpF s Reg.RTR_COLL_POISON 31 0 1 else s
        let s := if lost then onColl s c id fun k => { k with status := if k.status = 0 then 5 else k.status } else s
        let s := answerSeg s k src owner seq mark true
        let s := onSeg s c id owner seq g.stage fun g => { g with resent := false, counted := g.counted || dead }
        let ps := if dead then List.replicate (k.stripes seq) true else poison
        segProgress (joinSeg s k { g with resent := false } lanes ps members) c id owner seq g.stage

/-- SEGMENT_ARRIVE (R293): it reaches the context that holds its job tag; with none it is dropped. -/
def execSegmentArrive (tag id src owner seq mark members : Nat) (lanes : List Nat) (poison : List Bool)
    (crc : Nat) (lost : Bool) (ecc : Nat) (s : State) : Out :=
  .next (match tagCtx s tag with
    | some c => segArrive s c id src owner seq mark members lanes poison crc lost ecc
    | none => bumpF s Reg.LNK_JOBTAG_DROP 31 0 1)

/-- SEGMENT_ACKNOWLEDGE (R322): the member of rank `to` has accepted a segment, or asks for it again; `mark` is that of the
copy. -/
def segAck (s : State) (c id owner seq mark tgt : Nat) (ok : Bool) : State :=
  match collFind s c id with
  | none => s
  | some k =>
    match segFind k owner seq (mark % 8) with
    | none => s
    | some g =>
      if g.st ≠ .sent && g.st ≠ .endSent then s
      else if ok then
        onSeg s c id owner seq g.stage fun g => { g with acks := g.acks - 1, st := if g.acks ≤ 1 then .done else g.st }
      else sendSeg s k g (k.mem.getD tgt 0) (mark / 8)

/-- SEGMENT_ACKNOWLEDGE. -/
def execSegmentAcknowledge (c id owner seq mark tgt : Nat) (ok : Bool) (s : State) : Out :=
  .next (segAck s c id owner seq mark tgt ok)

/-! ### ENDPOINT_FALLBACK (R317, R325) -/

/-- Whether a segment may go on in endpoint mode at time `t`. -/
def mayFallBack (s : State) (k : Coll) (g : CSeg) (t : Nat) : Bool :=
  let d := match part0 s k with | some x => cdescOf x.desc | none => k.desc
  g.st = .waiting && d.fallback ≠ 0xFFFF && d.endpoint ≠ 0 && 1 ≤ d.red && d.red ≤ 4
    && g.since + 1000 * d.fallback ≤ t
    && !(k.segs.any fun h => h.st = .endpoint && h.seq = g.seq)
    && k.segs.countP CSeg.busy < 64 && k.status ∉ [2, 3, 4]

/-- A segment goes on in endpoint mode: its place is zeroed, and what this package brings is added. -/
def fallBack (s : State) (k : Coll) (g : CSeg) : State :=
  let s := bumpF s Reg.RTR_COLL_ENDPOINT 31 0 1
  let s := writeDpa s (endPlace s k g.seq) (List.replicate (k.count g.seq * laneBytes k.desc.red) 0) [] false
  let s := endAdd s k g.seq g.lanes g.poison
  segProgress (onSeg s k.ctx k.id g.owner g.seq g.stage fun g => { g with st := .endpoint, lanes := [] })
    k.ctx k.id g.owner g.seq g.stage

/-- ENDPOINT_FALLBACK: at time `t`, FALLBACK_US of a segment is tested; a slot that is free goes first. -/
def endpointFallback (s : State) (c id owner seq stage t : Nat) : State :=
  let s := atTime s t
  match collFind s c id with
  | none => s
  | some k =>
    match segFind k owner seq stage with
    | none => s
    | some g =>
      if !mayFallBack s k g s.ftc then s
      else match slabPick s with
        | some (k', g') => if k'.ctx = c && k'.id = id && g'.owner = owner && g'.seq = seq
            && g'.stage = stage then slotGrant s else fallBack s k g
        | none => fallBack s k g

/-- ENDPOINT_FALLBACK. -/
def execEndpointFallback (c id owner seq stage t : Nat) (s : State) : Out :=
  .next (endpointFallback s c id owner seq stage t)

/-! ### COLL_COMPLETE (R321, R324) -/

/-- Whether a collective has done all it will: an early end, or every segment of every batch. -/
def collOver (k : Coll) : Bool :=
  k.status = 2 || k.status = 3 || k.status = 4 ||
    (k.agreed ≠ 0 && (nextBatch k).isEmpty && k.segs.all fun g => g.st = .done)

/-- The results of a collective that are still missing when a member is lost in phase 2 (R324): written poisoned, with
contents that the manual does not state. -/
def writeMissing (s : State) (k : Coll) : State :=
  let mine := k.plan.filter fun g => (k.desc.op ≠ 1 || g.1 = k.rank)
    && !(k.segs.any fun x => x.owner = g.1 && x.seq = g.2 && k.writes x.owner x.stage
      && (x.st = .done || x.st = .sent || x.st = .endSent))
  mine.foldl (fun s g =>
    let n := k.count g.2
    let bytes := if k.desc.op = 1 then n * fmtBytes k.desc.outFmt else 4 * n
    let words := (bytes + 3) / 4
    let bs := ((List.range words).map fun i => natLE 4 (Config.freeWord (s.free + i)).toNat).flatten
    let s := bumpF { s with free := s.free + words } Reg.RTR_COLL_POISON 31 0 1
    writeResult s k g.1 g.2 (bs.take bytes) (List.replicate ((bytes + 63) / 64) true)) s

/-- The status with which a collective completes. -/
def collStatus (k : Coll) : Nat := if k.status = 0 && k.bad then 1 else k.status

/-- Bit of RTR_COLL_ERR of a status. -/
def statusBit (st : Nat) : Nat :=
  match st with | 1 => 4 | 2 => 5 | 3 => 2 | 4 => 3 | _ => 6

/-- The collective engine signals a nib's tally, behind the signals it holds for that channel (R262). -/
def collSignal (s : State) (c : Nat) (dst : SigDst) : State :=
  hubSignal s .coll c dst 1 []

/-- Each contributing nib receives its completion word and the signal of its coll (R321). -/
def collReport (s : State) (k : Coll) (st : Nat) : State :=
  k.parts.foldl (fun s x =>
    let a := bits (cdescOf x.desc).status.toNat 47 0
    let s := onNib s x.nib fun b => writeWell 9 b a (natLE 8 (st + 2 ^ 32 * k.id)) [false]
    collSignal s k.ctx x.dst) s

/-- COLL_COMPLETE (R321). -/
def collComplete (s : State) (c id : Nat) : State :=
  match collFind s c id with
  | none => s
  | some k =>
    if !collOver k then s
    else
      let s := if k.status = 2 && k.agreed ≠ 0 then writeMissing s k else s
      let st := collStatus k
      let s := collReport s k st
      let s := bumpF s (perCtx Reg.RTR_CTX_DONE 0x20 c) 31 0 1
      let s := { s with colls := s.colls.filter fun k => !(k.ctx = c && k.id = id) }
      if st = 0 then s
      else
        let s := collErr s c id (statusBit st) st
        if st = 3 || st = 4 then raise s 2 0x27 9 (some c) id st else raise s 1 0x13 9 (some c) id st

/-- COLL_COMPLETE. -/
def execCollComplete (c id : Nat) (s : State) : Out := .next (collComplete s c id)

end Sys2Proof.Machine
end

