-- ==== Sys2Proof/Machine/CtlFamily.lean ====
section
/-!
DEFINITION. The instructions of the control slot (R85), each as the issue of a bundle that holds it alone.
-/
namespace Sys2Proof.Machine

/-- ALU (R86): Computes sd from sa and sb using the function selected by FUNC. -/
def execAlu (n : Nat) (p : Pred) (sd sa sb : BitVec 5) (func : BitVec 7) (s : State) : Out :=
  slotCmd s n (ctlBundle p (.alu sd sa sb func)) {}

/-- ADDI_S (R85): Sets sd to sa plus the sign-extended imm12. -/
def execAddiS (n : Nat) (p : Pred) (sd sa : BitVec 5) (imm : BitVec 12) (s : State) : Out :=
  slotCmd s n (ctlBundle p (.immS 0 sd sa imm)) {}

/-- ANDI_S (R85): Sets sd to sa AND the sign-extended imm12. -/
def execAndiS (n : Nat) (p : Pred) (sd sa : BitVec 5) (imm : BitVec 12) (s : State) : Out :=
  slotCmd s n (ctlBundle p (.immS 1 sd sa imm)) {}

/-- ORI_S (R85): Sets sd to sa OR the sign-extended imm12. -/
def execOriS (n : Nat) (p : Pred) (sd sa : BitVec 5) (imm : BitVec 12) (s : State) : Out :=
  slotCmd s n (ctlBundle p (.immS 2 sd sa imm)) {}

/-- XORI_S (R85): Sets sd to sa XOR the sign-extended imm12. -/
def execXoriS (n : Nat) (p : Pred) (sd sa : BitVec 5) (imm : BitVec 12) (s : State) : Out :=
  slotCmd s n (ctlBundle p (.immS 3 sd sa imm)) {}

/-- SHLI_S (R85): Sets sd to sa shifted left by imm12[4:0]. -/
def execShliS (n : Nat) (p : Pred) (sd sa : BitVec 5) (imm : BitVec 12) (s : State) : Out :=
  slotCmd s n (ctlBundle p (.immS 4 sd sa imm)) {}

/-- SHRI_S (R85): Sets sd to sa shifted right logically by imm12[4:0]. -/
def execShriS (n : Nat) (p : Pred) (sd sa : BitVec 5) (imm : BitVec 12) (s : State) : Out :=
  slotCmd s n (ctlBundle p (.immS 5 sd sa imm)) {}

/-- SRAI_S (R85): Sets sd to sa shifted right arithmetically by imm12[4:0]. -/
def execSraiS (n : Nat) (p : Pred) (sd sa : BitVec 5) (imm : BitVec 12) (s : State) : Out :=
  slotCmd s n (ctlBundle p (.immS 6 sd sa imm)) {}

/-- MOVI_S (R85): Sets sd to the sign-extended imm17. -/
def execMoviS (n : Nat) (p : Pred) (sd : BitVec 5) (imm : BitVec 17) (s : State) : Out :=
  slotCmd s n (ctlBundle p (.movi sd imm)) {}

/-- MOVH_S (R85): Writes imm16 into sd[31:16] and keeps sd[15:0]. -/
def execMovhS (n : Nat) (p : Pred) (sd : BitVec 5) (imm : BitVec 16) (s : State) : Out :=
  slotCmd s n (ctlBundle p (.movh sd imm)) {}

/-- PSET (R85): Sets every bit of pd to the result of comparing sa with sb under COND. -/
def execPset (n : Nat) (p : Pred) (pd : BitVec 3) (sa sb : BitVec 5) (cond : BitVec 4) (s : State) : Out :=
  slotCmd s n (ctlBundle p (.pset pd sa sb cond)) {}

/-- PLOG (R85): Sets pd to a bitwise logic function of pa and pb. -/
def execPlog (n : Nat) (p : Pred) (pd pa pb : BitVec 3) (pfn : BitVec 2) (s : State) : Out :=
  slotCmd s n (ctlBundle p (.plog pd pa pb pfn)) {}

/-- AADD_A (R85): Sets ad to aa plus the shifted, sign-extended sb. -/
def execAaddA (n : Nat) (p : Pred) (ad aa : BitVec 4) (sb : BitVec 5) (shift : BitVec 3) (s : State) : Out :=
  slotCmd s n (ctlBundle p (.aadd ad aa sb shift)) {}

/-- AADDI_A (R85): Sets ad to aa plus imm14. -/
def execAaddiA (n : Nat) (p : Pred) (ad aa : BitVec 4) (imm : BitVec 14) (s : State) : Out :=
  slotCmd s n (ctlBundle p (.aaddi ad aa imm)) {}

/-- ASET_A (R85): Writes sa into one half of ad and keeps the other half. -/
def execAsetA (n : Nat) (p : Pred) (ad : BitVec 4) (sa : BitVec 5) (half : Bool) (s : State) : Out :=
  slotCmd s n (ctlBundle p (.aset ad sa half)) {}

/-- AMV_S (R85): Copies one half of aa into sd. -/
def execAmvS (n : Nat) (p : Pred) (sd : BitVec 5) (aa : BitVec 4) (half : Bool) (s : State) : Out :=
  slotCmd s n (ctlBundle p (.amv sd aa half)) {}

/-- BRA (R80): A taken branch to A + offset, followed by exactly three delay bundles. -/
def execBra (n : Nat) (p : Pred) (off : BitVec 17) (s : State) : Out :=
  slotCmd s n (ctlBundle p (.bra off)) {}

/-- JAL (R82): A taken branch that also writes A + 4 into s31. -/
def execJal (n : Nat) (p : Pred) (off : BitVec 17) (s : State) : Out :=
  slotCmd s n (ctlBundle p (.jal off)) {}

/-- JR (R85): A taken branch to the address in sa[12:0]. -/
def execJr (n : Nat) (p : Pred) (sa : BitVec 5) (s : State) : Out :=
  slotCmd s n (ctlBundle p (.jr sa)) {}

/-- LOOP_S (R83): Sets up a hardware loop whose count is taken from a register. -/
def execLoopS (n : Nat) (p : Pred) (sc : BitVec 5) (len : BitVec 10) (s : State) : Out :=
  slotCmd s n (ctlBundle p (.loops sc len)) {}

/-- LOOPI (R83): Sets up a hardware loop whose count is an immediate. -/
def execLoopi (n : Nat) (p : Pred) (count : BitVec 12) (len : BitVec 10) (s : State) : Out :=
  slotCmd s n (ctlBundle p (.loopi count len)) {}

/-- RDSYS (R87): Reads a system value selected by SEL into sd, latching the upper NIB_CYCLE half on SEL 0. -/
def execRdsys (n : Nat) (p : Pred) (sd : BitVec 5) (sel : BitVec 4) (s : State) : Out :=
  slotCmd s n (ctlBundle p (.rdsys sd sel)) {}

/-- HALT (R88): Ends the nib's program; issue stops, work in flight completes, and completion is reported to the context. -/
def execHalt (n : Nat) (p : Pred) (s : State) : Out :=
  slotCmd s n (ctlBundle p (.halt)) {}

/-- TRAP (R85): Raises fault 0x06 with a 16-bit code. -/
def execTrap (n : Nat) (p : Pred) (code : BitVec 16) (s : State) : Out :=
  slotCmd s n (ctlBundle p (.trap code)) {}

end Sys2Proof.Machine
end

