-- ==== Sys2Proof/Machine/MatFamily.lean ====
section
/-!
DEFINITION. The instructions of the matrix slot (R110), each as the issue of a bundle that holds it alone.
-/
namespace Sys2Proof.Machine

/-- MLD (R111): Loads part PART of a weight stationary tile from the weight port into the shadow registers of the selected tines. -/
def execMld (n : Nat) (p : Pred) (f : MatF) (c : Cyc) (s : State) : Out :=
  slotCmd s n (matBundle p 1 f) c

/-- MLDA (R112): Loads column ROW of each selected tine's shadow from its activation port. -/
def execMlda (n : Nat) (p : Pred) (f : MatF) (c : Cyc) (s : State) : Out :=
  slotCmd s n (matBundle p 2 f) c

/-- MMUL (R114): One matrix step in the selected mode, with optional swap, initialise, transpose and drain. -/
def execMmul (n : Nat) (p : Pred) (f : MatF) (c : Cyc) (s : State) : Out :=
  slotCmd s n (matBundle p 3 f) c

/-- MDRAIN (R115): Drains an accumulator row of each selected tine into its drain queue, for stream-out or for mpop. -/
def execMdrain (n : Nat) (p : Pred) (f : MatF) (s : State) : Out :=
  slotCmd s n (matBundle p 4 f) {}

/-- MPOP (R116): Moves the drain queue heads of the selected tines into VD, or writes zeros and sets POP_EMPTY. -/
def execMpop (n : Nat) (p : Pred) (f : MatF) (s : State) : Out :=
  slotCmd s n (matBundle p 5 f) {}

end Sys2Proof.Machine
end

