-- ==== Sys2Proof/Machine/MemFamily.lean ====
section
/-!
DEFINITION. Commands of the HBM4 memory (R223, R226 to R241, R352): regions, MEM_CMD, channel reads and writes, refresh
and calibration, heat, failing channels, BAR4.
-/
namespace Sys2Proof.Machine

/-- REGION_WRITE (R453): word `i` of region `r`. -/
def execRegionWrite (a : Acc) (r i : Nat) (v : BitVec 32) (s : State) : Out :=
  if r < 64 ∧ i < 4 then regCmd s a (regOff Reg.MEM_REG_BASE r + 4 * i) fun s => regionWrite s r i v
  else .fault .noSuchUnit

/-- ZERO (R226): a write of MEM_CMD. -/
def execZero (a : Acc) (r : Nat) (s : State) : Out := regCmd s a Reg.MEM_CMD fun s => memCmd s 1 (r % 64)

/-- REBUILD (R230): a write of MEM_CMD. -/
def execRebuild (a : Acc) (r : Nat) (s : State) : Out := regCmd s a Reg.MEM_CMD fun s => memCmd s 2 (r % 64)

/-- REFOLD (R231): a write of MEM_CMD. -/
def execRefold (a : Acc) (r : Nat) (s : State) : Out := regCmd s a Reg.MEM_CMD fun s => memCmd s 3 (r % 64)

/-- REBUILD_STRIPE (R230). -/
def execRebuildStripe (r : Nat) (s : State) : Out :=
  if r < 64 then .next (rebuildStripe s r) else .fault .noSuchUnit

/-! ### Words of a channel -/

/-- What the on-die ECC of a read corrects: the count saturates, and R417 decides on an entry. -/
def eccCorrected (s : State) (ch k : Nat) : State :=
  if k = 0 then s else corrected (bumpF s (chReg Reg.MEM_CH_ECC ch) 15 0 k) 0x02 3 ch k

/-- What the on-die ECC of a read cannot correct: the word is poisoned, and an error names channel and region (R226). -/
def eccUncorrected (s : State) (l : Loc) (dpa : Nat) : State :=
  let s := addPoison s l.ch l.gran (dpa % 4096)
  let s := setBit (memErr s 6 l.r l.ch) (chReg Reg.MEM_CH_ECC l.ch) 16
  raise s 1 0x11 3 (some (regionOf s l.r).ctx) l.ch (dpa + l.r * 2 ^ 40)

/-- A read of the 64 B word of a DPA: `corr` errors corrected, or an uncorrectable one. The bus shows it. -/
def hbmRead (s : State) (dpa corr : Nat) (uncorr : Bool) : State :=
  let dpa := dpa / 64 * 64
  match locate s dpa with
  | none => s
  | some l =>
    let s := eccCorrected s l.ch corr
    let s := if uncorr then eccUncorrected s l dpa else s
    let (bs, p) := readWord s l (dpa % 4096) 64
    { s with busData := leNat bs, busPoison := p }

/-- HBM_READ (R226, R228): the word under a DPA is read; a DPA outside every region reaches no channel (R222). -/
def execHbmRead (dpa corr : Nat) (uncorr : Bool) (s : State) : Out := .next (hbmRead s dpa corr uncorr)

/-- HBM_WRITE (R226, R227): a plain write at a DPA. -/
def execHbmWrite (dpa : Nat) (data : List (BitVec 8)) (poison : Bool) (s : State) : Out :=
  .next (writeDpa s dpa data (List.replicate (data.length / 64 + 2) poison) false)

/-- Whether `n` bytes at a DPA meet a floating-point adder region of an Exact Mode context (R238). -/
def exactAdder (s : State) (dpa n : Nat) : Bool :=
  (List.range ((dpa % 4096 + n + 4095) / 4096)).any fun i =>
    let a := dpa / 4096 * 4096 + 4096 * i
    fpAdderAt s a && match regionAt s (a / 4096) with
      | some r => exactMode s (regionOf s r).ctx
      | none => false

/-- ADDER_WRITE (R237): a nib's write at a DPA, which adds in an adder region. One that meets a floating-point adder region of
an Exact Mode context has no effect (R238). -/
def execAdderWrite (dpa : Nat) (data : List (BitVec 8)) (poison : Bool) (s : State) : Out :=
  .next (if exactAdder s dpa data.length then s
    else writeDpa s dpa data (List.replicate (data.length / 64 + 2) poison) true)

/-! ### Refresh and calibration (R232 to R236) -/

/-- REFRESH_SLOT (R232, R234): the channel serves no request during the slot; a slot that is off-schedule for some context
shows (R235). -/
def execRefreshSlot (ch t : Nat) (s : State) : Out :=
  if ch < 256 then .next (slotShared (atTime s t) ch) else .fault .noSuchUnit

/-- A calibration burst begins, is counted, and lasts 1.5 µs (R232, R246, log 137). -/
def calibrate (s : State) (ch : Nat) : State :=
  bumpF { s with calEnd := put 0 s.calEnd ch (s.ftc + 1500) } (chReg Reg.MEM_CH_CAL ch) 31 0 1

/-- CALIBRATION_SLOT (R234). -/
def execCalibrationSlot (ch t : Nat) (s : State) : Out :=
  if ch < 256 then .next (calibrate (slotShared (atTime s t) ch) ch) else .fault .noSuchUnit

/-- OPPORTUNISTIC_CALIBRATION (R233, R236): only where no memory slot table binds the channel. -/
def execOpportunisticCalibration (ch t : Nat) (s : State) : Out :=
  if ch < 256 then
    let s := atTime s t
    .next (if tableBinds s ch then s else calibrate s ch)
  else .fault .noSuchUnit

/-- OFF_SCHEDULE_REFRESH (R236): a hot stack refreshes beside a table without hot slots. -/
def execOffScheduleRefresh (st : Nat) (s : State) : Out :=
  if st < 8 then
    let off := stkReg Reg.MEM_STK_STATUS st
    .next (if coldTable s st && getF s off 9 8 ≥ 1 then setBit s off 10 else s)
  else .fault .noSuchUnit

/-- STACK_TEMP_REPORT (R240). -/
def execStackTempReport (st temp t : Nat) (s : State) : Out :=
  if st < 8 then .next (stackTemp (atTime s t) st temp) else .fault .noSuchUnit

/-- CHANNEL_FAIL (R228, R229, R231): `fabric` tells that it fails with the fabric of its compute die, which then serves no
load until package reset (R426). -/
def execChannelFail (ch : Nat) (fabric : Bool) (s : State) : Out :=
  if ch < 256 then
    let s := if fabric && !s.deadDies.contains (ch / 64) then { s with deadDies := s.deadDies ++ [ch / 64] } else s
    .next (if chState s ch = 3 then s
      else channelFails (raise s 0 0x04 3 none ch (3 + 256 * (Config.causeCode 10).toNat)) ch 3)
  else .fault .noSuchUnit

/-! ### BAR4 (R350, R352) -/

/-- A BAR4 access that no region of the context takes: reads return all ones, writes are discarded. -/
def bar4Miss (s : State) (len : Nat) (read : Bool) : State :=
  let s := setBit s Reg.AVF_ERR 0
  if read then { s with busData := 2 ^ (8 * len) - 1, busPoison := false } else s

/-- A BAR4 access at a DPA of a function's context. -/
def bar4 (s : State) (c dpa len : Nat) (wr : Option (List Byte × Bool)) : State :=
  if !dpaOwned (len / 4096 + 3) s c dpa len then bar4Miss s len wr.isNone
  else match wr with
    | none =>
      let r := readDpa (len + 1) s dpa len
      { s with busData := leNat r.1, busPoison := r.2.any id }
    | some (bs, ep) => writeDpa s dpa (bs.take len) (List.replicate (len / 64 + 2) ep) false

/-- BAR4_ACCESS (R352): a read of `len` bytes at offset `off`, or a write, whose EP bit poisons its words. A function of
a port that its context is not bound to reaches no DPA of it. -/
def execBar4Access (a : Acc) (off len : Nat) (wr : Option (List (BitVec 8) × Bool)) (s : State) : Out :=
  match a with
  | .owl => .fault .noSuchUnit
  | .host p f =>
    if !accReady s a then .next s
    else if portOf s f ≠ p then .next (bar4Miss s len wr.isNone)
    else .next (bar4 s f (getReg64 s (perCtx Reg.AVF_CTX_BAR4 0x1000 f) + off) len wr)

end Sys2Proof.Machine
end

