-- ==== Sys2Proof/Machine/Power.lean ====
section
/-!
DEFINITION. Power, clocks and heat (R398, R401 to R411): input conditions, cluster wakes, clock steps, the cap, clock
stops, temperatures, samples.
-/
namespace Sys2Proof.Machine

/-! ### Powering off (R398, R408) -/

/-- Registers of the power controller but the domain states. -/
def pwrReg (off : Nat) : Bool := 0x700000 ≤ off && off < 0x700100

/-- Every domain except CLK_AON is powered off; the package returns only by an always-on reset (R398). -/
def powerOff (s : State) : State :=
  let t := aonKeeps s
  let t := { t with regs := s.regs.filter (fun p => aonReg p.1 || pwrReg p.1), pstep := 7, sensors := s.sensors }
  setDom t 56 2

/-- A fatal error that powers the package off. -/
def shutDown (s : State) (code info : Nat) : State := powerOff (fatal s code (Config.hubUnit 2).toNat info)

/-- Whether the package is powered beyond the always-on domain. -/
def powered (s : State) : Bool := 1 ≤ s.pstep && s.pstep ≠ 7

/-- INPUT_OVER_VOLTAGE (R398, R418). -/
def execInputOverVoltage (s : State) : Out :=
  .next (if powered s then shutDown (setBit s Reg.PWR_ERR 1) 0x30 1 else s)

/-- INPUT_UNDER_VOLTAGE (R398, R418). -/
def execInputUnderVoltage (s : State) : Out :=
  .next (if powered s then shutDown (setBit s Reg.PWR_ERR 0) 0x30 2 else s)

/-- INPUT_BELOW_AON_FLOOR (R398): the package is unpowered. -/
def execInputBelowAonFloor (s : State) : Out := .next { afterReset s with pstep := 0 }

/-! ### Clocks (R404, R405) -/

/-- MHZ of a die's arithmetic clock. -/
def dieClk (s : State) (d : Nat) : Nat := getF s (Reg.PWR_DIE_CLK + 4 * d) 10 0

/-- Whether a clock stop of a die is in progress. -/
def dieStopped (s : State) (d : Nat) : Bool := getF s (Reg.PWR_DIE_CLK + 4 * d) 28 28 = 1

/-- Change STOPPED. -/
def setStopped (s : State) (d v : Nat) : State := setF s (Reg.PWR_DIE_CLK + 4 * d) 28 28 v

/-- Floor of a die: the largest FLOOR_MHZ of the memory slot tables loaded on it, or 600 (R405). -/
def dieFloor (s : State) (d : Nat) : Nat :=
  (List.range 16).foldl (fun m c =>
    match (ctxOf s c).memTab with
    | some t => if (ctxOf s c).loaded && (ctxClusters s c).any (fun k => k / 12 = d) then Nat.max m t.floorMhz else m
    | none => m) 600

/-- Floor that a LOAD which waits for the clock asks of a die (R410). -/
def waitingFloor (s : State) (d : Nat) : Nat :=
  (s.cmds.filter fun x => x.f 0 1 = 1 && !x.started).foldl (fun m x =>
    match loadSource s x with
    | none => m
    | some (bs, _) => match schedOf s x.c bs with
      | some sc => match sc.memTab with
        | some t => if (neededDies s x.c bs).contains d then Nat.max m t.floorMhz else m
        | none => m
      | none => m) 0

/-- Highest arithmetic clock that PWR_CLK_MAX, the cap and the temperature allow (R405, R406, R408, R410). -/
def clkLimit (s : State) (d : Nat) : Nat :=
  Nat.min (getF s Reg.PWR_CLK_MAX 10 0) (Nat.min (look 1000 s.capClk d) (look 1000 s.thermClk d))

/-- The clock toward which a die moves: never below its floor; a load that waits raises it up to PWR_CLK_MAX. -/
def clkTarget (s : State) (d : Nat) : Nat :=
  Nat.max (dieFloor s d) (Nat.min (getF s Reg.PWR_CLK_MAX 10 0) (Nat.max (waitingFloor s d) (clkLimit s d)))

/-- PENDING: a change waits for a frame boundary. -/
def showPending (s : State) (d : Nat) : State :=
  setF s (Reg.PWR_DIE_CLK + 4 * d) 27 27 (if clkTarget s d = dieClk s d then 0 else 1)

/-- A change of one step of 25 MHz takes effect on a die; during a clock stop it waits (R405, R410). -/
def clockStep (s : State) (d : Nat) : State :=
  if dieStopped s d then showPending s d
  else
    let (now, want) := (dieClk s d, clkTarget s d)
    let next := if now < want then now + 25 else if want < now then now - 25 else now
    showPending (setF s (Reg.PWR_DIE_CLK + 4 * d) 10 0 next) d

/-- A command at a compute die. -/
def onDie (s : State) (d : Nat) (f : State → State) : Out := if d < 4 then .next (f s) else .fault .noSuchUnit

/-- CLOCK_STEP (R405). -/
def execClockStep (d : Nat) (s : State) : Out := onDie s d fun s => clockStep s d

/-! ### Wakes (R401, R402) -/

/-- CLUSTER_WAKE (R402): the oldest wake completes; a cluster that waits for another wake stays WAKING. -/
def execClusterWake (s : State) : Out :=
  match s.wakes with
  | [] => .next s
  | (k, target) :: rest =>
    let s := { s with wakes := rest }
    .next (setDom s (domOf k) (if rest.any fun w => w.1 = k then 3 else target))

/-! ### Input current and clock stops (R398, R407) -/

/-- INPUT_CURRENT_LIMIT (R398): a clock stop on all four dies. -/
def execInputCurrentLimit (s : State) : Out :=
  .next (if !powered s then s
    else (List.range 4).foldl (fun s d => setStopped s d 1) (setBit (setBit s Reg.PWR_STATUS 2) Reg.PWR_ERR 3))

/-- CLOCK_STOP (R407): one period of 1 µs of a clock stop passes on a die. -/
def execClockStop (d : Nat) (s : State) : Out :=
  onDie s d fun s => if dieStopped s d then bumpF s Reg.PWR_CLKSTOP_COUNT 31 0 1 else s

/-! ### Samples and the cap (R406, R409) -/

/-- STATE of PWR_DIEd_TEMP: 0 normal, 1 throttled, 2 clock-stopped. -/
def heatState (s : State) (d : Nat) : Nat := getF s (Reg.PWR_DIE_TEMP + 4 * d) 17 16

/-- POWER_SAMPLE (R409): input voltage in mV, input current in units of 10 mA, power of the domains in units of 10 mW.
The clock stop for input current ends with its cause (R407). -/
def powerSample (s : State) (mv ca : Nat) (doms : List Nat) : State :=
  let w := mv * ca / 100000
  let s := setReg s Reg.PWR_IN (BitVec.ofNat 32 (mv % 65536 + 65536 * (ca % 65536)))
  let s := setF s Reg.PWR_IN_POWER 31 16 (Nat.max (getF s Reg.PWR_IN_POWER 31 16) (Nat.min w 65535))
  let p := s.pwin
  let s := { s with
    pwin := ⟨p.n + 1, p.watts + w, (List.range 60).map fun i => p.doms.getD i 0 + doms.getD i 0⟩ }
  if ca ≤ 7500 && getF s Reg.PWR_STATUS 2 2 = 1 then
    (List.range 4).foldl (fun s d => if heatState s d = 2 then s else setStopped s d 0) (setF s Reg.PWR_STATUS 2 2 0)
  else s

/-- POWER_SAMPLE. -/
def execPowerSample (mv ca : Nat) (doms : List Nat) (s : State) : Out :=
  .next (if powered s then powerSample s mv ca doms else s)

/-- The effective cap (R406): PWR_CAP.WATTS within 300 and 2,600, the board's limit, 2,600 W. -/
def effCap (s : State) : Nat :=
  let w := Nat.min 2600 (Nat.max 300 (getF s Reg.PWR_CAP 15 0))
  if ownerRecs s then Nat.min w (field (runBody s 8) 0x12 2) else w

/-- Whether a die has a running cluster. -/
def dieRuns (s : State) (d : Nat) : Bool := (List.range 12).any fun k => domState s (domOf (12 * d + k)) = 2

/-- The cap takes a clock for a die: 25 MHz lower or higher, or the present one. -/
def capDie (s : State) (avg cap d : Nat) : State :=
  let (now, top) := (dieClk s d, getF s Reg.PWR_CLK_MAX 10 0)
  let next := if cap < avg then Nat.max (dieFloor s d) (now - 25)
    else if 100 * avg < 95 * cap then Nat.min top (now + 25) else now
  showPending { s with capClk := put 1000 s.capClk d (if next ≥ top then 1000 else next) } d

/-- CAP_WINDOW (R406, R409): the window ends, the averages show, and the cap acts. -/
def capWindow (s : State) : State :=
  let p := s.pwin
  let avg := p.watts / Nat.max 1 p.n
  let cap := effCap s
  let dies := (List.range 4).filter (dieRuns s)
  let floored := cap < avg && dies.all fun d => dieClk s d ≤ dieFloor s d
  let s := setF s Reg.PWR_IN_POWER 15 0 (Nat.min avg 65535)
  let s := (List.range 60).foldl (fun s i =>
    setReg s (Reg.PWR_DOM_POWER + 8 * i) (BitVec.ofNat 32 (Nat.min 65535 (p.doms.getD i 0 / Nat.max 1 p.n)))) s
  let s := dies.foldl (fun s d => capDie s avg cap d) { s with pwin := ⟨0, 0, []⟩ }
  let top := getF s Reg.PWR_CLK_MAX 10 0
  let s := setF s Reg.PWR_STATUS 0 0 (if s.capClk.any fun x => x.2 < top then 1 else 0)
  withAlert s fun s =>
    if floored then setBit (setBit s Reg.PWR_STATUS 1) Reg.PWR_ERR 2
    else if avg < cap then setF s Reg.PWR_STATUS 1 1 0 else s

/-- CAP_WINDOW. -/
def execCapWindow (s : State) : Out := .next (if powered s then capWindow s else s)

/-! ### Heat (R408, R241) -/

/-- Whether a temperature calls for a step, which it goes on calling for until it is 3 °C below. -/
def hot (t limit : Nat) (was : Bool) : Bool := limit ≤ t || (was && limit ≤ t + 3)

/-- TEMP of a stack. -/
def stackDeg (s : State) (st : Nat) : Nat := getF s (stkReg Reg.MEM_STK_STATUS st) 7 0

/-- A die acts on its temperatures: the longer stop and the lower step of the compute die and the well die. -/
def heatDie (s : State) (d tc tw : Nat) : State :=
  let old := heatState s d
  let m := Nat.max (stackDeg s (2 * d)) (stackDeg s (2 * d + 1))
  let stop := hot tc 108 (old = 2) || hot tw 103 (old = 2) || hot m 105 (old = 2)
  let warm := hot tc 100 (old ≥ 1) || hot tw 95 (old ≥ 1)
  let off := Reg.PWR_DIE_TEMP + 4 * d
  let s := setF (setF s off 7 0 (Nat.min tc 255)) off 15 8 (Nat.min tw 255)
  let s := setF s off 17 16 (if stop then 2 else if warm then 1 else 0)
  let s := if stop then setBit s Reg.PWR_ERR 5 else if warm then setBit s Reg.PWR_ERR 4 else s
  let s := if stop then setStopped s d 1
    else if old = 2 && getF s Reg.PWR_STATUS 2 2 = 0 then setStopped s d 0 else s
  let (now, lim) := (dieClk s d, look 1000 s.thermClk d)
  let next := if warm then Nat.max (dieFloor s d) (Nat.min lim now - 25) else if stop then lim else Nat.min 1000 (lim + 25)
  showPending { s with thermClk := put 1000 s.thermClk d next } d

/-- The hottest optical engine, the lowest of equals. -/
def hottest (ts : List Nat) : Nat :=
  (List.range 16).foldl (fun b e => if ts.getD b 0 < ts.getD e 0 then e else b) 0

/-- Engine `e` is too hot: its ports go DOWN. -/
def opticsHot (s : State) (e : Nat) : State :=
  [2 * e, 2 * e + 1].foldl (fun s p => if pState s p = 9 || pState s p = 0 then s else portLeaves s p 0 13)
    (setBit s Reg.PWR_ERR 6)

/-- The sensor of R429 that calls for a shutdown. -/
def shutSensor (s : State) (tc tw : List Nat) (hub : Nat) : Option Nat :=
  ((List.range 4).filter fun d => 115 ≤ tc.getD d 0).head?.map (16 + ·)
    |>.or (((List.range 4).filter fun d => 110 ≤ tw.getD d 0).head?.map (20 + ·))
    |>.or (((List.range 8).filter fun n => 110 ≤ stackDeg s n).head?.map (24 + ·))
    |>.or (if 110 ≤ hub then some 32 else none)

/-- THERMAL_SAMPLE (R408): temperatures of the compute dies, the well dies, the hub die and the optical engines; those of
the stacks are what they last reported. -/
def thermalSample (s : State) (tc tw : List Nat) (hub : Nat) (optics : List Nat) : State :=
  let s := (List.range 4).foldl (fun s d => heatDie s d (tc.getD d 0) (tw.getD d 0)) s
  let e := hottest optics
  let s := setReg s Reg.PWR_HUB_TEMP (BitVec.ofNat 32 (Nat.min hub 255 + 256 * Nat.min (optics.getD e 0) 255 + 65536 * e))
  let s := ((List.range 16).filter fun e => 85 ≤ optics.getD e 0).foldl opticsHot s
  match shutSensor s tc tw hub with
  | some n => shutDown s 0x31 n
  | none => s

/-- THERMAL_SAMPLE. -/
def execThermalSample (tc tw : List Nat) (hub : Nat) (optics : List Nat) (s : State) : Out :=
  .next (if powered s then thermalSample s tc tw hub optics else s)

end Sys2Proof.Machine
end

