-- ==== Sys2Proof/Machine/Tallies.lean ====
section
/-!
DEFINITION. Commands of tallies (R128, R250 to R268): a wait satisfied, signals released and arriving, remote waits, the
hang watchdog, and the window of tally maps and spans (R253 to R260, R271).
-/
namespace Sys2Proof.Machine

/-- TWAIT_SATISFIED (R128): `k` further cycles pass for the bundle that a wait holds, and in the cycle after them it
issues unless it is held again. -/
def execTwaitSatisfied (n k : Nat) (c : Cyc) (s : State) : Out :=
  onNibCmd s n fun s =>
    match (nibOf s n).hold with
    | some h => if h.waited && h.frz.isNone then fetchCycle (heldCheck (onNib s n fun b => countWait b k) n) n c else s
    | none => s

/-! ### Release (R262, R263) -/

/-- Whether the strips of a host transfer that a signal covers have landed, or will never move (R263). -/
def stripsLanded (s : State) (c : Nat × Nat) : Bool :=
  match s.cmds.find? fun x => x.no = c.1 with
  | none => true
  | some x => x.count ≥ (match x.fault with | some (k, _) => Nat.min k c.2 | none => c.2)

/-- SIGNAL_RELEASE (R262): signal `i` of those held at a source leaves once what it covers has landed and no earlier
signal of its channel is held. -/
def release (s : State) (src : SigSrc) (i : Nat) : State :=
  match src with
  | .nib n =>
    let b := nibOf s n
    match b.held[i]? with
    | none => s
    | some h =>
      if h.covers.all (tagLanded b) && firstOnChannel (b.held.take i) h then
        emit (setNib s n { b with held := eraseNth b.held i }) h.sig
      else s
  | _ =>
    let mine := s.heldHub.filter fun p => p.1 = src
    match mine[i]? with
    | none => s
    | some h =>
      if h.2.covers.all (stripsLanded s) && firstOnChannel ((mine.take i).map (·.2)) h.2 then
        emit { s with heldHub := s.heldHub.erase h } h.2.sig
      else s

/-- SIGNAL_RELEASE (R262). -/
def execSignalRelease (src : SigSrc) (i : Nat) (s : State) : Out :=
  match src with
  | .nib n => onNibCmd s n fun s => release s src i
  | _ => .next (release s src i)

/-! ### Arrival (R250, R264) -/

/-- Whether a tally exists. -/
def talOk (s : State) : TalRef → Bool
  | .nib n i => populated s n && i < 16
  | .hub h => h < Config.hubTallies

/-- The first `k` signals on their way to a tally, and the others. -/
def takeSignals (d : TalRef) : Nat → List Signal → List Signal × List Signal
  | _, [] => ([], [])
  | 0, gs => ([], gs)
  | k + 1, g :: gs =>
    if g.dst = .here d then let r := takeSignals d k gs; (g :: r.1, r.2)
    else let r := takeSignals d (k + 1) gs; (r.1, g :: r.2)

/-- Whether a signal from within the package counts (R264): the program that sent it is still loaded, and the tally
belongs to its context. -/
def liveSignal (s : State) (d : TalRef) (g : Signal) : Bool :=
  (ctxOf s g.ctx).loaded && (ctxOf s g.ctx).gen = g.gen && talCtx s d = some g.ctx

/-- The tally that a signal from another package names, by the nib indices and the hub range of its context here (R254, R257,
R264). -/
def extDst (s : State) (c : Nat) (e : ExtSignal) : Option TalRef :=
  match e.nib with
  | some i => if e.tally < 16 then (nibOfIndex s c i).map fun n => .nib n e.tally else none
  | none => if e.tally < (hubRange s c).2 then some (.hub ((hubRange s c).1 + e.tally)) else none

/-- The unit that the error of a dropped signal from another package names: its tally, or, where it names none of the context,
the number it carries (log 129). -/
def extUnit (s : State) (c : Nat) (e : ExtSignal) : Nat :=
  match extDst s c e, e.nib with
  | some t, _ => talUnit t
  | none, some i => 2 ^ 31 + 16 * i + e.tally
  | none, none => (hubRange s c).1 + e.tally

/-- A signal from another package to tally `d`: what it adds, and the state after a drop (R264). One whose tag no context holds
is counted in LNK_JOBTAG_DROP (R293); one that names another tally of its context is none of this tally's. -/
def extSignal (s : State) (d : TalRef) (e : ExtSignal) : Nat × State :=
  match tagCtx s e.tag with
  | none => (0, bumpF s Reg.LNK_JOBTAG_DROP 31 0 1)
  | some c =>
    if !(ctxOf s c).loaded || (extDst s c e).isNone then (0, dropSignal s c (extUnit s c e))
    else if extDst s c e = some d then (e.count, s)
    else (0, s)

/-- SIGNAL_ARRIVE (R250): the first `k` signals on their way to tally `d` and the signals `ext` from other packages
reach it in one cycle; those that R264 drops are counted, the others add once, and the queue is served. -/
def signalsArrive (s : State) (d : TalRef) (k : Nat) (ext : List ExtSignal) : State :=
  let (gs, rest) := takeSignals d k s.signals
  let s := { s with signals := rest }
  let good := gs.filter (liveSignal s d)
  let s := (gs.filter fun g => !liveSignal s d g).foldl (fun s g => dropSignal s g.ctx (talUnit d)) s
  let r := ext.foldl (fun (p : Nat × State) e => let q := extSignal p.2 d e; (p.1 + q.1, q.2)) (0, s)
  let s := addTally r.2 d ((good.map (·.count)).sum + r.1) (good.foldl (fun m g => Nat.max m g.mark) 0)
  serve (s.waits.length + 1) s d

/-- SIGNAL_ARRIVE (R250). -/
def execSignalArrive (d : TalRef) (k : Nat) (ext : List ExtSignal) (s : State) : Out :=
  if talOk s d then .next (signalsArrive s d k ext) else .fault .noSuchUnit

/-- REMOTE_WAIT_ARRIVE (R251): the wait or test that a nib has sent to a tally elsewhere in the package joins the
tally's queue. -/
def remoteWait (s : State) (n : Nat) : State :=
  if !s.waitsOut.contains n then s
  else
    let s := { s with waitsOut := s.waitsOut.erase n }
    match (nibOf s n).hold, ctxOfNib s n with
    | some h, some c => match waitOf s n c h.b.syn with
      | .remote t k test => enqueue s ⟨t, n, k, test⟩
      | _ => s
    | _, _ => s

/-- REMOTE_WAIT_ARRIVE (R251). -/
def execRemoteWaitArrive (n : Nat) (s : State) : Out := onNibCmd s n fun s => remoteWait s n

/-! ### The hang watchdog (R267 to R269) -/

/-- Limit of a context's watchdog in ns; MS = 0 acts as 1. -/
def hangLimit (s : State) (c : Nat) : Nat :=
  1000000 * Nat.max 1 (getF s (talReg Reg.FTC_TALC_HANG_CTRL c) 15 0)

/-- The lowest-numbered nib of a context in STATE 2 that has issued no bundle for the limit (R267). -/
def hungNib (s : State) (c : Nat) : Option Nat :=
  (List.range 3072).find? fun n =>
    ctxOfNib s n = some c && (nibOf s n).st = 2 && s.ftc - (nibOf s n).lastIssue ≥ hangLimit s c

/-- The watchdog fires (R268): the waits of the nibs are captured, the hang is recorded, every nib of the context is
halted, and the context's error is raised. -/
def hang (s : State) (c n : Nat) : State :=
  let b := nibOf s n
  let tid := if b.wait.valid then b.wait.tid else 0
  let off := fun r => talReg r c
  let s := setReg s (off Reg.FTC_TALC_HANG_NIB) (BitVec.ofNat 32 (n + 2 ^ 31))
  let s := setReg s (off Reg.FTC_TALC_HANG_TID) (BitVec.ofNat 32 tid)
  let s := setReg64 s (off Reg.FTC_TALC_HANG_TIME) s.ftc
  let old := (jobNibs s c).map fun m => (m, (nibOf s m).wait)
  let s := haltAllNibs s c
  let s := old.foldl (fun s p => onNib s p.1 fun b => { b with wait := { p.2 with queued := false } }) s
  raiseHalt (setBit s (off Reg.FTC_TALC_STATUS) 0) 0x25 1 c n tid

/-- HANG_WATCHDOG (R267, R268): the watchdog of context `c` tests at time `t`. It does not fire on a halting context
(R270). -/
def execHangWatchdog (c t : Nat) (s : State) : Out :=
  if c < 16 then
    let s := atTime s t
    if (ctxOf s c).halting then .next s
    else match hungNib s c with
      | some n => .next (hang s c n)
      | none => .next s
  else .fault .noSuchUnit

/-! ### The window of tally maps and spans (R253 to R260, R271) -/

/-- FTC_TALc_STATUS.CFG: a write was ignored. -/
def talIgnored (s : State) (c : Nat) : State := setBit s (talReg Reg.FTC_TALC_STATUS c) 3

/-- Word `w` of the window's data. -/
def winData (s : State) (w : Nat) : W32 := getReg s (Reg.FTC_TAL_WIN_DATA + 4 * w)

/-- Whether a map entry may be made valid beside the others (R254, R256). -/
def entryOk (x : Ctx) (e : Nat) (m : MapEntry) : Bool :=
  1 ≤ m.kind && m.kind ≤ 6 && 1 ≤ m.count && m.count ≤ 65536 && (m.kind ≠ 1 || m.count ≤ 16)
  && (List.range 64).all fun f =>
      f = e || !(entryOf x f).valid || decide ((entryOf x f).base + (entryOf x f).count ≤ m.base)
        || decide (m.base + m.count ≤ (entryOf x f).base)

/-- Whether a member of a span lies outside another of members of the same kind. -/
def spanInside (a b : Span) : Bool := b.first ≤ a.first && a.first + a.members ≤ b.first + b.members

/-- Level of a parent; those of spans 0 and 1 are fixed (R259). -/
def parentLevel (x : Ctx) (p : Nat) : Nat := if p = 0 then 4 else if p = 1 then 3 else (spanOf x p).level

/-- Whether a span may be made valid (R258, R260). -/
def spanOk (x : Ctx) (a : Span) : Bool :=
  a.level ≤ 4 && 1 ≤ a.members && a.members ≤ 16384
  && (a.parent = 255
      || (a.level < parentLevel x a.parent
          && (a.parent ≤ 1
              || ((spanOf x a.parent).valid
                  && (((spanOf x a.parent).level = 4 && a.level ≠ 4) || spanInside a (spanOf x a.parent))))))

/-- Whether a valid span names entry `e` as its parent. -/
def isParent (x : Ctx) (e : Nat) : Bool :=
  (List.range 254).any fun k => (spanOf x (k + 2)).valid && (spanOf x (k + 2)).parent = e && k + 2 ≠ e

/-- Four words of an entry of a table. -/
def putWords (m : NMap W32) (e : Nat) (w0 w1 w2 w3 : W32) : NMap W32 :=
  put 0 (put 0 (put 0 (put 0 m (4 * e) w0) (4 * e + 1) w1) (4 * e + 2) w2) (4 * e + 3) w3

/-- The words of a map entry without their reserved bits (R4, R253). -/
def entryMask (w : Nat) : W32 := match w with | 0 => 0x00FFFFFF | 1 => 0x0001FFFF | 2 => 0x00003FFF | _ => 0x80003FFF

/-- The words of a span without their reserved bits (R4, R258). -/
def spanMask (w : Nat) : W32 := match w with | 0 => 0x0000FF07 | 1 => 0x7FFF3FFF | 2 => 0x00003FFF | _ => 0x80003FFF

/-- FTC_TAL_WIN.WRITE (R256, R258 to R260). A COUNT that R254 forbids, above 16 with KIND OWN, is refused with VALID clear
too. -/
def winStore (s : State) (c table e : Nat) : State :=
  let x := ctxOf s c
  let m := if table = 0 then entryMask else spanMask
  let (w0, w1, w2, w3) := (winData s 0 &&& m 0, winData s 1 &&& m 1, winData s 2 &&& m 2, winData s 3 &&& m 3)
  if x.loaded then talIgnored s c
  else if table = 0 then
    let m := entryOfWords w0 w1 w2 w3
    if e ≥ 64 || (m.valid && !entryOk x e m) || (m.kind = 1 && m.count > 16) then talIgnored s c
    else onCtx s c fun x => { x with tmap := putWords x.tmap e w0 w1 w2 w3 }
  else
    let a := spanOfWords w0 w1 w2 w3
    if e < 2 || (a.valid && !spanOk x a) || (!a.valid && (spanOf x e).valid && isParent x e) then talIgnored s c
    else onCtx s c fun x => { x with spans := putWords x.spans e w0 w1 w2 w3 }

/-- Words of a span: spans 0 and 1 as the package sets them at load (R259). -/
def spanWords (x : Ctx) (e w : Nat) : W32 :=
  if e ≥ 2 then look 0 x.spans (4 * e + w)
  else if !x.loaded then 0
  else
    let a := spanOf x e
    match w with
    | 0 => BitVec.ofNat 32 (a.level + 256 * 255)
    | 1 => BitVec.ofNat 32 (65536 * a.members)
    | 2 => 0
    | _ => BitVec.ofNat 32 (2 ^ 31)

/-- FTC_TAL_WIN.READ (R271). -/
def winLoad (s : State) (c table e : Nat) : State :=
  let x := ctxOf s c
  (List.range 4).foldl (fun s w =>
    setReg s (Reg.FTC_TAL_WIN_DATA + 4 * w)
      (if table = 1 then spanWords x e w else if e < 64 then look 0 x.tmap (4 * e + w) else 0)) s

/-- A write of FTC_TAL_WIN (R271): the fields are kept, and READ or WRITE acts; both at once do neither. -/
def talWindow (s : State) (v : W32) : State :=
  let s := setReg s Reg.FTC_TAL_WIN (v &&& 0x1FFF)
  let c := fld v 3 0
  match bitOf v.toNat 30, bitOf v.toNat 31 with
  | true, true => talIgnored s c
  | true, false => winLoad s c (fld v 4 4) (fld v 12 5)
  | false, true => winStore s c (fld v 4 4) (fld v 12 5)
  | false, false => s

/-- TAL_WIN_READ (R271): a write of FTC_TAL_WIN with READ set. -/
def execTalWinRead (a : Acc) (v : BitVec 32) (s : State) : Out :=
  regCmd s a Reg.FTC_TAL_WIN fun s => talWindow s (v ||| 0x40000000)

/-- TAL_WIN_WRITE (R256): a write of FTC_TAL_WIN with WRITE set. -/
def execTalWinWrite (a : Acc) (v : BitVec 32) (s : State) : Out :=
  regCmd s a Reg.FTC_TAL_WIN fun s => talWindow s (v ||| 0x80000000)

/-- The five freeze counters of a nib become zero (R37, R50). -/
def clearFreezes (b : Nib) : Nib :=
  [Reg.NIB_FRZ_TOTAL, Reg.NIB_FRZ_WP, Reg.NIB_FRZ_AP, Reg.NIB_FRZ_DR, Reg.NIB_FRZ_EXT].foldl
    (fun b r => setNib64 b r 0) b

/-- FRZ_CLEAR (R50): a write of NIB_FRZ_CTRL; bit 0 clears the counters. -/
def execFrzClear (a : Acc) (n : Nat) (v : BitVec 32) (s : State) : Out :=
  if populated s n then
    regCmd s a (nibOffset n Reg.NIB_FRZ_CTRL) fun s =>
      if v.getLsbD 0 then onNib s n clearFreezes else s
  else .fault .noSuchUnit

end Sys2Proof.Machine
end

