-- ==== Sys2Proof/Machine/Service.lean ====
section
/-!
DEFINITION. Error reports, live service, the Owl, sensors and scrubbing (R416, R420 to R430).
-/
namespace Sys2Proof.Machine

/-- ERROR_REPORT (R416): the `k` oldest reports reach their logs in one hub cycle. -/
def execErrorReport (k : Nat) (s : State) : Out := .next (reportsArrive s k)

/-! ### Service commands (R422, R423) -/

/-- KIND and UNIT of HUB_SVC_UNIT. -/
def svcAddr (s : State) : Nat × Nat := (getF s Reg.HUB_SVC_UNIT 19 16, getF s Reg.HUB_SVC_UNIT 15 0)

/-- RESULT of the last service command. -/
def svcResult (s : State) (r : Nat) : State := setF s Reg.HUB_SVC_STATUS 7 4 r

/-- A service command on the addressed unit: refused while the Owl does not run or where the unit does not exist. -/
def svcCmd (s : State) (f : State → Nat → Nat → State) : State :=
  let (kind, unit) := svcAddr s
  if owlState s ≠ 0 then svcResult s 6
  else if !svcUnitOk s kind unit then svcResult s 1
  else f s kind unit

/-- Optical engine, port and lane of an optical lane unit; none for the spare lane (R420, R444). -/
def laneUnit (u : Nat) : Nat × Option (Nat × Nat) :=
  (u / 9, if u % 9 = 8 then none else some (2 * (u / 9) + u % 9 / 4, u % 9 % 4))

/-- What fencing does (R423); `peerFree` tells of a lane's port whether the peer's engine has a free spare. -/
def fenceUnit (s : State) (kind u : Nat) (peerFree : Bool) : State :=
  match kind with
  | 1 => fenceNib s u
  | 2 =>
    let nibs := ((List.range 64).map (64 * u + ·)).filter (populated s)
    let s := nibs.foldl fenceNib s
    setSvc (if domState s (domOf u) = 0 then s else setDom s (domOf u) 1) 2 u 1 0
  | 3 => channelFails (setSvc s 3 u 1 0) u 4
  | 4 => setSvc (portLeaves s u 9 0) 4 u 1 0
  | _ =>
    let s := setSvc s 5 u 1 0
    match laneUnit u with
    | (_, some (p, lane)) => laneSpare s p lane peerFree
    | (e, none) => if s.spares.contains e then s else { s with spares := s.spares ++ [e] }

/-- FENCE: an IN_SERVICE unit is fenced; any other keeps its state (R422). -/
def fenceCmd (peerFree : Bool) (s : State) : State :=
  svcCmd s fun s kind u => if svcOf s kind u = 0 then fenceUnit (svcResult s 0) kind u peerFree else svcResult s 0

/-- Whether a loaded context holds a cluster. -/
def clusterHeld (s : State) (k : Nat) : Bool :=
  match ctxOfCluster s k with | some c => (ctxOf s c).loaded | none => false

/-- Whether a test is refused for what its unit carries (R423). -/
def testHeld (s : State) (kind u : Nat) : Bool :=
  match kind with
  | 1 => clusterHeld s (clusterOf u)
  | 2 => clusterHeld s u
  | 5 => match laneUnit u with
    | (e, some (p, _)) => pState s p = 6 && !s.spares.contains e
    | (_, none) => false
  | _ => false

/-- A test begins; the marches destroy the contents of wells and channels (R423). -/
def testStart (s : State) (kind u : Nat) : State :=
  let wipe := fun (b : Nib) => { b with well := [], wellPoison := [] }
  let s := setSvc s kind u 2 0
  match kind with
  | 1 => onNib s u wipe
  | 2 => ((List.range 64).map (64 * u + ·)).foldl (fun s n => onNib s n wipe) s
  | 3 =>
    let s := { s with
      hbm := dropRange s.hbm (hbmKey u 0 0) (Config.granulesPerChannel * 4096)
      hbmPoison := dropRange s.hbmPoison (hbmKey u 0 0 / 64) (Config.granulesPerChannel * 64)
      hbmGran := delRange (granKey u 0) (granKey u Config.granulesPerChannel) s.hbmGran }
    setChState s u 5
  | _ => s

/-- TEST (R422, R423). -/
def testCmd (s : State) : State :=
  svcCmd s fun s kind u =>
    if svcOf s kind u = 0 || svcOf s kind u = 2 then svcResult s 2
    else if testHeld s kind u then svcResult s 3
    else if (testsOf s).length ≥ 8 then svcResult s 4
    else testStart (svcResult s 0) kind u

/-- A test ends (R422): the first failing part shows in HUB_SVC_INFO. -/
def testEnd (s : State) (kind u : Nat) (pass : Bool) (part index detail : Nat) : State :=
  if svcOf s kind u ≠ 2 then s
  else
    let info := if pass then 0 else part % 256 + 256 * (index % 256) + 65536 * Nat.min detail 65535
    let s := setReg s Reg.HUB_SVC_INFO (BitVec.ofNat 32 info)
    let s := if kind = 3 then setChState s u (if pass then 4 else 3) else s
    setSvc s kind u (if pass then 3 else 4) 0

/-- A nib returns: FENCED and the mismatch count clear. -/
def returnNib (s : State) (n : Nat) : State :=
  let s := onNib s n fun b =>
    setNibF (setNibF { b with st := if b.st = 6 then 0 else b.st } Reg.NIB_ABFT_STATUS 2 2 0) Reg.NIB_ABFT_FENCE_COUNT 7 0 0
  setSvc s 1 n 0 0

/-- What returning does (R423). -/
def returnTo (s : State) (kind u : Nat) : State :=
  match kind with
  | 1 => returnNib s u
  | 2 => setSvc ((((List.range 64).map (64 * u + ·)).filter (populated s)).foldl returnNib s) 2 u 0 0
  | 3 => setChState (setSvc s 3 u 0 0) u 1
  | 4 =>
    let s := setSvc s 4 u 0 0
    setPState s u (if mayTrain s u then 1 else 0) 0
  | _ => { setSvc s 5 u 0 0 with spares := s.spares.filter fun e => e ≠ u / 9 }

/-- RETURN (R422). -/
def returnCmd (s : State) : State :=
  svcCmd s fun s kind u => if svcOf s kind u = 3 then returnTo (svcResult s 0) kind u else svcResult s 2

/-- ABORT (R422). -/
def abortTest (s : State) : State :=
  svcCmd s fun s kind u =>
    if svcOf s kind u ≠ 2 then svcResult s 2
    else setSvc (if kind = 3 then setChState (svcResult s 0) u 4 else svcResult s 0) kind u 1 0

/-! ### Repair (R425) -/

/-- Physical nibs of a cluster that the map in force does not use and that no test has marked failed, ascending. -/
def sparePhys (s : State) (k : Nat) : List Nat :=
  let used := ((runBody s 4).drop (64 * k)).take 64
  (List.range 66).filter fun p => !(used.any fun b => b.toNat = p) && !s.badPhys.contains (k, p)

/-- The candidates are tested in turn with the given results: those that fail are marked, and the first that passes is
found. -/
def tryPhys (s : State) (k : Nat) : List Nat → List Bool → State × Option Nat
  | p :: ps, r :: rs => if r then (s, some p) else tryPhys { s with badPhys := s.badPhys ++ [(k, p)] } k ps rs
  | _, _ => (s, none)

/-- A field REPAIR record with a byte of the map replaced is written to the field slot not in force. -/
def writeRepair (s : State) (n p : Nat) : Option State :=
  match runOf s 4 with
  | none => none
  | some r =>
    let (k, s) := takeFree s
    let body := setNth r.body n (BitVec.ofNat 8 p)
    (writeRecord s (signedRec k 4 (r.svn + 1) 3 body)).map fun x => x.2

/-- REPAIR (R425): `results` are those of the candidates' tests. -/
def repairCmd (results : List Bool) (s : State) : State :=
  svcCmd s fun s kind u =>
    if kind ≠ 1 || svcOf s 1 u ≠ 4 then svcResult s 2
    else
      let (s, p) := tryPhys s (clusterOf u) (sparePhys s (clusterOf u)) results
      match p.bind (writeRepair s u) with
      | some s => raise (svcResult s 0) 0 0x04 1 none u (4 + 256 * (Config.causeCode 14).toNat)
      | none => svcResult s 5

/-! ### The commands -/

/-- FENCE (R422, R423): OP 1. -/
def execFence (a : Acc) (peerFree : Bool) (s : State) : Out := regCmd s a Reg.HUB_SVC_CMD (fenceCmd peerFree)

/-- TEST (R422, R423): OP 2. -/
def execTest (a : Acc) (s : State) : Out := regCmd s a Reg.HUB_SVC_CMD testCmd

/-- TEST_END (R422). -/
def execTestEnd (kind unit : Nat) (pass : Bool) (part index detail : Nat) (s : State) : Out :=
  .next (testEnd s kind unit pass part index detail)

/-- RETURN (R422, R423): OP 3. -/
def execReturn (a : Acc) (s : State) : Out := regCmd s a Reg.HUB_SVC_CMD returnCmd

/-- REPAIR (R425): OP 4. -/
def execRepair (a : Acc) (results : List Bool) (s : State) : Out := regCmd s a Reg.HUB_SVC_CMD (repairCmd results)

/-- ABORT (R422): OP 5. -/
def execAbort (a : Acc) (s : State) : Out := regCmd s a Reg.HUB_SVC_CMD abortTest

/-! ### The Owl (R427) -/

/-- The Owl restarts: its watchdog has fired, or `ecc` that its memory failed. -/
def owlRestart (s : State) (ecc : Bool) : State :=
  let s := setBit (setF s Reg.HUB_OWL_STATUS 1 0 1) Reg.HUB_OWL_STATUS (if ecc then 11 else 10)
  abortTests { bumpF s Reg.HUB_OWL_STATUS 9 2 1 with owlTimes := s.owlTimes ++ [s.ftc] }

/-- OWL_WATCHDOG_TIMEOUT (R427). -/
def execOwlWatchdogTimeout (ecc : Bool) (s : State) : Out :=
  .next (if owlState s = 2 || s.pstep = 0 then s else owlRestart s ecc)

/-- Restarts within the last 10 min. -/
def recentRestarts (s : State) : Nat := s.owlTimes.countP fun t => s.ftc ≤ t + 600000000000

/-- The Owl is lost: CODE 0x33 and the alert land. -/
def owlLost (s : State) : State :=
  withAlert s fun s =>
    raise (noteFatal (setF s Reg.HUB_OWL_STATUS 1 0 2) 0x33) 3 0x33 11 none (Config.hubUnit 0).toNat
      (getF s Reg.HUB_OWL_STATUS 9 2)

/-- The firmware has been verified again and reloaded (R427); OWL_FW is selected anew, which activates an update (R428). -/
def owlBack (s : State) : State :=
  if recentRestarts s ≥ 3 then owlLost s
  else match pickSlot s 1, pickSlot s 2 with
    | some k, some _ => setF (setF (takeRec s 1 k) Reg.SEC_BOOT_STATUS 6 6 k) Reg.HUB_OWL_STATUS 1 0 0
    | _, _ => s

/-- OWL_RESTART_COMPLETE (R427). -/
def execOwlRestartComplete (s : State) : Out := .next (if owlState s = 1 then owlBack s else s)

/-! ### Sensors (R429) -/

/-- Entries of a class in all logs. -/
def logCount (s : State) (cls : Nat) : Nat :=
  ((List.range 17).map fun n => (getReg s (Reg.HUB_LOG_CNT + 0x1000 * n + 4 * cls)).toNat).sum

/-- The health sensor: 0 ok, 1 degraded, 2 fatal, 3 Owl restarting. -/
def health (s : State) : Nat :=
  if owlState s = 1 then 3 else if getF s Reg.HUB_FATAL_CODE 7 0 ≠ 0 then 2 else if !s.svc.isEmpty then 1 else 0

/-- The sensors and their readings, in the units of R429. -/
def sensorReads (s : State) : List (Nat × Nat) :=
  let f := fun (off hi lo : Nat) => getF s off hi lo
  [(1, f Reg.PWR_IN 15 0 / 1000), (2, f Reg.PWR_IN 31 16 / 100), (3, f Reg.PWR_IN_POWER 15 0)]
    ++ (List.range 4).map (fun d => (16 + d, f (Reg.PWR_DIE_TEMP + 4 * d) 7 0))
    ++ (List.range 4).map (fun d => (20 + d, f (Reg.PWR_DIE_TEMP + 4 * d) 15 8))
    ++ (List.range 8).map (fun n => (24 + n, f (stkReg Reg.MEM_STK_STATUS n) 7 0))
    ++ [(32, f Reg.PWR_HUB_TEMP 7 0), (33, f Reg.PWR_HUB_TEMP 15 8)]
    ++ (List.range 60).map (fun i => (64 + i, f (Reg.PWR_DOM_POWER + 8 * i) 15 0 / 100))
    ++ (List.range 4).map (fun k => (128 + k, logCount s k))
    ++ [(140, health s), (141, f Reg.FTC_STATUS 2 0)]

/-- Upper thresholds of a sensor: warning, critical, fatal; none where the table has a dash (R429). -/
def highThr (s : State) (id : Nat) : List (Option Nat) :=
  if id = 1 then [some 60, some 62, some 65]
  else if id = 2 then [none, some 75, none]
  else if id = 3 then [some (effCap s), none, none]
  else if 16 ≤ id ∧ id < 20 then [some 100, some 108, some 115]
  else if 20 ≤ id ∧ id < 24 then [some 95, some 103, some 110]
  else if 24 ≤ id ∧ id < 32 then [some 85, some 105, some 110]
  else if id = 32 then [none, none, some 110]
  else if id = 33 then [none, some 85, none]
  else []

/-- Level of a reading: 0 normal, 1 warning, 2 critical, 3 fatal. -/
def sensorLevel (s : State) (id v : Nat) : Nat :=
  let up := (List.range 3).foldl (fun m i => match ((highThr s id).getD i none) with
    | some t => if t ≤ v then i + 1 else m
    | none => m) 0
  if id = 1 then Nat.max up (if v ≤ 30 then 3 else if v ≤ 38 then 2 else if v ≤ 40 then 1 else 0) else up

/-- SENSOR_REFRESH (R429, R428): every reading is taken; one that reaches a higher level is reported by an in-band
interrupt. -/
def sensorRefresh (s : State) : State :=
  (sensorReads s).foldl (fun s r =>
    let old := sensorLevel s r.1 (look 0 s.sensors r.1)
    let new := sensorLevel s r.1 r.2
    let t := { s with sensors := put 0 s.sensors r.1 r.2 }
    if old < new && owlState s = 0 then send t (.packet "SENSOR_EVENT" 2 [r.1, new]) else t) s

/-- SENSOR_REFRESH. -/
def execSensorRefresh (s : State) : Out := .next (if s.pstep = 0 then s else sensorRefresh s)

/-! ### Scrubbing (R420, R418) -/

/-- The context whose hub tallies hold tally `h` (R247). -/
def ctxOfTally (s : State) (h : Nat) : Option Nat :=
  (List.range 16).find? fun c =>
    let r := Reg.FTC_TALC_HUB + 0x40 * c
    getF s r 13 0 ≤ h && h < getF s r 13 0 + getF s r 30 16

/-- What the scrub of a structure finds (R420). -/
def scrubHit (s : State) : ScrubHit → State
  | .corrected unit k => corrected s 0x01 11 unit k
  | .hubTally h => match ctxOfTally s h with
    | some c => raiseHalt s 0x2B 10 c h h
    | none => s
  | .dirEntry x => raiseHalt s 0x2B 8 (ribCtx s) x x
  | .tallyMap c i => raiseHalt s 0x2B 11 c (Config.hubUnit 3).toNat i
  | .spanTable c i => raiseHalt s 0x2B 11 c (Config.hubUnit 4).toNat i
  | .shared unit => fatal s 0x32 unit unit

/-- HUB_SCRUB (R420): the hub scrubs its SRAM structures, with what it finds. -/
def execHubScrub (hits : List ScrubHit) (s : State) : Out := .next (hits.foldl scrubHit s)

end Sys2Proof.Machine
end

