-- ==== Sys2Proof/Machine/Views.lean ====
section
/-!
DEFINITION. What registers read as (R8, R9, R435): fields that show other state are computed here, all others are kept as
words.
-/
namespace Sys2Proof.Machine

/-- A Boolean as a bit at a place. -/
def bitAt (p : Bool) (i : Nat) : Nat := if p then 2 ^ i else 0

/-- Bits of a list of conditions, the first lowest. -/
def bitsOf (ps : List Bool) : Nat := ((List.range ps.length).map fun i => bitAt (ps.getD i false) i).sum

/-! ### Nib windows (R50, R104, R132, R159, R271, R347) -/

/-- Physical nib of a logical nib, by the repair map in force (R50, R377). -/
def physOf (s : State) (n : Nat) : Nat := ((runBody s 4).getD n 0).toNat

/-- NIB_ROT_STATUS: rotation step in the slab, chain membership, slabs completed (R159). -/
def rotStatus (s : State) (n : Nat) : Nat :=
  let b := nibOf s n
  match (ctxOfNib s n).bind fun c => (ctxOf s c).chain.map fun p => (c, p) with
  | none => 0
  | some (c, p) =>
    let g := Nat.max 1 (geomNibs (ctxOf s c).geom)
    let k := (rotPasses b p).1
    k % g + bitAt (clusterOf n % 12 < p.clusters) 6 + 2 ^ 8 * (k / g % 2 ^ 24)

/-- A word of a 64-bit count: the lower half, or the higher. -/
def half (v : Nat) (hi : Bool) : Nat := if hi then v / 2 ^ 32 % 2 ^ 32 else v % 2 ^ 32

/-- A tally as its register shows it (R271). -/
def tallyWord (t : Tally) : Nat := t.count + bitAt t.ovf 16

/-- A register of a nib's window as it reads. -/
def nibView (s : State) (n o : Nat) : W32 :=
  let b := nibOf s n
  let w := fun (v : Nat) => (BitVec.ofNat 32 v : W32)
  let r := fun i => ringOf b i
  if o = Reg.NIB_ID then w (n + 2 ^ 16 * (physOf s n % 128) + 2 ^ 28)
  else if o = Reg.NIB_SEQ_STATUS then w (b.st + 2 ^ 4 * b.loops.length + bitAt b.wait.valid 8)
  else if o = Reg.NIB_PC then w (b.pc % 8192)
  else if o = Reg.NIB_CYCLE then w (half b.cycle false)
  else if o = Reg.NIB_CYCLE_HI then w (half b.cycle true)
  else if o = Reg.NIB_ISSUED then w (half (Nat.min (2 ^ 64 - 1) b.clk) false)
  else if o = Reg.NIB_ISSUED_HI then w (half (Nat.min (2 ^ 64 - 1) b.clk) true)
  else if o = Reg.NIB_WAIT_CYC then w (half b.waitCyc false)
  else if o = Reg.NIB_WAIT_CYC_HI then w (half b.waitCyc true)
  else if o = Reg.NIB_XFER_TAGS then w (tagsFree b + 2 ^ 6 * stageTags b)
  else if o = Reg.NIB_ROT_STATUS then w (rotStatus s n)
  else if o = Reg.NIB_TAL_WAIT then w (b.wait.tid + bitAt b.wait.granted 30 + bitAt b.wait.valid 31)
  else if o = Reg.NIB_TAL_WAIT_K then w b.wait.k
  else if o = Reg.NIB_TAL_SIGQ then w (heldSignals b)
  else if o = Reg.NIB_XM_LATE then w (half b.late false)
  else if o = Reg.NIB_XM_LATE_HI then w (half b.late true)
  else if o = Reg.NIB_XM_SEAL then w (b.sealT.layer + 2 ^ 12 * b.sealT.tile)
  else if Reg.NIB_TAL ≤ o ∧ o < Reg.NIB_TAL + 64 then w (tallyWord (look Tally.zero b.tallies ((o - Reg.NIB_TAL) / 4)))
  else if Reg.NIB_RB_CFG ≤ o ∧ o < Reg.NIB_RB_CFG + 128 then
    let x := r ((o - Reg.NIB_RB_CFG) / 8)
    if o % 8 = 4 then w x.fill
    else if x.valid then w (x.log2 + bitAt x.isExt 5 + x.base / 64 % 2 ^ 15 * 64 + 2 ^ 31) else w (bitAt x.isExt 5)
  else nibReg b o

/-! ### Health (R433, R435) -/

/-- HUB_STATUS.DEGRADED: a unit not in service, or after boot a planned port or a channel down. -/
def degraded (s : State) : Bool :=
  !s.svc.isEmpty || (getF s Reg.HUB_STATUS 3 3 = 1 &&
    ((List.range 32).any (fun p => roleOf s p ≠ 0 && pState s p = 0)
      || (List.range 256).any fun ch => chState s ch ≠ 1 && chState s ch ≠ 2))

/-- HUB_STATUS (R433). -/
def hubStatus (s : State) : Nat :=
  bootStage s + bitAt (getF s Reg.HUB_STATUS 3 3 = 1) 3 + bitAt (degraded s) 4
    + bitAt (getF s Reg.HUB_FATAL_CODE 7 0 ≠ 0) 5 + 2 ^ 6 * owlState s + 2 ^ 8 * getF s Reg.HUB_STATUS 8 8

/-- Whether a nib has a sticky bit that enters HUB_ERR_CLUSTERS. -/
def nibErr (b : Nib) : Bool :=
  fld (nibReg b Reg.NIB_ABFT_STATUS) 1 0 ≠ 0 || fld (nibReg b Reg.NIB_FAULT) 0 0 = 1
    || fld (nibReg b Reg.NIB_WELL_ECC) 16 16 = 1 || fld (nibReg b Reg.NIB_POISON_DET) 16 16 = 1
    || fld (nibReg b Reg.NIB_EXP_STATUS) 6 1 ≠ 0

/-- HUB_ERR_CLUSTERS (R435). -/
def errClusters (s : State) : Nat :=
  bitsOf ((List.range 48).map fun k =>
    (s.nibs.any fun p => clusterOf p.1 = k && nibErr p.2)
      || (k % 12 = 0 && getF s (Reg.NIB_DIE_POISON + 0x800000 * (k / 12)) 16 16 = 1))

/-- HUB_ERR_PORTS. -/
def errPorts (s : State) : Nat := bitsOf ((List.range 32).map fun p => getReg s (portReg Reg.LNK_ERR p) ≠ 0)

/-- HUB_ERR_STACKS. -/
def errStacks (s : State) : Nat :=
  bitsOf ((List.range 8).map fun n => getF s (stkReg Reg.MEM_STK_STATUS n) 10 10 = 1
    || (List.range 32).any fun k => getF s (chReg Reg.MEM_CH_ECC (32 * n + k)) 16 16 = 1
        || getF s (chReg Reg.MEM_CH_POISON (32 * n + k)) 31 31 = 1)

/-- HUB_ERR_BLOCKS. -/
def errBlocks (s : State) : Nat :=
  let non := fun off => getReg s off ≠ 0
  bitsOf
    [non Reg.AVF_ERR || (List.range 16).any (fun c => (List.range 16).any fun q =>
        getF s (pairReg Reg.AVF_Q_STATUS c q) 4 3 ≠ 0),
     non Reg.RIB_ERR,
     non Reg.RTR_COLL_ERR || getF s Reg.RTR_SLAB_ECC 16 16 = 1,
     errPorts s ≠ 0 || getF s Reg.LNK_SWAP 31 31 = 1,
     non Reg.MEM_ERR || errStacks s ≠ 0,
     non Reg.SEC_ERR,
     non Reg.PWR_ERR,
     non Reg.FTC_ERR || (List.range 16).any (fun c => getF s (Reg.FTC_TALC_STATUS + 0x40 * c) 3 0 ≠ 0),
     errClusters s ≠ 0,
     getF s Reg.HUB_OWL_STATUS 11 10 ≠ 0]

/-- HUB_ERR_SUMMARY. -/
def errSummary (s : State) : Nat :=
  bitsOf ((List.range 17).map fun n => getF s (Reg.HUB_LOG_STATUS + 0x1000 * n) 4 0 ≠ 0)
    + 2 ^ 17 * getF s Reg.HUB_ERR_SUMMARY 17 17 + bitAt (errBlocks s ≠ 0) 18
    + bitAt (getF s Reg.HUB_FATAL_CODE 7 0 ≠ 0) 19

/-! ### Hub registers -/

/-- HUB_SVC_STATUS: the addressed unit's state, the last RESULT, tests running (R431). -/
def svcStatus (s : State) : Nat :=
  svcOf s (svcAddr s).1 (svcAddr s).2 + 2 ^ 4 * getF s Reg.HUB_SVC_STATUS 7 4 + 2 ^ 12 * (testsOf s).length

/-- AVF_Qq_STATUS (R374): ENABLED, PAUSED, DRAINED, and the sticky bits. -/
def pairStatus (s : State) (c q : Nat) : Nat :=
  let busy := s.cmds.any (fun x => x.c = c && x.q = q) || s.comps.any fun x => x.c = c && x.q = q
  bitAt (pairOn s c q) 0 + bitAt (pairPaused s c q) 1 + bitAt (!busy) 2
    + 2 ^ 3 * getF s (pairReg Reg.AVF_Q_STATUS c q) 4 3

/-- RTR_CTXc_HOLES (R306): which listed holes are lost packages, and how many lost packages of the job are not listed. -/
def holesWord (s : State) (c : Nat) : Nat :=
  let w := fun n => getReg s (Reg.RTR_CTX_HOLE + 0x20 * c + 4 * n)
  let lost := (List.range 4).map fun n => fld (w n) 31 31 = 1 && s.lostPkgs.contains (fld (w n) 13 0)
  let un := s.lostPkgs.countP fun a => inBlock s c a && !(holesOf s c).contains a
  bitsOf lost + 2 ^ 4 * Nat.min 15 un

/-- LNK_CTXc_BLOCK with WRAP_U and WRAP_V (R294), for a context that holds a job tag. -/
def blockWord (s : State) (c : Nat) : Nat :=
  fld (getReg s (Reg.LNK_CTX_BLOCK + 4 * c)) 27 0 + bitAt (wrapAxis s c 2) 28 + bitAt (wrapAxis s c 3) 29

/-- NIB_DIE_LAND_STATUS (R159): FREE frames, and the frame that the chain will read next. -/
def landStatus (s : State) (d : Nat) : Nat :=
  let a := look Landing.reset s.landing d
  let total := slabBytes s (geomNibs (ctxOf s (ribCtx s)).geom)
  let next := match a.slabs.find? fun x => x.rd < total with
    | some x => x.frame + x.rd / 65536
    | none => a.alloc
  1024 - a.used + 2 ^ 16 * (next % 1024)

/-- NIB_DIE_MESH_STATUS (R159). -/
def meshStatus (s : State) (d : Nat) : Nat :=
  match look none s.mesh d with | some m => 1 + 2 * m.frameLog2 | none => 0

/-- The shared registers: HUB, AVF, RIB, RTR. -/
def viewA (s : State) (base i j : Nat) : Option Nat :=
  if base = Reg.HUB_STATUS then some (hubStatus s)
  else if base = Reg.HUB_ERR_SUMMARY then some (errSummary s)
  else if base = Reg.HUB_ERR_BLOCKS then some (errBlocks s)
  else if base = Reg.HUB_ERR_PORTS then some (errPorts s)
  else if base = Reg.HUB_ERR_STACKS then some (errStacks s)
  else if base = Reg.HUB_ERR_CLUSTERS then some (half (errClusters s) false)
  else if base = Reg.HUB_ERR_CLUSTERS_HI then some (half (errClusters s) true)
  else if base = Reg.HUB_SVC_STATUS then some (svcStatus s)
  else if base = Reg.AVF_Q_STATUS then some (pairStatus s i j)
  else if base = Reg.RIB_SETS then
    some (getF s base 0 0 + bitAt (shadowLoaded s) 1 + bitAt (shadowVerified s) 2 + 2 ^ 3 * getF s base 3 3)
  else if base = Reg.RTR_SLAB_STATUS then some (slabFree s + 2 ^ 16 * Nat.min 4095 (slabWaiting s))
  else if base = Reg.RTR_CTX_COLL then some ((s.colls.countP fun k => k.ctx = i) + 2 ^ 16 * slabHeld s i)
  else if base = Reg.RTR_CTX_HOLES then some (holesWord s i)
  else none

/-- The registers of memory, links, power, the FTC, and the dies. -/
def viewB (s : State) (base i j : Nat) : Option Nat :=
  if base = Reg.LNK_CTX_BLOCK then some (blockWord s i)
  else if base = Reg.MEM_CH_STATUS then some (chShown s (32 * i + j))
  else if base = Reg.MEM_CH_POISON then
    let ch := 32 * i + j
    some (poisonWords s ch + 2 ^ 11 * poisonGranules s ch + 2 ^ 31 * getF s (chReg base ch) 31 31)
  else if base = Reg.MEM_REG_STATUS then
    let g := regionOf s i
    some (getF s (regOff base i) 2 0 + 2 ^ 4 * (if g.valid then widthOf g (look [] s.regGone i) else 0))
  else if base = Reg.MEM_STK_ID then some (i + 2 ^ 3 * getF s (stkReg base i) 3 3 + 2 ^ 28)
  else if base = Reg.PWR_DIE_CLK then
    some (getF s (base + 4 * i) 15 0 + 2 ^ 16 * dieFloor s i + 2 ^ 27 * getF s (base + 4 * i) 31 27)
  else if base = Reg.FTC_NOW then some (half s.ftc false)
  else if base = Reg.FTC_NOW_HI then some (half s.ftc true)
  else if base = Reg.FTC_TALLY then some (tallyWord (look Tally.zero s.hubTal i))
  else if base = Reg.NIB_DIE_ID then some (i + 2 ^ 28)
  else if base = Reg.NIB_DIE_LAND_STATUS then some (landStatus s i)
  else if base = Reg.NIB_DIE_MESH_STATUS then some (meshStatus s i)
  else none

/-- A register of BAR0 as it reads. -/
def regView (s : State) (off : Nat) : W32 :=
  match nibAt off with
  | some (n, o) => nibView s n o
  | none => match findRow hubRows off with
    | none => getReg s off
    | some (r, i, j) => match (viewA s r.base i j).or (viewB s r.base i j) with
      | some v => BitVec.ofNat 32 v
      | none => getReg s off

end Sys2Proof.Machine
end

