-- ==== Sys2Proof/Machine/RegAccess.lean ====
section
/-!
DEFINITION. Register accesses of the bus (R6, R8 to R11, R351, R432, R434): writes by access code, register pairs with
latches and held writes, unmapped accesses; and the JTAG port (R443).
-/
namespace Sys2Proof.Machine

/-! ### Writes (R9, R10) -/

/-- The context whose seal locks an RWL register: that of the nib, of the ribbon, or of the register (R9, R363). -/
def sealOwner (s : State) (off i : Nat) : Option Nat :=
  match nibAt off with
  | some (n, _) => ctxOfNib s n
  | none => if 0x200000 ≤ off ∧ off < 0x200140 then some (ribCtx s) else some (ownerOf off i)

/-- The context that keeps a write off a register: its RWL bits are locked. -/
def lockHolder (s : State) (r : RegRow) (off i : Nat) : Option Nat :=
  if r.rwl = 0 then none
  else match sealOwner s off i with
    | some c => if (ctxOf s c).locked then some c else none
    | none => none

/-- A write to a register by its access codes alone; `set` are the sticky bits that the package sets in the same cycle. -/
def plainWrite (s : State) (r : RegRow) (off i : Nat) (v set : W32) : State :=
  let lock := lockHolder s r off i
  let s := match lock with | some c => noteLocked s c off | none => s
  match nibAt off with
  | some (n, o) => onNib s n fun b => setNibReg b o (written r lock.isSome (nibReg b o) v set)
  | none => setReg s off (written r lock.isSome (getReg s off) v set)

/-- OVF of a tally after a write of its register (R271). -/
def tallyWrite (t : Tally) (v set : W32) : Tally :=
  { t with ovf := (t.ovf && fld v 16 16 = 0) || fld set 16 16 = 1 }

/-- A write to a register of a nib's window. -/
def nibWrite (s : State) (n o off : Nat) (v set : W32) : State :=
  if o = Reg.NIB_FRZ_CTRL then (if v.getLsbD 0 then onNib s n clearFreezes else s)
  else if Reg.NIB_TAL ≤ o ∧ o < Reg.NIB_TAL + 64 then
    let i := (o - Reg.NIB_TAL) / 4
    onNib s n fun b => { b with tallies := put Tally.zero b.tallies i (tallyWrite (look Tally.zero b.tallies i) v set) }
  else match findRow nibRows o with
    | some (r, _, _) => plainWrite s r off n v set
    | none => s

/-- A write of HUB_SVC_CMD (R422, R431); `cond` stands for the physical condition of its row: the peer's spare lane for
FENCE, the candidate's test for REPAIR. -/
def svcWrite (s : State) (op : Nat) (cond : Bool) : State :=
  match op with
  | 1 => fenceCmd cond s
  | 2 => testCmd s
  | 3 => returnCmd s
  | 4 => repairCmd [cond] s
  | 5 => abortTest s
  | _ => if owlState s ≠ 0 then svcResult s 6 else svcResult s 1

/-- A write of RIB_CMD; `cond` is RESUME's condition (R204). -/
def ribWrite (s : State) (v : Nat) (cond : Bool) : State := if v % 16 = 5 then resumeCmd cond s else ribCmd v s

/-- A write of RTR_CTXc_SLAB (R316): the MIN values of all contexts sum to at most 4,096. -/
def slabWrite (s : State) (r : RegRow) (off c : Nat) (v set : W32) : State :=
  let sum := (((List.range 16).filter (· ≠ c)).map fun d => getF s (Reg.RTR_CTX_SLAB + 0x20 * d) 12 0).sum + fld v 12 0
  if (ctxOf s c).locked || sum ≤ 4096 then plainWrite s r off c v set else setBit s Reg.RTR_COLL_ERR 7

/-- Whether two ranges of hub tallies (base, count) share a tally. -/
def hubMeet (x y : Nat × Nat) : Bool := Nat.max x.1 y.1 < Nat.min (x.1 + x.2) (y.1 + y.2)

/-- A write of FTC_TALc_HUB (R247, R271): one that overlaps another context's range, or that passes the last hub tally, sets
CFG and is ignored. -/
def hubRangeWrite (s : State) (r : RegRow) (off c : Nat) (v set : W32) : State :=
  let x := (fld v 13 0, fld v 30 16)
  if (ctxOf s c).locked || (x.1 + x.2 ≤ Config.hubTallies
      && ((List.range 16).filter (· ≠ c)).all fun d => !hubMeet x (hubRange s d)) then plainWrite s r off c v set
  else talIgnored s c

/-- PWR_CLK_MAX as it is kept: a step of 25 MHz within 600 to 1,000 (R411). -/
def roundClk (v : Nat) : Nat := Nat.min 1000 (Nat.max 600 (v / 25 * 25))

/-- A write of PWR_CAP (R399, R411): WATTS above 2,600 is clamped. -/
def capWrite (s : State) (v : W32) : State :=
  setReg s Reg.PWR_CAP (BitVec.ofNat 32 (Nat.min 2600 (fld v 15 0) + 65536 * fld v 23 16))

/-- A write of a queue register that is writable only while the pair is disabled, or only while it is paused (R374). A new
CSEQ begins an empty journal. -/
def pairNumWrite (s : State) (base off c q : Nat) (v : W32) : State :=
  if base = Reg.AVF_Q_REPLAY then (if pairPaused s c q then setReg s off v else s)
  else if pairOn s c q then s
  else if base = Reg.AVF_Q_CSEQ then
    onPair (setReg s off v) c q fun p => { p with jcount := 0, quiet := [], cqLast := v.toNat }
  else setReg s off v

/-- A write to a hub register of one word that acts beyond its access codes; none for any other. -/
def hubWrite (s : State) (a : Acc) (r : RegRow) (off i j : Nat) (v set : W32) (cond : Bool) : Option State :=
  let b := r.base
  if b = Reg.AVF_CTX_BIND then some (bindWrite s i v)
  else if b = Reg.AVF_Q_CTRL then some (ctrlWrite s a i j v)
  else if b = Reg.AVF_Q_SEQ_NEXT ∨ b = Reg.AVF_Q_CSEQ ∨ b = Reg.AVF_Q_REPLAY then some (pairNumWrite s b off i j v)
  else if b = Reg.AVF_Q_SIZE ∧ pairOn s i j ∧ !pairPaused s i j then some s
  else if b = Reg.RIB_CMD then some (ribWrite s v.toNat cond)
  else if b = Reg.RIB_DIR_INDEX then some (dirIndexWrite v s)
  else if b = Reg.LNK_CTRL then some (lnkCtrl s i v)
  else if b = Reg.LNK_ROUTE_WIN then some (routeWin v s)
  else if b = Reg.LNK_CTX_TAG ∧ fld v 31 31 = 1 ∧ fld v 15 0 = 0 ∧ !(ctxOf s i).locked then some s
  else if b = Reg.RTR_CTX_SLAB then some (slabWrite s r off i v set)
  else if b = Reg.FTC_TALC_HUB then some (hubRangeWrite s r off i v set)
  else if b = Reg.FTC_CTX_MODE then some (modeWrite i v s)
  else if b = Reg.FTC_CTRL then some (refCtrl s v)
  else if b = Reg.FTC_TAL_WIN then some (talWindow s v)
  else if b = Reg.FTC_TALLY then
    some { s with hubTal := put Tally.zero s.hubTal i (tallyWrite (look Tally.zero s.hubTal i) v set) }
  else if b = Reg.MEM_REG_BASE then some (regionWrite s i 0 v)
  else if b = Reg.MEM_REG_EXTENT then some (regionWrite s i 1 v)
  else if b = Reg.MEM_REG_CHBASE then some (regionWrite s i 2 v)
  else if b = Reg.MEM_REG_CFG then some (regionWrite s i 3 v)
  else if b = Reg.MEM_CMD then some (memCmd s (fld v 3 0) (fld v 9 4))
  else if b = Reg.HUB_SVC_CMD then some (svcWrite s (fld v 3 0) cond)
  else if b = Reg.HUB_LOG_STATUS then some (logStatusWrite s i v set)
  else if b = Reg.PWR_CLK_MAX then
    some ((List.range 4).foldl showPending (setReg s off (BitVec.ofNat 32 (roundClk (fld v 10 0)))))
  else if b = Reg.PWR_CAP then some (capWrite s v)
  else none

/-! ### Register pairs (R11) -/

/-- What an accessor has latched or holds for a pair. -/
def pairSlot (l : List (Acc × Nat × W32)) (a : Acc) (off : Nat) : Option W32 :=
  (l.find? fun x => x.1 = a && x.2.1 = off).map fun x => x.2.2

/-- Without that of an accessor for a pair. -/
def pairClear (l : List (Acc × Nat × W32)) (a : Acc) (off : Nat) : List (Acc × Nat × W32) :=
  l.filter fun x => !(x.1 = a && x.2.1 = off)

/-- With a new value of an accessor for a pair. -/
def pairHold (l : List (Acc × Nat × W32)) (a : Acc) (off : Nat) (v : W32) : List (Acc × Nat × W32) :=
  pairClear l a off ++ [(a, off, v)]

/-- Whether a ring base or journal address of a pair may be written: while the pair is disabled, or, for the rings, paused
(R368, R374); any other register always. -/
def baseOpen (s : State) (base c q : Nat) : Bool :=
  if base = Reg.AVF_Q_JRNL_HI then !pairOn s c q
  else if base = Reg.AVF_Q_SQ_BASE_HI ∨ base = Reg.AVF_Q_CQ_BASE_HI then !pairOn s c q || pairPaused s c q
  else true

/-- Both halves take effect in one cycle. -/
def pairCommit (s : State) (a : Acc) (r : RegRow) (off i j : Nat) (lo hi : W32) : State :=
  let v := lo.toNat + 2 ^ 32 * hi.toNat
  if r.base = Reg.AVF_CTX_CLUSTERS_HI then clustersWrite s a i (BitVec.ofNat 64 v)
  else if r.base = Reg.FTC_CTX_START_HI then armStart (setReg64 s (off - 4) v) i
  else if !baseOpen s r.base i j then s
  else
    let low := match findRow hubRows (off - 4) with | some (q, _, _) => q | none => r
    let s := match lockHolder s r off i with
      | some c => noteLocked s c (off - 4)
      | none =>
        setReg (setReg s (off - 4) (written low false (getReg s (off - 4)) lo 0)) off (written r false (getReg s off) hi 0)
    if r.base = Reg.AVF_Q_SQ_BASE_HI then onPair s i j fun p => { p with sqHead := 0, sqTail := 0 }
    else if r.base = Reg.AVF_Q_CQ_BASE_HI then onPair s i j fun p => { p with cqTail := 0, cqUsed := 0 }
    else s

/-- A write to the lower register of a pair is held (R11). -/
def pairLow (s : State) (a : Acc) (off : Nat) (v : W32) : State := { s with heldLow := pairHold s.heldLow a off v }

/-- A write to the higher register of a pair commits what is held, or sets the upper half alone (R11). -/
def pairHigh (s : State) (a : Acc) (r : RegRow) (off i j : Nat) (v : W32) : State :=
  let lo := (pairSlot s.heldLow a (off - 4)).getD (getReg s (off - 4))
  pairCommit { s with heldLow := pairClear s.heldLow a (off - 4) } a r off i j lo v

/-- A write to a register by an accessor that may write it. -/
def regWrite (s : State) (a : Acc) (off : Nat) (v set : W32) (cond : Bool) : State :=
  match nibAt off with
  | some (n, o) => nibWrite s n o off v set
  | none => match findRow hubRows off with
    | none => s
    | some (r, i, j) =>
      if r.pair = 1 then pairLow s a off v
      else if r.pair = 2 then pairHigh s a r off i j v
      else match hubWrite s a r off i j v set cond with
        | some t => t
        | none => plainWrite s r off i v set

/-- REGISTER_WRITE (R9, R10): a host write; `set` are sticky bits that the package sets in the same cycle, `cond` the
physical condition that FENCE, REPAIR and RESUME name. -/
def execRegisterWrite (a : Acc) (off : Nat) (v set : BitVec 32) (cond : Bool) (s : State) : Out :=
  regCmd s a off fun s => regWrite s a off v set cond

/-- PAIR_LOW_WRITE (R11). -/
def execPairLowWrite (a : Acc) (off : Nat) (v : BitVec 32) (s : State) : Out :=
  regCmd s a off fun s => regWrite s a off v 0 false

/-- PAIR_HIGH_WRITE (R11). -/
def execPairHighWrite (a : Acc) (off : Nat) (v : BitVec 32) (s : State) : Out :=
  regCmd s a off fun s => regWrite s a off v 0 false

/-- A read by an accessor: nothing before READY; zero and a record where it may not read (R6, R351, R434). -/
def readCmd (s : State) (a : Acc) (off : Nat) (f : State → State) : Out :=
  if !accReady s a then .next s
  else if !implemented s off || !mayRead s a off then .next (noteUnmapped { s with busData := 0, busPoison := false } a false off)
  else .next (f { s with busPoison := false })

/-- Part of a register in a pair: 1 lower, 2 higher, 0 none. -/
def pairPart (off : Nat) : Nat := match rowAt off with | some (r, _, _) => r.pair | none => 0

/-- PAIR_LOW_READ (R11): bits [31:0], and bits [63:32] are latched for the accessor. A register of no pair reads plainly. -/
def execPairLowRead (a : Acc) (off : Nat) (s : State) : Out :=
  readCmd s a off fun s =>
    let t := { s with busData := (regView s off).toNat }
    if pairPart off = 1 then { t with latches := pairHold s.latches a off (regView s (off + 4)) } else t

/-- PAIR_HIGH_READ (R11): the accessor's latch is returned and consumed; without one, the live upper half. -/
def execPairHighRead (a : Acc) (off : Nat) (s : State) : Out :=
  readCmd s a off fun s =>
    let v := (pairSlot s.latches a (off - 4)).getD (regView s off)
    if pairPart off = 2 then { s with busData := v.toNat, latches := pairClear s.latches a (off - 4) }
    else { s with busData := (regView s off).toNat }

/-- UNMAPPED_ACCESS (R6, R434): an access that no register takes or R351 refuses. -/
def execUnmappedAccess (a : Acc) (off : Nat) (write : Bool) (s : State) : Out :=
  .next (if !accReady s a then s
    else if implemented s off && (if write then mayWrite a off else mayRead s a off) then s
    else noteUnmapped (if write then s else { s with busData := 0, busPoison := false }) a write off)

/-! ### JTAG (R443) -/

/-- BYPASS (R443): the one-bit bypass register captures 0. -/
def bypass (s : State) : State := { s with tap := { s.tap with ir := 0, dr := 0 } }

/-- BYPASS. -/
def execBypass (s : State) : Out := .next (bypass s)

/-- SAMPLE_PRELOAD (R443): the values of the lands are captured, and boundary values are preloaded. -/
def execSamplePreload (lands preload : Nat) (s : State) : Out := .next { s with tap := ⟨1, lands, preload⟩ }

/-- EXTEST (R443): accepted only while RST_PKG_N is low: the boundary values drive the lands. -/
def execExtest (pkgLow : Bool) (lands : Nat) (s : State) : Out :=
  .next (if pkgLow then send { s with tap := { s.tap with ir := 2, dr := lands } } (.packet "BOUNDARY" 0 [s.tap.boundary])
    else bypass s)

/-- IDCODE (R443). -/
def execIdcode (s : State) : Out := .next { s with tap := { s.tap with ir := 3, dr := 0x0A10A3E9 } }

end Sys2Proof.Machine
end

