-- ==== Sys2Proof/Machine/Sequencer.lean ====
section
/-!
DEFINITION. Commands of a nib's sequencer, stream-out, transfer engine and stage (R76, R35, R102, R115, R119, R122 to
R124, R154).
-/
namespace Sys2Proof.Machine

/-- BUNDLE_ISSUE (R76): one cycle of the nib, in which the bundle due issues unless a freeze or a wait holds it. -/
def execBundleIssue (n : Nat) (c : Cyc) (s : State) : Out := onNibCmd s n fun s => fetchCycle s n c

/-- FREEZE_RELEASE_ISSUE (R35): `k` further frozen cycles pass for the bundle that a freeze holds, and in the cycle
after them it issues unless a freeze holds it again. -/
def execFreezeReleaseIssue (n k : Nat) (c : Cyc) (s : State) : Out :=
  onNibCmd s n fun s =>
    match (nibOf s n).hold with
    | some h => match h.frz with
      | some z => fetchCycle (heldCheck (onNib s n fun b => countFrz b z k) n) n c
      | none => s
    | none => s

/-- CONTEXT_HALT_ARRIVAL (R102): the halt of the nib's context reaches the nib, from this package or, with `remote`,
from another package of the job; the nib stops and takes STATE 5. -/
def execContextHaltArrival (n : Nat) (remote : Bool) (s : State) : Out :=
  onNibCmd s n fun s =>
    match ctxOfNib s n with
    | none => s
    | some c =>
      if !(ctxOf s c).loaded || !(remote || (ctxOf s c).halting) then s
      else
        let s := if remote && !(ctxOf s c).halting then
            let s := haltHere s c
            if c = ribCtx s then estop s else s
          else s
        if (nibOf s n).st = 1 || (nibOf s n).st = 2 then
          let t := haltNib s n 5
          if (nibOf s n).checks.isEmpty || !fenceDue (nibOf t n) then t else fenceNib t n
        else s

/-! ### Stream-out (R115, R123) -/

/-- The row set that stream-out writes next: the least number of a row at a queue's head that is not for mpop. -/
def nextSet (b : Nib) : Option Nat :=
  let hs := (List.range 4).filterMap fun t =>
    match queueOf b t with
    | r :: _ => if r.toVec then none else some r.set
    | [] => none
  firstSub hs

/-- The rows of a row set that stand at queue heads: tine and row, in tine order. -/
def setRows (b : Nib) (k : Nat) : List (Nat × DrainRow) :=
  (List.range 4).filterMap fun t =>
    match queueOf b t with
    | r :: _ => if r.set = k && !r.toVec then some (t, r) else none
    | [] => none

/-- Codes of a row in OF, packed (R115). -/
def rowBytes (fo : Nat) (sat : Bool) (src : Nat) (codes : List Nat) : List Byte × Nat :=
  let cs := codes.map fun v => convert fo sat (decodeElem src v)
  (natLE (2 * elemBits fo) (packNat (elemBits fo) (cs.map (·.1))), cs.foldl (fun a c => a ||| c.2) 0)

/-- STREAM_OUT_WRITE: the next row set is converted and written to its ring in tine order, or waits for room; a
stage's row set enters the layer seal where the stage says so (R115, R123). -/
def streamOut (s : State) (n : Nat) : State :=
  let b := nibOf s n
  match nextSet b with
  | none => s
  | some k =>
    let rows := setRows b k
    match rows with
    | [] => s
    | (_, r0) :: _ =>
      let conv := rows.map fun p => (rowBytes r0.fo r0.sat p.2.src (p.2.vals.map (·.toNat)), p.2.poison)
      let bytes := (conv.map fun x => x.1.1).flatten
      let flags := conv.foldl (fun a x => a ||| x.1.2) 0
      let per := 2 * elemBits r0.fo
      let pois := (List.range ((bytes.length + 63) / 64)).map fun w =>
        (List.range conv.length).any fun i => decide (i * per < 64 * (w + 1)) && decide (64 * w < (i + 1) * per)
          && (conv.getD i (([], 0), false)).2
      let out := match b.stage with | some g => !r0.stage || g.streamOut | none => true
      let seal' := match b.stage with | some g => r0.stage && g.sealOn | none => false
      let x := ringOf b r0.drb
      if out && x.valid && ringFree s n r0.drb < bytes.length then s
      else
        let b := rows.foldl (fun b p => setQueue b p.1 ((queueOf b p.1).drop 1)) b
        let b := arith b flags
        let b := if out && x.valid then ringAppend b r0.drb bytes pois (ideal b) else b
        let s := setNib s n b
        let s := if seal' then absorb s n bytes (pois.any id) else s
        finishHalt s n

/-- STREAM_OUT_WRITE (R115): stream-out writes the next row set into its ring, or waits for room. -/
def execStreamOutWrite (n : Nat) (w : List WellEv) (s : State) : Out := onNibCmd s n fun s => streamOut (wellEvents s w) n

/-! ### Transfers -/

/-- TAG_LAND (R154): tag `k` of transfer `x` has all its bytes and writes its destination; `bad` are the words that the
receiving side found bad on the way (R157). -/
def execTagLand (n x k : Nat) (bad : List Nat) (w : List WellEv) (s : State) : Out :=
  onNibCmd s n fun s =>
    let s := wellEvents s w
    match (nibOf s n).xfers.find? fun y => y.id = x with
    | none => s
    | some y =>
      let s := if y.cancelled then s else detect s (y.dst.owner n) 2 bad.length
      finishHalt (landTag s n y k bad) n

/-! ### Stage commands -/

/-- The cycle of a stage whose descriptor is to be read, in the first, and checked, in the second cycle after stg: a good
one starts the stage, a bad one is a fault of the stg (R124, R125). -/
def stageSetUp (s : State) (n c : Nat) (q : StgReq) : State :=
  match q.desc with
  | none => onNib s n fun b => { b with stgReq := some { q with desc := some (stgBytes b q.addr) } }
  | some bs =>
    match stgCheck s n c q bs with
    | some (code, info) => stageFault s n c code info q.pc q.cyc
    | none => expBegin (onNib s n fun b => let b := stageStart b q bs; if q.stopping then stageStop b else b) n

/-- A cycle of the active stage (R122): nothing moves while it freezes, and a row pushed into a full queue whose head waits
for mpop is a fault (R34, R36). -/
def stageRun (s : State) (n c : Nat) (g : Stage) (cy : Cyc) : State :=
  if (stageFrz s n cy).isSome then s
  else match stageOverflow (nibOf s n) g (g.tau + 1) with
    | some t => stageFault s n c 0x02 t g.pc g.cyc
    | none => stageAdvance s n g cy.corrupt

/-- STAGE_STEP: a cycle of the stage. In a cycle in which the nib is frozen or its bundle is held by a wait, the stage
changes nothing (R35, R78); the command of the nib's cycle that says so comes first (log 127). -/
def stageCycle (s : State) (n : Nat) (cy : Cyc) : State :=
  let b := nibOf s n
  match ctxOfNib s n with
  | none => s
  | some c =>
    if b.hold.isSome then s
    else match b.stgReq, b.stage with
      | some q, _ => stageSetUp s n c q
      | none, some g => stageRun s n c g cy
      | none, none => s

/-- STAGE_STEP (R122): one unfrozen cycle of the active stage. -/
def execStageStep (n : Nat) (c : Cyc) (s : State) : Out :=
  onNibCmd s n fun s =>
    let s := wellCycle s n c
    if (nibOf s n).st = 2 then stageCycle s n c else s

/-- Whether cycle b + 3 of a stage whose stg issued in cycle b has come (R124); NIB_CYCLE counts past a cycle with the
command of that cycle. -/
def streamInOpen (b : Nib) (g : Stage) : Bool := g.cyc + 4 ≤ b.cycle || b.ending

/-- Stage stream-in issues its next transfer: at most the tags of its share (R124). -/
def stageStreamIn (s : State) (n : Nat) : State :=
  let b := nibOf s n
  match b.stage, ctxOfNib s n with
  | some g, some c =>
    if !g.streamIn || g.stopping || !streamInOpen b g then s
    else
      let tags := Nat.min (16 - stageTags b) (tagsFree b)
      let len := Nat.min (tags * 2048) (g.inLen - g.inDone)
      let src := g.inSrc + BitVec.ofNat 64 g.inDone
      if len = 0 then s
      else match (resolveAddr s n c src len false false).2 with
        | none => s
        | some p =>
          let s := onNib s n fun b => onStage b fun g => { g with inDone := g.inDone + len }
          issueXfer s n p (.ring n g.tp.wrb.toNat) len 16 true none
  | _, _ => s

/-- STAGE_STREAM_IN (R124): stream-in issues a transfer from IN_SRC into ring WRB. -/
def execStageStreamIn (n : Nat) (c : Cyc) (s : State) : Out := onNibCmd s n fun s => stageStreamIn (wellCycle s n c) n

/-- The stage ends: its last updates stand, its windows are popped, DONE is set and signalled (R122, R124, R126). -/
def stageEnd (s : State) (n : Nat) : State :=
  match (nibOf s n).stage with
  | none => s
  | some g =>
    if !stageOver (nibOf s n) g then s
    else
      let s := stageCommit s n (g.tau + 64)
      let s := onNib s n fun b =>
        let b := clearStage (popWindows b g)
        setNibF (if g.expand then { b with exp := Expander.idle } else b) Reg.NIB_STG_STATUS 2 2 1
      let s := match g.done, ctxOfNib s n with
        | some t, some c => match resolveTid s c (some n) t false with
          | some d => nibSignal s n c d 1
          | none => s
        | _, _ => s
      finishHalt s n

/-- STAGE_END (R124): after its last stream-out write the stage ends and sends DONE. -/
def execStageEnd (n : Nat) (s : State) : Out := onNibCmd s n fun s => stageEnd s n

end Sys2Proof.Machine
end

