-- ==== Sys2Proof/Machine/StmFamily.lean ====
section
/-!
DEFINITION. The instructions of the stream slot (R118), each as the issue of a bundle that holds it alone.
-/
namespace Sys2Proof.Machine

/-- XFER (R119): The nib transfer engine copies bytes between address spaces using free tags, with an optional completion signal. -/
def execXfer (n : Nat) (p : Pred) (f : StmF) (c : Cyc) (s : State) : Out :=
  slotCmd s n (stmBundle p 1 f) c

/-- SLD (R118): Loads 256 B from a well into a vector register. -/
def execSld (n : Nat) (p : Pred) (f : StmF) (c : Cyc) (s : State) : Out :=
  slotCmd s n (stmBundle p 2 f) c

/-- SST (R118): Stores 256 B from a vector register to a well or appends it to a ring. -/
def execSst (n : Nat) (p : Pred) (f : StmF) (c : Cyc) (s : State) : Out :=
  slotCmd s n (stmBundle p 3 f) c

/-- RBSET (R107): Configures a ring buffer's base, size and OFFPKG flag, leaving it empty. -/
def execRbset (n : Nat) (p : Pred) (f : StmF) (s : State) : Out :=
  slotCmd s n (stmBundle p 4 f) {}

/-- RBPOP (R118): Lowers a ring's fill by a count of bytes. -/
def execRbpop (n : Nat) (p : Pred) (f : StmF) (s : State) : Out :=
  slotCmd s n (stmBundle p 5 f) {}

/-- STG (R124): Starts a stage command: reads and checks its descriptor and takes ownership of units. -/
def execStg (n : Nat) (p : Pred) (f : StmF) (c : Cyc) (s : State) : Out :=
  slotCmd s n (stmBundle p 6 f) c

/-- STGS (R126): Stops the active stage after the group in progress. -/
def execStgs (n : Nat) (p : Pred) (f : StmF) (s : State) : Out :=
  slotCmd s n (stmBundle p 7 f) {}

/-- XCANCEL (R120): Cancels the uncompleted transfers of a group, discarding their landed bytes and signals. -/
def execXcancel (n : Nat) (p : Pred) (f : StmF) (s : State) : Out :=
  slotCmd s n (stmBundle p 8 f) {}

end Sys2Proof.Machine
end

