-- ==== Sys2Proof/Machine/SynFamily.lean ====
section
/-!
DEFINITION. The instructions of the sync slot (R127), each as the issue of a bundle that holds it alone.
-/
namespace Sys2Proof.Machine

/-- TSIG (R129): Signals a tally by an immediate count, covering the bytes issued earlier on the channel. -/
def execTsig (n : Nat) (p : Pred) (tid : BitVec 20) (n1 : BitVec 4) (s : State) : Out :=
  slotCmd s n (synBundle p (.tsig tid n1)) {}

/-- TWAIT (R128): Holds the bundle until the tally count is at least K, then subtracts K. -/
def execTwait (n : Nat) (p : Pred) (tid : BitVec 20) (k1 : BitVec 4) (s : State) : Out :=
  slotCmd s n (synBundle p (.twait tid k1)) {}

/-- TTEST (R130): Writes a predicate that tells whether the tally count is at least 1. -/
def execTtest (n : Nat) (p : Pred) (tid : BitVec 20) (pd : BitVec 3) (s : State) : Out :=
  slotCmd s n (synBundle p (.ttest tid pd)) {}

/-- TSIG_R (R127): Signals a tally named by a register, with a count from a register. -/
def execTsigR (n : Nat) (p : Pred) (sa sb : BitVec 5) (s : State) : Out :=
  slotCmd s n (synBundle p (.tsigR sa sb)) {}

/-- TWAIT_R (R127): Waits on a tally named by a register, for a count from a register. -/
def execTwaitR (n : Nat) (p : Pred) (sa sb : BitVec 5) (s : State) : Out :=
  slotCmd s n (synBundle p (.twaitR sa sb)) {}

/-- TTEST_R (R127): Writes a predicate that tells whether the tally count is at least a register's count. -/
def execTtestR (n : Nat) (p : Pred) (sa sb : BitVec 5) (pd : BitVec 3) (s : State) : Out :=
  slotCmd s n (synBundle p (.ttestR sa sb pd)) {}

/-- COLL (R131): Issues the collective described by a 64 B group descriptor. -/
def execColl (n : Nat) (p : Pred) (aa : BitVec 4) (tid : BitVec 20) (c : Cyc) (s : State) : Out :=
  slotCmd s n (synBundle p (.coll aa tid)) c

end Sys2Proof.Machine
end

