-- ==== Sys2Proof/Machine/VecFamily.lean ====
section
/-!
DEFINITION. The instructions of the vector slot (R90), each as the issue of a bundle that holds it alone.
-/
namespace Sys2Proof.Machine

/-- VADD (R90): Lane-wise vector add. -/
def execVadd (n : Nat) (p : Pred) (f : VecF) (s : State) : Out :=
  slotCmd s n (vecBundle p 0x01 f) {}

/-- VSUB (R90): Lane-wise vector subtract. -/
def execVsub (n : Nat) (p : Pred) (f : VecF) (s : State) : Out :=
  slotCmd s n (vecBundle p 0x02 f) {}

/-- VMUL (R90): Lane-wise vector multiply. -/
def execVmul (n : Nat) (p : Pred) (f : VecF) (s : State) : Out :=
  slotCmd s n (vecBundle p 0x03 f) {}

/-- VFMA (R90): Lane-wise fused multiply-add, rounded once. -/
def execVfma (n : Nat) (p : Pred) (f : VecF) (s : State) : Out :=
  slotCmd s n (vecBundle p 0x04 f) {}

/-- VMIN (R91): Lane-wise minimum. -/
def execVmin (n : Nat) (p : Pred) (f : VecF) (s : State) : Out :=
  slotCmd s n (vecBundle p 0x08 f) {}

/-- VMAX (R91): Lane-wise maximum. -/
def execVmax (n : Nat) (p : Pred) (f : VecF) (s : State) : Out :=
  slotCmd s n (vecBundle p 0x09 f) {}

/-- VCMP (R90): Lane-wise compare that writes the bits of predicate PD. -/
def execVcmp (n : Nat) (p : Pred) (f : VecF) (s : State) : Out :=
  slotCmd s n (vecBundle p 0x0A f) {}

/-- VSEL (R90): Lane-wise select between VA and VB under PD. -/
def execVsel (n : Nat) (p : Pred) (f : VecF) (s : State) : Out :=
  slotCmd s n (vecBundle p 0x0B f) {}

/-- VIADD (R90): Lane-wise INT32 add that sets INT_WRAP on a wrap. -/
def execViadd (n : Nat) (p : Pred) (f : VecF) (s : State) : Out :=
  slotCmd s n (vecBundle p 0x10 f) {}

/-- VISUB (R90): Lane-wise INT32 subtract that sets INT_WRAP on a wrap. -/
def execVisub (n : Nat) (p : Pred) (f : VecF) (s : State) : Out :=
  slotCmd s n (vecBundle p 0x11 f) {}

/-- VIAND (R90): Lane-wise INT32 AND. -/
def execViand (n : Nat) (p : Pred) (f : VecF) (s : State) : Out :=
  slotCmd s n (vecBundle p 0x12 f) {}

/-- VIOR (R90): Lane-wise INT32 OR. -/
def execVior (n : Nat) (p : Pred) (f : VecF) (s : State) : Out :=
  slotCmd s n (vecBundle p 0x13 f) {}

/-- VIXOR (R90): Lane-wise INT32 XOR. -/
def execVixor (n : Nat) (p : Pred) (f : VecF) (s : State) : Out :=
  slotCmd s n (vecBundle p 0x14 f) {}

/-- VISHL (R90): Lane-wise INT32 shift left. -/
def execVishl (n : Nat) (p : Pred) (f : VecF) (s : State) : Out :=
  slotCmd s n (vecBundle p 0x15 f) {}

/-- VISHR (R90): Lane-wise INT32 logical shift right. -/
def execVishr (n : Nat) (p : Pred) (f : VecF) (s : State) : Out :=
  slotCmd s n (vecBundle p 0x16 f) {}

/-- VISRA (R90): Lane-wise INT32 arithmetic shift right. -/
def execVisra (n : Nat) (p : Pred) (f : VecF) (s : State) : Out :=
  slotCmd s n (vecBundle p 0x17 f) {}

/-- VEXP2 (R451): Lane-wise exp2, correctly rounded. -/
def execVexp2 (n : Nat) (p : Pred) (f : VecF) (s : State) : Out :=
  slotCmd s n (vecBundle p 0x20 f) {}

/-- VLOG2 (R451): Lane-wise log2, correctly rounded. -/
def execVlog2 (n : Nat) (p : Pred) (f : VecF) (s : State) : Out :=
  slotCmd s n (vecBundle p 0x21 f) {}

/-- VEXP (R451): Lane-wise exp, correctly rounded. -/
def execVexp (n : Nat) (p : Pred) (f : VecF) (s : State) : Out :=
  slotCmd s n (vecBundle p 0x22 f) {}

/-- VLOG (R451): Lane-wise log, correctly rounded. -/
def execVlog (n : Nat) (p : Pred) (f : VecF) (s : State) : Out :=
  slotCmd s n (vecBundle p 0x23 f) {}

/-- VRCP (R451): Lane-wise reciprocal, correctly rounded. -/
def execVrcp (n : Nat) (p : Pred) (f : VecF) (s : State) : Out :=
  slotCmd s n (vecBundle p 0x24 f) {}

/-- VRSQRT (R451): Lane-wise reciprocal square root, correctly rounded. -/
def execVrsqrt (n : Nat) (p : Pred) (f : VecF) (s : State) : Out :=
  slotCmd s n (vecBundle p 0x25 f) {}

/-- VSMX (R91): Softmax assist: returns the maximum of VA and the tree sum of exp(x - max). -/
def execVsmx (n : Nat) (p : Pred) (f : VecF) (s : State) : Out :=
  slotCmd s n (vecBundle p 0x28 f) {}

/-- VRSUM (R91): Tree sum of the 64 lanes into lane 0. -/
def execVrsum (n : Nat) (p : Pred) (f : VecF) (s : State) : Out :=
  slotCmd s n (vecBundle p 0x29 f) {}

/-- VRMAX (R91): Exact maximum of the lanes into lane 0. -/
def execVrmax (n : Nat) (p : Pred) (f : VecF) (s : State) : Out :=
  slotCmd s n (vecBundle p 0x2A f) {}

/-- VTOPK (R93): Selects the K highest scores over 1 to 4 passes, with their candidate indices. -/
def execVtopk (n : Nat) (p : Pred) (f : VecF) (s : State) : Out :=
  slotCmd s n (vecBundle p 0x2C f) {}

/-- VCVT (R94): Converts the 64 elements of VA from FMT to FMT2, including MX scales carried through SB. -/
def execVcvt (n : Nat) (p : Pred) (f : VecF) (s : State) : Out :=
  slotCmd s n (vecBundle p 0x30 f) {}

/-- VBCAST (R90): Broadcasts scalar SB to every lane of VD. -/
def execVbcast (n : Nat) (p : Pred) (f : VecF) (s : State) : Out :=
  slotCmd s n (vecBundle p 0x38 f) {}

/-- VGET (R90): Copies lane LANE of VA into scalar SB. -/
def execVget (n : Nat) (p : Pred) (f : VecF) (s : State) : Out :=
  slotCmd s n (vecBundle p 0x39 f) {}

/-- VMOV (R90): Copies VA into VD. -/
def execVmov (n : Nat) (p : Pred) (f : VecF) (s : State) : Out :=
  slotCmd s n (vecBundle p 0x3A f) {}

/-- VDGA (R344): Absorbs one quarter of VA into the nib's current seal tile digest. -/
def execVdga (n : Nat) (p : Pred) (f : VecF) (s : State) : Out :=
  slotCmd s n (vecBundle p 0x3C f) {}

end Sys2Proof.Machine
end

