-- ==== Sys2Proof/Machine/Dispatch.lean ====
section
/-!
DEFINITION. Dispatch: the meaning of each command, by constructor.
-/
namespace Sys2Proof.Machine

/-- The effect of a command on everything but the queue. -/
def exec (i : Instr) (s : State) : Host.Outcome State Fault Refusal :=
  match i with
  | .registerWrite a off v set cond => Sys2Proof.Machine.execRegisterWrite a off v set cond s
  | .pairLowRead a off => Sys2Proof.Machine.execPairLowRead a off s
  | .pairHighRead a off => Sys2Proof.Machine.execPairHighRead a off s
  | .pairLowWrite a off v => Sys2Proof.Machine.execPairLowWrite a off v s
  | .pairHighWrite a off v => Sys2Proof.Machine.execPairHighWrite a off v s
  | .unmappedAccess a off write => Sys2Proof.Machine.execUnmappedAccess a off write s
  | .bundleIssue n c => Sys2Proof.Machine.execBundleIssue n c s
  | .freezeReleaseIssue n k c => Sys2Proof.Machine.execFreezeReleaseIssue n k c s
  | .alu n p sd sa sb func => Sys2Proof.Machine.execAlu n p sd sa sb func s
  | .addiS n p sd sa imm => Sys2Proof.Machine.execAddiS n p sd sa imm s
  | .andiS n p sd sa imm => Sys2Proof.Machine.execAndiS n p sd sa imm s
  | .oriS n p sd sa imm => Sys2Proof.Machine.execOriS n p sd sa imm s
  | .xoriS n p sd sa imm => Sys2Proof.Machine.execXoriS n p sd sa imm s
  | .shliS n p sd sa imm => Sys2Proof.Machine.execShliS n p sd sa imm s
  | .shriS n p sd sa imm => Sys2Proof.Machine.execShriS n p sd sa imm s
  | .sraiS n p sd sa imm => Sys2Proof.Machine.execSraiS n p sd sa imm s
  | .moviS n p sd imm => Sys2Proof.Machine.execMoviS n p sd imm s
  | .movhS n p sd imm => Sys2Proof.Machine.execMovhS n p sd imm s
  | .pset n p pd sa sb cond => Sys2Proof.Machine.execPset n p pd sa sb cond s
  | .plog n p pd pa pb pfn => Sys2Proof.Machine.execPlog n p pd pa pb pfn s
  | .aaddA n p ad aa sb shift => Sys2Proof.Machine.execAaddA n p ad aa sb shift s
  | .aaddiA n p ad aa imm => Sys2Proof.Machine.execAaddiA n p ad aa imm s
  | .asetA n p ad sa half => Sys2Proof.Machine.execAsetA n p ad sa half s
  | .amvS n p sd aa half => Sys2Proof.Machine.execAmvS n p sd aa half s
  | .bra n p off => Sys2Proof.Machine.execBra n p off s
  | .jal n p off => Sys2Proof.Machine.execJal n p off s
  | .jr n p sa => Sys2Proof.Machine.execJr n p sa s
  | .loopS n p sc len => Sys2Proof.Machine.execLoopS n p sc len s
  | .loopi n p count len => Sys2Proof.Machine.execLoopi n p count len s
  | .rdsys n p sd sel => Sys2Proof.Machine.execRdsys n p sd sel s
  | .halt n p => Sys2Proof.Machine.execHalt n p s
  | .trap n p code => Sys2Proof.Machine.execTrap n p code s
  | .contextHaltArrival n remote => Sys2Proof.Machine.execContextHaltArrival n remote s
  | .vadd n p f => Sys2Proof.Machine.execVadd n p f s
  | .vsub n p f => Sys2Proof.Machine.execVsub n p f s
  | .vmul n p f => Sys2Proof.Machine.execVmul n p f s
  | .vfma n p f => Sys2Proof.Machine.execVfma n p f s
  | .vmin n p f => Sys2Proof.Machine.execVmin n p f s
  | .vmax n p f => Sys2Proof.Machine.execVmax n p f s
  | .vcmp n p f => Sys2Proof.Machine.execVcmp n p f s
  | .vsel n p f => Sys2Proof.Machine.execVsel n p f s
  | .viadd n p f => Sys2Proof.Machine.execViadd n p f s
  | .visub n p f => Sys2Proof.Machine.execVisub n p f s
  | .viand n p f => Sys2Proof.Machine.execViand n p f s
  | .vior n p f => Sys2Proof.Machine.execVior n p f s
  | .vixor n p f => Sys2Proof.Machine.execVixor n p f s
  | .vishl n p f => Sys2Proof.Machine.execVishl n p f s
  | .vishr n p f => Sys2Proof.Machine.execVishr n p f s
  | .visra n p f => Sys2Proof.Machine.execVisra n p f s
  | .vexp2 n p f => Sys2Proof.Machine.execVexp2 n p f s
  | .vlog2 n p f => Sys2Proof.Machine.execVlog2 n p f s
  | .vexp n p f => Sys2Proof.Machine.execVexp n p f s
  | .vlog n p f => Sys2Proof.Machine.execVlog n p f s
  | .vrcp n p f => Sys2Proof.Machine.execVrcp n p f s
  | .vrsqrt n p f => Sys2Proof.Machine.execVrsqrt n p f s
  | .vsmx n p f => Sys2Proof.Machine.execVsmx n p f s
  | .vrsum n p f => Sys2Proof.Machine.execVrsum n p f s
  | .vrmax n p f => Sys2Proof.Machine.execVrmax n p f s
  | .vtopk n p f => Sys2Proof.Machine.execVtopk n p f s
  | .vcvt n p f => Sys2Proof.Machine.execVcvt n p f s
  | .vbcast n p f => Sys2Proof.Machine.execVbcast n p f s
  | .vget n p f => Sys2Proof.Machine.execVget n p f s
  | .vmov n p f => Sys2Proof.Machine.execVmov n p f s
  | .vdga n p f => Sys2Proof.Machine.execVdga n p f s
  | .mld n p f c => Sys2Proof.Machine.execMld n p f c s
  | .mlda n p f c => Sys2Proof.Machine.execMlda n p f c s
  | .mmul n p f c => Sys2Proof.Machine.execMmul n p f c s
  | .mdrain n p f => Sys2Proof.Machine.execMdrain n p f s
  | .mpop n p f => Sys2Proof.Machine.execMpop n p f s
  | .streamOutWrite n w => Sys2Proof.Machine.execStreamOutWrite n w s
  | .xfer n p f c => Sys2Proof.Machine.execXfer n p f c s
  | .tagLand n x k bad w => Sys2Proof.Machine.execTagLand n x k bad w s
  | .sld n p f c => Sys2Proof.Machine.execSld n p f c s
  | .sst n p f c => Sys2Proof.Machine.execSst n p f c s
  | .rbset n p f => Sys2Proof.Machine.execRbset n p f s
  | .rbpop n p f => Sys2Proof.Machine.execRbpop n p f s
  | .stg n p f c => Sys2Proof.Machine.execStg n p f c s
  | .stageStep n c => Sys2Proof.Machine.execStageStep n c s
  | .stageStreamIn n c => Sys2Proof.Machine.execStageStreamIn n c s
  | .stageEnd n => Sys2Proof.Machine.execStageEnd n s
  | .stgs n p f => Sys2Proof.Machine.execStgs n p f s
  | .xcancel n p f => Sys2Proof.Machine.execXcancel n p f s
  | .tsig n p tid n1 => Sys2Proof.Machine.execTsig n p tid n1 s
  | .twait n p tid k1 => Sys2Proof.Machine.execTwait n p tid k1 s
  | .twaitSatisfied n k c => Sys2Proof.Machine.execTwaitSatisfied n k c s
  | .ttest n p tid pd => Sys2Proof.Machine.execTtest n p tid pd s
  | .tsigR n p sa sb => Sys2Proof.Machine.execTsigR n p sa sb s
  | .twaitR n p sa sb => Sys2Proof.Machine.execTwaitR n p sa sb s
  | .ttestR n p sa sb pd => Sys2Proof.Machine.execTtestR n p sa sb pd s
  | .coll n p aa tid c => Sys2Proof.Machine.execColl n p aa tid c s
  | .signalRelease src k => Sys2Proof.Machine.execSignalRelease src k s
  | .signalArrive d k ext => Sys2Proof.Machine.execSignalArrive d k ext s
  | .remoteWaitArrive n => Sys2Proof.Machine.execRemoteWaitArrive n s
  | .hangWatchdog c t => Sys2Proof.Machine.execHangWatchdog c t s
  | .talWinRead a v => Sys2Proof.Machine.execTalWinRead a v s
  | .talWinWrite a v => Sys2Proof.Machine.execTalWinWrite a v s
  | .frzClear a n v => Sys2Proof.Machine.execFrzClear a n v s
  | .rotationForward n k bad w => Sys2Proof.Machine.execRotationForward n k bad w s
  | .chainForward d c k bad ecc w => Sys2Proof.Machine.execChainForward d c k bad ecc w s
  | .landingFrameRelease d => Sys2Proof.Machine.execLandingFrameRelease d s
  | .meshFlitSend d f cycle => Sys2Proof.Machine.execMeshFlitSend d f cycle s
  | .crossingDeliver d f => Sys2Proof.Machine.execCrossingDeliver d f s
  | .expanderFactorLoad n w => Sys2Proof.Machine.execExpanderFactorLoad n w s
  | .expanderTile n mismatch w => Sys2Proof.Machine.execExpanderTile n mismatch w s
  | .form a => Sys2Proof.Machine.execForm a s
  | .formMarkReceive ccw ribbon pos port => Sys2Proof.Machine.execFormMarkReceive ccw ribbon pos port s
  | .formTimeout t => Sys2Proof.Machine.execFormTimeout t s
  | .dirchkReceive ccw pos set dig => Sys2Proof.Machine.execDirchkReceive ccw pos set dig s
  | .start a => Sys2Proof.Machine.execStart a s
  | .stop a => Sys2Proof.Machine.execStop a s
  | .estop a => Sys2Proof.Machine.execEstop a s
  | .estopReceive => Sys2Proof.Machine.execEstopReceive s
  | .resume a ready => Sys2Proof.Machine.execResume a ready s
  | .switch a policy => Sys2Proof.Machine.execSwitch a policy s
  | .release a => Sys2Proof.Machine.execRelease a s
  | .lapMarkOriginate => Sys2Proof.Machine.execLapMarkOriginate s
  | .lapMarkReceive ccw m => Sys2Proof.Machine.execLapMarkReceive ccw m s
  | .lapMarkReturn ccw m => Sys2Proof.Machine.execLapMarkReturn ccw m s
  | .stopMarkReceive ccw m => Sys2Proof.Machine.execStopMarkReceive ccw m s
  | .heartbeat ccw incoming => Sys2Proof.Machine.execHeartbeat ccw incoming s
  | .hopTimeout ccw t => Sys2Proof.Machine.execHopTimeout ccw t s
  | .lapClose => Sys2Proof.Machine.execLapClose s
  | .blockLaunch pos => Sys2Proof.Machine.execBlockLaunch pos s
  | .slabForward ccw pos data bad => Sys2Proof.Machine.execSlabForward ccw pos data bad s
  | .slabLand pos => Sys2Proof.Machine.execSlabLand pos s
  | .memberFailed m => Sys2Proof.Machine.execMemberFailed m s
  | .ribbonClosure joined => Sys2Proof.Machine.execRibbonClosure joined s
  | .dirRead a v => Sys2Proof.Machine.execDirRead a v s
  | .dirWrite a v => Sys2Proof.Machine.execDirWrite a v s
  | .regionWrite a r w v => Sys2Proof.Machine.execRegionWrite a r w v s
  | .zero a r => Sys2Proof.Machine.execZero a r s
  | .rebuild a r => Sys2Proof.Machine.execRebuild a r s
  | .rebuildStripe r => Sys2Proof.Machine.execRebuildStripe r s
  | .refold a r => Sys2Proof.Machine.execRefold a r s
  | .hbmRead dpa corr uncorr => Sys2Proof.Machine.execHbmRead dpa corr uncorr s
  | .hbmWrite dpa data poison => Sys2Proof.Machine.execHbmWrite dpa data poison s
  | .adderWrite dpa data poison => Sys2Proof.Machine.execAdderWrite dpa data poison s
  | .refreshSlot ch t => Sys2Proof.Machine.execRefreshSlot ch t s
  | .calibrationSlot ch t => Sys2Proof.Machine.execCalibrationSlot ch t s
  | .offScheduleRefresh st => Sys2Proof.Machine.execOffScheduleRefresh st s
  | .stackTempReport st temp t => Sys2Proof.Machine.execStackTempReport st temp t s
  | .channelFail ch fabric => Sys2Proof.Machine.execChannelFail ch fabric s
  | .cxlLinkDown => Sys2Proof.Machine.execCxlLinkDown s
  | .bar4Access a off len wr => Sys2Proof.Machine.execBar4Access a off len wr s
  | .flitSend p => Sys2Proof.Machine.execFlitSend p s
  | .flitReceive p f errs hit => Sys2Proof.Machine.execFlitReceive p f errs hit s
  | .nakReceive p seq => Sys2Proof.Machine.execNakReceive p seq s
  | .fecLockLoss p lane ns => Sys2Proof.Machine.execFecLockLoss p lane ns s
  | .portDown p lost apart => Sys2Proof.Machine.execPortDown p lost apart s
  | .trainingTimeout p t => Sys2Proof.Machine.execTrainingTimeout p t s
  | .trainingRetry p t => Sys2Proof.Machine.execTrainingRetry p t s
  | .identityFlitReceive p id accepted => Sys2Proof.Machine.execIdentityFlitReceive p id accepted s
  | .retrain a p v => Sys2Proof.Machine.execRetrain a p v s
  | .linkRecalBurst p lane margin t => Sys2Proof.Machine.execLinkRecalBurst p lane margin t s
  | .laneSpare p lane peerFree => Sys2Proof.Machine.execLaneSpare p lane peerFree s
  | .routeWinRead a v => Sys2Proof.Machine.execRouteWinRead a v s
  | .routeWinWrite a v => Sys2Proof.Machine.execRouteWinWrite a v s
  | .ftcExchange p => Sys2Proof.Machine.execFtcExchange p s
  | .ftcParentLost => Sys2Proof.Machine.execFtcParentLost s
  | .ftcHoldoverTick => Sys2Proof.Machine.execFtcHoldoverTick s
  | .ftcRefEdge => Sys2Proof.Machine.execFtcRefEdge s
  | .ftcRefTimeout t => Sys2Proof.Machine.execFtcRefTimeout t s
  | .segmentArrive tag id src owner seq mark members lanes poison crc lost ecc => Sys2Proof.Machine.execSegmentArrive tag id src owner seq mark members lanes poison crc lost ecc s
  | .slabSlotGrant => Sys2Proof.Machine.execSlabSlotGrant s
  | .collAgreement c id others order => Sys2Proof.Machine.execCollAgreement c id others order s
  | .endpointFallback c id owner seq stage t => Sys2Proof.Machine.execEndpointFallback c id owner seq stage t s
  | .collComplete c id => Sys2Proof.Machine.execCollComplete c id s
  | .exactModeWrite a c v => Sys2Proof.Machine.execExactModeWrite a c v s
  | .startArm a c v => Sys2Proof.Machine.execStartArm a c v s
  | .startRecordReceive c r => Sys2Proof.Machine.execStartRecordReceive c r s
  | .startRecordTimeout c t => Sys2Proof.Machine.execStartRecordTimeout c t s
  | .goReceive c => Sys2Proof.Machine.execGoReceive c s
  | .refuseReceive c res member => Sys2Proof.Machine.execRefuseReceive c res member s
  | .startVerdictTimeout c t => Sys2Proof.Machine.execStartVerdictTimeout c t s
  | .jobStart c delay => Sys2Proof.Machine.execJobStart c delay s
  | .layerRecordWrite c pass layer => Sys2Proof.Machine.execLayerRecordWrite c pass layer s
  | .sqTailDoorbell a q v => Sys2Proof.Machine.execSqTailDoorbell a q v s
  | .cqHeadDoorbell a q v => Sys2Proof.Machine.execCqHeadDoorbell a q v s
  | .commandFetch c q => Sys2Proof.Machine.execCommandFetch c q s
  | .completionWrite c q => Sys2Proof.Machine.execCompletionWrite c q s
  | .queueEnable a c q v => Sys2Proof.Machine.execQueueEnable a c q v s
  | .queueDisable a c q v => Sys2Proof.Machine.execQueueDisable a c q v s
  | .queuePause a c q v => Sys2Proof.Machine.execQueuePause a c q v s
  | .queueResume a c q v => Sys2Proof.Machine.execQueueResume a c q v s
  | .busMasterDisable c => Sys2Proof.Machine.execBusMasterDisable c s
  | .functionLevelReset c => Sys2Proof.Machine.execFunctionLevelReset c s
  | .clustersWrite a c v => Sys2Proof.Machine.execClustersWrite a c v s
  | .contextBindWrite a c v => Sys2Proof.Machine.execContextBindWrite a c v s
  | .nop c q => Sys2Proof.Machine.execNop c q s
  | .load c q => Sys2Proof.Machine.execLoad c q s
  | .unload c q => Sys2Proof.Machine.execUnload c q s
  | .hostXfer c q => Sys2Proof.Machine.execHostXfer c q s
  | .stripDelivered c q seq ep => Sys2Proof.Machine.execStripDelivered c q seq ep s
  | .pageFault c q seq k refused => Sys2Proof.Machine.execPageFault c q seq k refused s
  | .pageRequestResponse c q seq ok => Sys2Proof.Machine.execPageRequestResponse c q seq ok s
  | .priTimeout c q seq t => Sys2Proof.Machine.execPriTimeout c q seq t s
  | .tallySignal c q => Sys2Proof.Machine.execTallySignal c q s
  | .tallyWait c q => Sys2Proof.Machine.execTallyWait c q s
  | .tallyWaitTimeout c q seq t => Sys2Proof.Machine.execTallyWaitTimeout c q seq t s
  | .ribReq c q => Sys2Proof.Machine.execRibReq c q s
  | .tierCopy c q => Sys2Proof.Machine.execTierCopy c q s
  | .sealOutput c q => Sys2Proof.Machine.execSeal c q s
  | .manifestLoad c q => Sys2Proof.Machine.execManifestLoad c q s
  | .verifyBlocks c q => Sys2Proof.Machine.execVerifyBlocks c q s
  | .verifyNoticeReceive pos body => Sys2Proof.Machine.execVerifyNoticeReceive pos body s
  | .attest c q => Sys2Proof.Machine.execAttest c q s
  | .recordWrite c q => Sys2Proof.Machine.execRecordWrite c q s
  | .ownerCmd c q => Sys2Proof.Machine.execOwnerCmd c q s
  | .ownerSet wrote => Sys2Proof.Machine.execOwnerSet wrote s
  | .floorCommit wrote => Sys2Proof.Machine.execFloorCommit wrote s
  | .acceptFound => Sys2Proof.Machine.execAcceptFound s
  | .ownerClear wrote => Sys2Proof.Machine.execOwnerClear wrote s
  | .blockDigest c q => Sys2Proof.Machine.execBlockDigest c q s
  | .releaseManifest c q => Sys2Proof.Machine.execReleaseManifest c q s
  | .getReport b c nonce => Sys2Proof.Machine.execGetReport b c nonce s
  | .getCert b => Sys2Proof.Machine.execGetCert b s
  | .mctpOwnerCmd b token => Sys2Proof.Machine.execMctpOwnerCmd b token s
  | .getNonce b => Sys2Proof.Machine.execGetNonce b s
  | .pldmFirmwareUpdate b image => Sys2Proof.Machine.execPldmFirmwareUpdate b image s
  | .bootStage0 readable fails => Sys2Proof.Machine.execBootStage0 readable fails s
  | .bootStage1 => Sys2Proof.Machine.execBootStage1 s
  | .bootStage2 w0 w1 devices gib equal => Sys2Proof.Machine.execBootStage2 w0 w1 devices gib equal s
  | .inputOverVoltage => Sys2Proof.Machine.execInputOverVoltage s
  | .inputUnderVoltage => Sys2Proof.Machine.execInputUnderVoltage s
  | .inputBelowAonFloor => Sys2Proof.Machine.execInputBelowAonFloor s
  | .inputCurrentLimit => Sys2Proof.Machine.execInputCurrentLimit s
  | .powerUp stackIns => Sys2Proof.Machine.execPowerUp stackIns s
  | .clusterWake => Sys2Proof.Machine.execClusterWake s
  | .clockStep d => Sys2Proof.Machine.execClockStep d s
  | .powerSample mv ca doms => Sys2Proof.Machine.execPowerSample mv ca doms s
  | .capWindow => Sys2Proof.Machine.execCapWindow s
  | .clockStop d => Sys2Proof.Machine.execClockStop d s
  | .thermalSample tc tw hub optics => Sys2Proof.Machine.execThermalSample tc tw hub optics s
  | .errorReport k => Sys2Proof.Machine.execErrorReport k s
  | .fence a peerFree => Sys2Proof.Machine.execFence a peerFree s
  | .testUnit a => Sys2Proof.Machine.execTest a s
  | .testEnd kind unit pass part index detail => Sys2Proof.Machine.execTestEnd kind unit pass part index detail s
  | .returnUnit a => Sys2Proof.Machine.execReturn a s
  | .repair a results => Sys2Proof.Machine.execRepair a results s
  | .abort a => Sys2Proof.Machine.execAbort a s
  | .owlWatchdogTimeout ecc => Sys2Proof.Machine.execOwlWatchdogTimeout ecc s
  | .owlRestartComplete => Sys2Proof.Machine.execOwlRestartComplete s
  | .sensorRefresh => Sys2Proof.Machine.execSensorRefresh s
  | .hubScrub hits => Sys2Proof.Machine.execHubScrub hits s
  | .aonReset => Sys2Proof.Machine.execAonReset s
  | .packageReset aonLow => Sys2Proof.Machine.execPackageReset aonLow s
  | .perstAssert port => Sys2Proof.Machine.execPerstAssert port s
  | .perstRelease port width => Sys2Proof.Machine.execPerstRelease port width s
  | .bypass => Sys2Proof.Machine.execBypass s
  | .samplePreload lands preload => Sys2Proof.Machine.execSamplePreload lands preload s
  | .extest pkgLow lands => Sys2Proof.Machine.execExtest pkgLow lands s
  | .idcode => Sys2Proof.Machine.execIdcode s
  | .lightDetect p => Sys2Proof.Machine.execLightDetect p s
  | .equaliseComplete p => Sys2Proof.Machine.execEqualiseComplete p s
  | .fecLockAcquire p lanes => Sys2Proof.Machine.execFecLockAcquire p lanes s
  | .recalibrationBurstEnd p => Sys2Proof.Machine.execRecalibrationBurstEnd p s
  | .tierCopyComplete c q seq n => Sys2Proof.Machine.execTierCopyComplete c q seq n s
  | .atsInvalidation port iova len => Sys2Proof.Machine.execAtsInvalidation port iova len s
  | .opportunisticCalibration ch t => Sys2Proof.Machine.execOpportunisticCalibration ch t s
  | .busMasterEnable c => Sys2Proof.Machine.execBusMasterEnable c s
  | .segmentAcknowledge c id owner seq mark tgt ok => Sys2Proof.Machine.execSegmentAcknowledge c id owner seq mark tgt ok s
  | .blockHashComplete no => Sys2Proof.Machine.execBlockHashComplete no s
  | .mctpEndpointIdAssign b eid => Sys2Proof.Machine.execMctpEndpointIdAssign b eid s

end Sys2Proof.Machine
end

