-- ==== Sys2Proof/Safety.lean ====
section
/-!
DEFINITION. The vocabulary of the claims: what it means that a command completes, when a nib is ready to issue, what an
issued bundle leaves in its nib, and what a command leaves unchanged.
-/
namespace Sys2Proof.Machine

/-- A command answers a next state, of which `P` holds. -/
def Answers (i : Instr) (s : State) (P : State → Prop) : Prop := ∃ t, exec i s = .next t ∧ P t

/-- Nothing changed but nib `n`. -/
def OnlyNib (s t : State) (n : Nat) : Prop := t = { s with nibs := t.nibs } ∧ ∀ m, m ≠ n → nibOf t m = nibOf s m

/-- Nothing changed but hub registers, of those only the ones at `offs`. -/
def OnlyRegs (s t : State) (offs : List Nat) : Prop :=
  t = { s with regs := t.regs } ∧ ∀ o, o ∉ offs → getReg t o = getReg s o

/-- Nib `n` of context `c` is to issue its next bundle in this cycle: it is populated and runs (R14, R104), no bundle is
held before (R34, R128), and, as the registers stand after the writes due now, its stage does not freeze (R34), it is not in
a delay slot that ends a loop (R81), no fencing is due (R46), and no failed comparison is reported in this cycle (R42). -/
def slotReady (s : State) (n c : Nat) (cy : Cyc := {}) : Bool :=
  populated s n && running (nibOf s n) && (nibOf s n).hold.isNone && (ctxOfNib s n == some c)
    && (let t := commit s n
        let b := nibOf t n
        (stageFrz t n cy).isNone && !(b.branch.isSome && atLoopEnd b) && b.hold.isNone
          && !(fenceThr b ≤ fld (nibReg b Reg.NIB_ABFT_FENCE_COUNT) 7 0) && b.checks.all fun k => b.cycle < k.due)

/-- Nib `n` of context `c` is populated and runs (R14, R104), and holds no bundle back (R34, R128). -/
def nibDue (s : State) (n c : Nat) : Bool :=
  populated s n && running (nibOf s n) && (nibOf s n).hold.isNone && ctxOfNib s n == some c

/-- A nib with writes scheduled, each with its latency, from the bundle that issues now (R77). -/
def withWrites (b : Nib) (ws : List (Nat × Wr)) : Nib := { b with pend := b.pend ++ ws.map fun w => ⟨b.clk + w.1, w.2⟩ }

/-- A nib after the issue of a bundle at FTC time `now`: counters (R78), and sequencing by the control operation `o` that
executed (R80, R83). -/
def issuedNib (b : Nib) (now : Nat) (o : Option Ctl) : Nib :=
  sequence
    { b with
      lastIssue := now
      wait := { b.wait with valid := false, granted := false, queued := false, reply := none }
      clk := b.clk + 1
      cycle := satAdd (2 ^ 64 - 1) b.cycle 1 } o

/-- The command issues at nib `n`: from the state in which the writes due have landed it changes that nib alone, by `g` and
as a bundle does whose control operation is `o`. -/
def Issues (i : Instr) (s : State) (n : Nat) (o : Option Ctl) (g : Nib → Nib) : Prop :=
  Answers i s fun t =>
    OnlyNib (commit s n) t n ∧ nibOf t n = issuedNib (g (nibOf (commit s n) n)) (commit s n).ftc o

/-- Scalar, address and predicate registers as an instruction of nib `n` reads them. -/
def atIssue (s : State) (n : Nat) : Nib := nibOf (commit s n) n

/-- What an instruction with predicate `p` does to nib `n`: `g` where the predicate holds at issue, else nothing (R73, R74). -/
def under (s : State) (n : Nat) (p : Pred) (g : Nib → Nib) (b : Nib) : Nib :=
  if predHolds (atIssue s n) p then g b else b

/-- The control operation that executes, where its predicate holds at issue. -/
def ctlUnder (s : State) (n : Nat) (p : Pred) (o : Ctl) : Option Ctl :=
  if predHolds (atIssue s n) p then some o else none

/-- What a vector instruction does to nib `n`: `g`, given the elements in which it executes, where it executes in any (R74,
R96). -/
def vecUnder (s : State) (n : Nat) (p : Pred) (op : Nat) (f : VecF) (g : List Bool → Nib → Nib) (b : Nib) : Nib :=
  if (vecSel (atIssue s n) p op f).any id then g (vecSel (atIssue s n) p op f) b else b

/-- A nib ready to issue a vector instruction: no stage owns the brush (R125), and a vtopk does not follow another too closely
(R93). -/
def vecReady (s : State) (n c op : Nat) : Bool :=
  slotReady s n c && (match (atIssue s n).stage with | some g => !g.brush | none => true)
    && (match (atIssue s n).topk with | some (k, p) => !(op = 0x2C && decide ((atIssue s n).clk - k < p)) | none => true)

/-- Element codes of the result of a lane-wise operation: `r i` where element `i` executes. -/
def codesOf (sel : List Bool) (r : Nat → Nat) : List Nat := (List.range 64).map fun i => if sel.getD i false then r i else 0

/-- A vector result in FP32 or BF16, by elements of `w` bits: `r i` in element `i`, with the poison of the sources. -/
def vecResult (f : VecF) (w : Nat) (srcs : List (Nat × List Bool)) (sel : List Bool) (r : Nat → Nat) : Wr :=
  .v f.vd.toNat (packedLanes w sel (codesOf sel r)) (packedPois w sel srcs)

/-- Element `i` of the first operand, of the second (VB or broadcast SB), and of VC, as codes of `w` bits. -/
def elemA (b : Nib) (f : VecF) (w i : Nat) : Nat := (elems b f.va.toNat w).getD i 0
/-- Element of the second operand. -/
def elemB (b : Nib) (f : VecF) (w i : Nat) : Nat := (vecB b f w).getD i 0
/-- Element of VC. -/
def elemC (b : Nib) (f : VecF) (w i : Nat) : Nat := (elems b f.vc.toNat w).getD i 0

/-- Bundle `x` can issue at nib `n` in state `v`, with the conditions `cy` of its cycle: nothing freezes it (R34), its sync
slot waits for nothing (R128), no slot faults (R101), and it does not halt (R88). -/
def issueOk (v : State) (n c : Nat) (x : Bundle) (cy : Cyc) : Bool :=
  (matFrz v n x.mat cy).isNone && (stageFrz v n cy).isNone && waitOf v n c x.syn == .none
    && (bundleFaults v n c x).isEmpty && !(ctlOn (nibOf v n) x == some .halt)

/-- State `t` is what the issue of bundle `x` at nib `n` makes of `v`: the slots take effect from the registers as they
stand at issue, then the nib moves on. -/
def IssuedFrom (v t : State) (n c : Nat) (x : Bundle) (cy : Cyc) : Prop :=
  t = fenceCheck (finishIssue (runSlots v n c x cy) n (ctlOn (nibOf v n) x)) n

/-- A cycle that brings no lost bank access and no well error (R134, R157). -/
def calm (cy : Cyc) : Bool :=
  cy.lost = 0 && cy.wellBad.isEmpty && cy.wellCorr = 0 && cy.landBad.isEmpty && cy.wells.isEmpty

/-- A nib ready for matrix instruction `op` with fields `f`: the cycle brings no lost bank and no well error, the slot does
not fault (R58, R101, R106, R110, R125) and its ports are ready (R34). -/
def matReady (s : State) (n c : Nat) (p : Pred) (op : BitVec 4) (f : MatF) (cy : Cyc) : Bool :=
  slotReady s n c cy && calm cy
    && (matFault (atIssue s n) (matBundle p op f).mat).isNone && (matFrz (commit s n) n (matBundle p op f).mat cy).isNone

/-- A nib ready for stream instruction `op` with fields `f`: the slot does not fault (R106, R118, R119, R121). -/
def stmReady (s : State) (n c : Nat) (p : Pred) (op : BitVec 6) (f : StmF) (cy : Cyc := {}) : Bool :=
  slotReady s n c cy && calm cy && (stmFault (commit s n) n c (stmBundle p op f).stm).isNone

/-- A nib ready for a sync instruction: the slot does not fault (R127, R255, R320). -/
def synReady (s : State) (n c : Nat) (p : Pred) (o : Syn) (cy : Cyc := {}) : Bool :=
  slotReady s n c cy && calm cy && (synFault (commit s n) n c (synBundle p o).syn).isNone && !(atIssue s n).wait.queued

/-- A register that accessor `a` may write at offset `off` (R6, R351, R433, R434). -/
def regOpen (s : State) (a : Acc) (off : Nat) : Bool := accReady s a && implemented s off && mayWrite a off

/-- A register that an accessor may read at `off`. -/
def regReadable (s : State) (a : Acc) (off : Nat) : Bool := accReady s a && implemented s off && mayRead s a off

/-- The word kept at a BAR0 offset: of a nib's window or of the hub. -/
def regWord (s : State) (off : Nat) : W32 :=
  match nibAt off with
  | some (n, o) => nibReg (nibOf s n) o
  | none => getReg s off

/-- A register that acts by its access codes alone: no tally and no freeze control of a nib, no half of a pair, and no
register of `hubWrite`. -/
def plainReg (s : State) (a : Acc) (off : Nat) (v set : W32) (cond : Bool) : Bool :=
  match nibAt off with
  | some (_, o) => o ≠ Reg.NIB_FRZ_CTRL && !(Reg.NIB_TAL ≤ o && o < Reg.NIB_TAL + 64)
  | none => match findRow hubRows off with
    | some (r, i, j) => r.pair = 0 && (hubWrite s a r off i j v set cond).isNone
    | none => false

/-- The completion with which a command ends now. -/
def doneComp (s : State) (x : AvCmd) (status result cursor : Nat) : Comp :=
  ⟨x.c, x.q, x.f 4 4, x.f 8 8, status, x.f 0 1, false, bitOf (x.f 1 1) 1, result, cursor, s.ftc⟩

/-- Command `x` has ended with a status, and no other command has. -/
def Finished (s t : State) (x : AvCmd) (status result cursor : Nat) : Prop :=
  t.comps = s.comps ++ [doneComp s x status result cursor] ∧ t.cmds = s.cmds.filter fun y => y.no ≠ x.no

/-- A 64 B word at a DPA that lies in a region without failed channels, outside write locks. -/
def plainAt (s : State) (dpa : Nat) : Bool :=
  dpa % 64 = 0 && match locate s dpa with
    | some l => l.ch < 256 && (failedIn s l.r l.group).isEmpty && !locked s l.ch l.gran
    | none => false

end Sys2Proof.Machine
end

