-- ==== Sys2Proof/WellFormed.lean ====
section
/-!
DEFINITION. Well-formed commands: those that name units the package can have (R13, R14, R222, R301, R373, R433), and
instructions whose fields are those of a valid encoding (R84, R89, R109, R117). `exec` gives the others a meaning too: the
fault 0x01 of R101, or the fault that there is no such unit.
-/
namespace Sys2Proof
open Machine

/-- An accessor that exists: a function of a host port (PF 0 to VF 15), or the Owl. -/
def Acc.wf : Acc → Bool
  | .host p f => decide (p < 2) && decide (f < 16)
  | .owl => true

/-- A tally that exists (R247). -/
def TalRef.wf : TalRef → Bool
  | .nib n i => decide (n < 3072) && decide (i < 16)
  | .hub h => decide (h < Config.hubTallies)

/-- A source of held signals that exists (R261). -/
def SigSrc.wf : SigSrc → Bool
  | .nib n => decide (n < 3072)
  | .host p => decide (p < 16)
  | .ribbon => true
  | .coll => true

/-- A well-formed command. -/
def Instr.wf : Instr → Bool
  | .registerWrite a _ _ _ _ => a.wf
  | .pairLowRead a _ => a.wf
  | .pairHighRead a _ => a.wf
  | .pairLowWrite a _ _ => a.wf
  | .pairHighWrite a _ _ => a.wf
  | .unmappedAccess a _ _ => a.wf
  | .bundleIssue n _ => decide (n < 3072)
  | .freezeReleaseIssue n _ _ => decide (n < 3072)
  | .alu n _ sd sa sb func => decide (n < 3072) && ctlOk (.alu sd sa sb func)
  | .addiS n _ sd sa imm => decide (n < 3072) && ctlOk (.immS 0 sd sa imm)
  | .andiS n _ sd sa imm => decide (n < 3072) && ctlOk (.immS 1 sd sa imm)
  | .oriS n _ sd sa imm => decide (n < 3072) && ctlOk (.immS 2 sd sa imm)
  | .xoriS n _ sd sa imm => decide (n < 3072) && ctlOk (.immS 3 sd sa imm)
  | .shliS n _ sd sa imm => decide (n < 3072) && ctlOk (.immS 4 sd sa imm)
  | .shriS n _ sd sa imm => decide (n < 3072) && ctlOk (.immS 5 sd sa imm)
  | .sraiS n _ sd sa imm => decide (n < 3072) && ctlOk (.immS 6 sd sa imm)
  | .moviS n _ _ _ => decide (n < 3072)
  | .movhS n _ _ _ => decide (n < 3072)
  | .pset n _ pd sa sb cond => decide (n < 3072) && ctlOk (.pset pd sa sb cond)
  | .plog n _ _ _ _ _ => decide (n < 3072)
  | .aaddA n _ _ _ _ _ => decide (n < 3072)
  | .aaddiA n _ _ _ _ => decide (n < 3072)
  | .asetA n _ _ _ _ => decide (n < 3072)
  | .amvS n _ _ _ _ => decide (n < 3072)
  | .bra n _ _ => decide (n < 3072)
  | .jal n _ _ => decide (n < 3072)
  | .jr n _ _ => decide (n < 3072)
  | .loopS n _ _ _ => decide (n < 3072)
  | .loopi n _ _ _ => decide (n < 3072)
  | .rdsys n _ sd sel => decide (n < 3072) && ctlOk (.rdsys sd sel)
  | .halt n _ => decide (n < 3072)
  | .trap n _ _ => decide (n < 3072)
  | .contextHaltArrival n _ => decide (n < 3072)
  | .vadd n _ f => decide (n < 3072) && vecOk 1 f
  | .vsub n _ f => decide (n < 3072) && vecOk 2 f
  | .vmul n _ f => decide (n < 3072) && vecOk 3 f
  | .vfma n _ f => decide (n < 3072) && vecOk 4 f
  | .vmin n _ f => decide (n < 3072) && vecOk 8 f
  | .vmax n _ f => decide (n < 3072) && vecOk 9 f
  | .vcmp n _ f => decide (n < 3072) && vecOk 10 f
  | .vsel n _ f => decide (n < 3072) && vecOk 11 f
  | .viadd n _ f => decide (n < 3072) && vecOk 16 f
  | .visub n _ f => decide (n < 3072) && vecOk 17 f
  | .viand n _ f => decide (n < 3072) && vecOk 18 f
  | .vior n _ f => decide (n < 3072) && vecOk 19 f
  | .vixor n _ f => decide (n < 3072) && vecOk 20 f
  | .vishl n _ f => decide (n < 3072) && vecOk 21 f
  | .vishr n _ f => decide (n < 3072) && vecOk 22 f
  | .visra n _ f => decide (n < 3072) && vecOk 23 f
  | .vexp2 n _ f => decide (n < 3072) && vecOk 32 f
  | .vlog2 n _ f => decide (n < 3072) && vecOk 33 f
  | .vexp n _ f => decide (n < 3072) && vecOk 34 f
  | .vlog n _ f => decide (n < 3072) && vecOk 35 f
  | .vrcp n _ f => decide (n < 3072) && vecOk 36 f
  | .vrsqrt n _ f => decide (n < 3072) && vecOk 37 f
  | .vsmx n _ f => decide (n < 3072) && vecOk 40 f
  | .vrsum n _ f => decide (n < 3072) && vecOk 41 f
  | .vrmax n _ f => decide (n < 3072) && vecOk 42 f
  | .vtopk n _ f => decide (n < 3072) && vecOk 44 f
  | .vcvt n _ f => decide (n < 3072) && vecOk 48 f
  | .vbcast n _ f => decide (n < 3072) && vecOk 56 f
  | .vget n _ f => decide (n < 3072) && vecOk 57 f
  | .vmov n _ f => decide (n < 3072) && vecOk 58 f
  | .vdga n _ f => decide (n < 3072) && vecOk 60 f
  | .mld n _ f _ => decide (n < 3072) && matOk 1 f
  | .mlda n _ f _ => decide (n < 3072) && matOk 2 f
  | .mmul n _ f _ => decide (n < 3072) && matOk 3 f
  | .mdrain n _ f => decide (n < 3072) && matOk 4 f
  | .mpop n _ f => decide (n < 3072) && matOk 5 f
  | .streamOutWrite n _ => decide (n < 3072)
  | .xfer n _ f _ => decide (n < 3072) && stmOk 1 f
  | .tagLand n _ k _ _ => decide (n < 3072) && decide (k < 32)
  | .sld n _ f _ => decide (n < 3072) && stmOk 2 f
  | .sst n _ f _ => decide (n < 3072) && stmOk 3 f
  | .rbset n _ f => decide (n < 3072) && stmOk 4 f
  | .rbpop n _ f => decide (n < 3072) && stmOk 5 f
  | .stg n _ f _ => decide (n < 3072) && stmOk 6 f
  | .stageStep n _ => decide (n < 3072)
  | .stageStreamIn n _ => decide (n < 3072)
  | .stageEnd n => decide (n < 3072)
  | .stgs n _ f => decide (n < 3072) && stmOk 7 f
  | .xcancel n _ f => decide (n < 3072) && stmOk 8 f
  | .tsig n _ _ _ => decide (n < 3072)
  | .twait n _ _ _ => decide (n < 3072)
  | .twaitSatisfied n _ _ => decide (n < 3072)
  | .ttest n _ _ _ => decide (n < 3072)
  | .tsigR n _ _ _ => decide (n < 3072)
  | .twaitR n _ _ _ => decide (n < 3072)
  | .ttestR n _ _ _ _ => decide (n < 3072)
  | .coll n _ _ _ _ => decide (n < 3072)
  | .signalRelease src _ => src.wf
  | .signalArrive d _ _ => d.wf
  | .remoteWaitArrive n => decide (n < 3072)
  | .hangWatchdog c _ => decide (c < 16)
  | .talWinRead a _ => a.wf
  | .talWinWrite a _ => a.wf
  | .frzClear a n _ => a.wf && decide (n < 3072)
  | .rotationForward n _ _ _ => decide (n < 3072)
  | .chainForward d c _ _ _ _ => decide (d < 4) && decide (c < 12)
  | .landingFrameRelease d => decide (d < 4)
  | .meshFlitSend d _ _ => decide (d < 4)
  | .crossingDeliver d _ => decide (d < 4)
  | .expanderFactorLoad n _ => decide (n < 3072)
  | .expanderTile n _ _ => decide (n < 3072)
  | .form a => a.wf
  | .formMarkReceive _ _ pos port => decide (pos < 128) && decide (port < 32)
  | .formTimeout _ => true
  | .dirchkReceive _ pos _ _ => decide (pos < 128)
  | .start a => a.wf
  | .stop a => a.wf
  | .estop a => a.wf
  | .estopReceive => true
  | .resume a _ => a.wf
  | .switch a _ => a.wf
  | .release a => a.wf
  | .lapMarkOriginate => true
  | .lapMarkReceive _ _ => true
  | .lapMarkReturn _ _ => true
  | .stopMarkReceive _ _ => true
  | .heartbeat _ _ => true
  | .hopTimeout _ _ => true
  | .lapClose => true
  | .blockLaunch _ => true
  | .slabForward _ _ _ _ => true
  | .slabLand _ => true
  | .memberFailed m => decide (m < 128)
  | .ribbonClosure _ => true
  | .dirRead a _ => a.wf
  | .dirWrite a _ => a.wf
  | .regionWrite a r i _ => a.wf && decide (r < 64) && decide (i < 16)
  | .zero a r => a.wf && decide (r < 64)
  | .rebuild a r => a.wf && decide (r < 64)
  | .rebuildStripe r => decide (r < 64)
  | .refold a r => a.wf && decide (r < 64)
  | .hbmRead dpa _ _ => decide (dpa < Config.hbmBytes) && decide (dpa % 64 = 0)
  | .hbmWrite dpa data _ => decide (dpa + data.length ≤ Config.hbmBytes)
  | .adderWrite dpa data _ => decide (dpa + data.length ≤ Config.hbmBytes)
  | .refreshSlot ch _ => decide (ch < 256)
  | .calibrationSlot ch _ => decide (ch < 256)
  | .offScheduleRefresh st => decide (st < 8)
  | .stackTempReport st _ _ => decide (st < 8)
  | .channelFail ch _ => decide (ch < 256)
  | .cxlLinkDown => true
  | .bar4Access a _ len _ => a.wf && decide (0 < len)
  | .flitSend p => decide (p < 32)
  | .flitReceive p _ _ _ => decide (p < 32)
  | .nakReceive p _ => decide (p < 32)
  | .fecLockLoss p lane _ => decide (p < 32) && decide (lane < 4)
  | .portDown p _ _ => decide (p < 32)
  | .trainingTimeout p _ => decide (p < 32)
  | .trainingRetry p _ => decide (p < 32)
  | .identityFlitReceive p _ _ => decide (p < 32)
  | .retrain a p _ => a.wf && decide (p < 32)
  | .linkRecalBurst p lane _ _ => decide (p < 32) && decide (lane < 4)
  | .laneSpare p lane _ => decide (p < 32) && decide (lane < 4)
  | .routeWinRead a _ => a.wf
  | .routeWinWrite a _ => a.wf
  | .ftcExchange p => decide (p < 32)
  | .ftcParentLost => true
  | .ftcHoldoverTick => true
  | .ftcRefEdge => true
  | .ftcRefTimeout _ => true
  | .segmentArrive tag _ _ _ _ _ _ _ _ _ _ _ => decide (tag < 65536)
  | .slabSlotGrant => true
  | .collAgreement c _ _ _ => decide (c < 16)
  | .endpointFallback c _ _ _ _ _ => decide (c < 16)
  | .collComplete c _ => decide (c < 16)
  | .exactModeWrite a c _ => a.wf && decide (c < 16)
  | .startArm a c _ => a.wf && decide (c < 16)
  | .startRecordReceive c _ => decide (c < 16)
  | .startRecordTimeout c _ => decide (c < 16)
  | .goReceive c => decide (c < 16)
  | .refuseReceive c _ _ => decide (c < 16)
  | .startVerdictTimeout c _ => decide (c < 16)
  | .jobStart c _ => decide (c < 16)
  | .layerRecordWrite c _ _ => decide (c < 16)
  | .sqTailDoorbell a q _ => a.wf && decide (q < 16)
  | .cqHeadDoorbell a q _ => a.wf && decide (q < 16)
  | .commandFetch c q => decide (c < 16) && decide (q < 16)
  | .completionWrite c q => decide (c < 16) && decide (q < 16)
  | .queueEnable a c q _ => a.wf && decide (c < 16) && decide (q < 16)
  | .queueDisable a c q _ => a.wf && decide (c < 16) && decide (q < 16)
  | .queuePause a c q _ => a.wf && decide (c < 16) && decide (q < 16)
  | .queueResume a c q _ => a.wf && decide (c < 16) && decide (q < 16)
  | .busMasterDisable c => decide (c < 16)
  | .functionLevelReset c => decide (c < 16)
  | .clustersWrite a c _ => a.wf && decide (c < 16)
  | .contextBindWrite a c _ => a.wf && decide (c < 16)
  | .nop c q => decide (c < 16) && decide (q < 16)
  | .load c q => decide (c < 16) && decide (q < 16)
  | .unload c q => decide (c < 16) && decide (q < 16)
  | .hostXfer c q => decide (c < 16) && decide (q < 16)
  | .stripDelivered c q _ _ => decide (c < 16) && decide (q < 16)
  | .pageFault c q _ _ _ => decide (c < 16) && decide (q < 16)
  | .pageRequestResponse c q _ _ => decide (c < 16) && decide (q < 16)
  | .priTimeout c q _ _ => decide (c < 16) && decide (q < 16)
  | .tallySignal c q => decide (c < 16) && decide (q < 16)
  | .tallyWait c q => decide (c < 16) && decide (q < 16)
  | .tallyWaitTimeout c q _ _ => decide (c < 16) && decide (q < 16)
  | .ribReq c q => decide (c < 16) && decide (q < 16)
  | .tierCopy c q => decide (c < 16) && decide (q < 16)
  | .sealOutput c q => decide (c < 16) && decide (q < 16)
  | .manifestLoad c q => decide (c < 16) && decide (q < 16)
  | .verifyBlocks c q => decide (c < 16) && decide (q < 16)
  | .verifyNoticeReceive pos body => decide (pos < 128) && decide (body.length = 28)
  | .attest c q => decide (c < 16) && decide (q < 16)
  | .recordWrite c q => decide (c < 16) && decide (q < 16)
  | .ownerCmd c q => decide (c < 16) && decide (q < 16)
  | .ownerSet _ => true
  | .floorCommit _ => true
  | .acceptFound => true
  | .ownerClear _ => true
  | .blockDigest c q => decide (c < 16) && decide (q < 16)
  | .releaseManifest c q => decide (c < 16) && decide (q < 16)
  | .getReport b c _ => decide (b < 3) && decide (c < 16)
  | .getCert b => decide (b < 3)
  | .mctpOwnerCmd b _ => decide (b < 3)
  | .getNonce b => decide (b < 3)
  | .pldmFirmwareUpdate b _ => decide (b < 3)
  | .bootStage0 _ _ => true
  | .bootStage1 => true
  | .bootStage2 _ _ _ _ _ => true
  | .inputOverVoltage => true
  | .inputUnderVoltage => true
  | .inputBelowAonFloor => true
  | .inputCurrentLimit => true
  | .powerUp _ => true
  | .clusterWake => true
  | .clockStep d => decide (d < 4)
  | .powerSample _ _ _ => true
  | .capWindow => true
  | .clockStop d => decide (d < 4)
  | .thermalSample _ _ _ _ => true
  | .errorReport _ => true
  | .fence a _ => a.wf
  | .testUnit a => a.wf
  | .testEnd kind unit _ _ _ _ => decide (kind < 16) && decide (unit < 65536)
  | .returnUnit a => a.wf
  | .repair a _ => a.wf
  | .abort a => a.wf
  | .owlWatchdogTimeout _ => true
  | .owlRestartComplete => true
  | .sensorRefresh => true
  | .hubScrub _ => true
  | .aonReset => true
  | .packageReset _ => true
  | .perstAssert port => decide (port < 2)
  | .perstRelease port _ => decide (port < 2)
  | .bypass => true
  | .samplePreload _ _ => true
  | .extest _ _ => true
  | .idcode => true
  | .lightDetect p => decide (p < 32)
  | .equaliseComplete p => decide (p < 32)
  | .fecLockAcquire p lanes => decide (p < 32) && decide (lanes < 16)
  | .recalibrationBurstEnd p => decide (p < 32)
  | .tierCopyComplete c q _ _ => decide (c < 16) && decide (q < 16)
  | .atsInvalidation port _ _ => decide (port < 2)
  | .opportunisticCalibration ch _ => decide (ch < 256)
  | .busMasterEnable c => decide (c < 16)
  | .segmentAcknowledge c _ _ _ _ _ _ => decide (c < 16)
  | .blockHashComplete _ => true
  | .mctpEndpointIdAssign b _ => decide (b < 3)

end Sys2Proof
end

