-- ==== Sys2Proof/Certificates/Slice0/Obligations.lean ====
section
/-!
DEFINITION. The statements of this row, for the provers: one definition per statement, in the order of OBLIGATIONS.json.
-/
open Sys2Proof Sys2Proof.Machine

/-! ### Nibs: the control slot (R85, R86, R87, R80 to R83) -/

/-- R75, R77, R85, R86: the instructions of the control slot that write a scalar register. Each, at a nib that is ready to
issue, answers a next state: it schedules its result for its destination, one bundle ahead (three for the multiply
functions), where its predicate holds; the nib's counters and PC move on; everything else stays. A write of s0 is
scheduled like any other and discarded when it lands (`WritesLand`). -/
def Claims.ScalarInstructions : Prop :=
  ∀ (s : State) (n c : Nat) (p : Pred) (sd sa sb : BitVec 5) (func : BitVec 7) (imm : BitVec 12) (wide : BitVec 17)
    (half : BitVec 16) (aa : BitVec 4) (up : Bool), slotReady s n c = true →
    let b := atIssue s n
    let does := fun (i : Instr) (o : Ctl) (lat : Nat) (v : W32) =>
      Issues i s n (ctlUnder s n p o) (under s n p fun b => withWrites b [(lat, .s sd.toNat v)])
    (func.toNat < 15 → does (.alu n p sd sa sb func) (.alu sd sa sb func)
      (if func.toNat ∈ [8, 9, 10] then 3 else 1) (aluFn func.toNat (sreg b sa.toNat) (sreg b sb.toNat)))
    ∧ does (.addiS n p sd sa imm) (.immS 0 sd sa imm) 1 (sreg b sa.toNat + imm.signExtend 32)
    ∧ does (.andiS n p sd sa imm) (.immS 1 sd sa imm) 1 (sreg b sa.toNat &&& imm.signExtend 32)
    ∧ does (.oriS n p sd sa imm) (.immS 2 sd sa imm) 1 (sreg b sa.toNat ||| imm.signExtend 32)
    ∧ does (.xoriS n p sd sa imm) (.immS 3 sd sa imm) 1 (sreg b sa.toNat ^^^ imm.signExtend 32)
    ∧ (imm.toNat < 32 →
        does (.shliS n p sd sa imm) (.immS 4 sd sa imm) 1 (sreg b sa.toNat <<< imm.toNat)
        ∧ does (.shriS n p sd sa imm) (.immS 5 sd sa imm) 1 (sreg b sa.toNat >>> imm.toNat)
        ∧ does (.sraiS n p sd sa imm) (.immS 6 sd sa imm) 1 ((sreg b sa.toNat).sshiftRight imm.toNat))
    ∧ does (.moviS n p sd wide) (.movi sd wide) 1 (wide.signExtend 32)
    ∧ does (.movhS n p sd half) (.movh sd half) 1 (half ++ (sreg b sd.toNat).extractLsb' 0 16)
    ∧ does (.amvS n p sd aa up) (.amv sd aa up) 1 ((areg b aa.toNat).extractLsb' (if up then 32 else 0) 32)

/-- R75, R85, R86: the instructions of the control slot that write a predicate or an address register. -/
def Claims.PredicateAndAddressInstructions : Prop :=
  ∀ (s : State) (n c : Nat) (p : Pred) (pd pa pb : BitVec 3) (sa sb : BitVec 5) (cond : BitVec 4) (pfn : BitVec 2)
    (ad aa : BitVec 4) (sh : BitVec 3) (imm : BitVec 14) (up : Bool), slotReady s n c = true →
    let b := atIssue s n
    let does := fun (i : Instr) (o : Ctl) (w : Wr) =>
      Issues i s n (ctlUnder s n p o) (under s n p fun b => withWrites b [(1, w)])
    (cond.toNat < 6 → does (.pset n p pd sa sb cond) (.pset pd sa sb cond)
      (.p pd.toNat (BitVec.allOnes 64) (allBits (condFn cond.toNat (sreg b sa.toNat) (sreg b sb.toNat)))))
    ∧ does (.plog n p pd pa pb pfn) (.plog pd pa pb pfn)
        (.p pd.toNat (BitVec.allOnes 64) (plogFn pfn.toNat (preg b pa.toNat) (preg b pb.toNat)))
    ∧ does (.aaddA n p ad aa sb sh) (.aadd ad aa sb sh)
        (.a ad.toNat (areg b aa.toNat + ((sreg b sb.toNat).signExtend 64 <<< sh.toNat)))
    ∧ does (.aaddiA n p ad aa imm) (.aaddi ad aa imm) (.a ad.toNat (areg b aa.toNat + imm.signExtend 64))
    ∧ does (.asetA n p ad sa up) (.aset ad sa up) (.aHalf ad.toNat up (sreg b sa.toNat))

/-- R87: rdsys reads the system value that SEL names; SEL 0 latches the upper half of NIB_CYCLE, SEL 1 returns and drops the
latch. -/
def Claims.ReadSystemValue : Prop :=
  ∀ (s : State) (n c : Nat) (p : Pred) (sd : BitVec 5) (sel : BitVec 4), slotReady s n c = true → sel.toNat < 7 →
    let b := atIssue s n
    let cyc : W64 := BitVec.ofNat 64 b.cycle
    let v : W32 :=
      if sel.toNat = 0 then cyc.extractLsb' 0 32
      else if sel.toNat = 1 then b.latch.getD (cyc.extractLsb' 32 32)
      else if sel.toNat = 2 then BitVec.ofNat 32 ((indexOfNib (commit s n) c n).getD 0)
      else if sel.toNat = 3 then BitVec.ofNat 32 n
      else if sel.toNat = 4 then BitVec.ofNat 32 c
      else if sel.toNat = 5 then BitVec.ofNat 32 (packageIndex (commit s n) c)
      else BitVec.ofNat 32 (match b.loops with | l :: _ => l.remaining | [] => 0)
    Issues (.rdsys n p sd sel) s n (ctlUnder s n p (.rdsys sd sel)) (under s n p fun b =>
      { withWrites b [(1, .s sd.toNat v)] with
        latch := if sel.toNat = 0 then some (cyc.extractLsb' 32 32) else if sel.toNat = 1 then none else b.latch })

/-- R80 to R83, R85: transfers of control and loop set-ups, where R81 and R83 raise no fault: outside delay slots, and where
the predicate holds, a branch outside the last bundle of a loop body and to a target inside the code section, a loop with the
loop stack not full and the body inside its outer loop. A taken branch has three delay bundles left; jal also schedules A + 4 for s31; a loop of count 0 skips its body. -/
def Claims.TransfersAndLoops : Prop :=
  ∀ (s : State) (n c : Nat) (p : Pred) (off : BitVec 17) (sa sc : BitVec 5) (len : BitVec 10) (count : BitVec 12),
    slotReady s n c = true → (atIssue s n).branch = none →
    let b := atIssue s n
    let fits := fun (k : Nat) => predHolds b p = true → k = 0 ∨
      b.loops.length < 4 ∧ ∀ l ∈ b.loops.head?, b.pc + (len.toNat + 1) ≤ l.stop
    let reaches := fun (t : Int) => predHolds b p = true → atLoopEnd b = false ∧ inCode b t = true
    (reaches (branchTo b off) →
      Issues (.bra n p off) s n (ctlUnder s n p (.bra off)) id
      ∧ Issues (.jal n p off) s n (ctlUnder s n p (.jal off))
          (under s n p fun b => withWrites b [(1, .s 31 (BitVec.ofNat 32 (b.pc + 4)))]))
    ∧ (reaches (sreg b sa.toNat).toNat → Issues (.jr n p sa) s n (ctlUnder s n p (.jr sa)) id)
    ∧ (fits (sreg b sc.toNat).toNat → Issues (.loopS n p sc len) s n (ctlUnder s n p (.loops sc len)) id)
    ∧ (fits count.toNat → Issues (.loopi n p count len) s n (ctlUnder s n p (.loopi count len)) id)

/-- R80: a taken branch at A is followed by exactly three delay bundles; the fourth bundle is the one at the target. R83: a
loop begins with its body and returns to it while iterations remain. (The sequencing that the transfers of
`TransfersAndLoops` leave behind.) -/
def Claims.SequencingOfBranchesAndLoops : Prop :=
  ∀ (b : Nib) (off : BitVec 17) (count : BitVec 12) (len : BitVec 10),
    (b.branch = none → b.loops = [] → inCode b (branchTo b off) = true → b.pc + 3 < 8192 →
      let b1 := sequence b (some (.bra off))
      let b2 := sequence b1 none
      let b3 := sequence b2 none
      let b4 := sequence b3 none
      b1.pc = b.pc + 1 ∧ b2.pc = b.pc + 2 ∧ b3.pc = b.pc + 3 ∧ (b4.pc : Int) = branchTo b off ∧ b4.branch = none)
    ∧ (b.branch = none → count ≠ 0 → b.pc + 1 < 8192 →
      sequence b (some (.loopi count len))
        = { b with loops := ⟨b.pc + 1, b.pc + (len.toNat + 1), count.toNat⟩ :: b.loops, pc := b.pc + 1 })
    ∧ (∀ (l : Loop) (ls : List Loop), b.branch = none → b.loops = l :: ls → b.pc = l.stop → l.start < 8192 →
        1 < l.remaining →
        sequence b none = { b with loops := { l with remaining := l.remaining - 1 } :: ls, pc := l.start })

/-- R101 to R103, R85: trap raises fault 0x06 whose NIB_FAULT_INFO is its code: the nib records the fault with the PC of the
bundle, and stops with STATE 4, or 6 where it is fenced at that end. Where its predicate does not hold, it does nothing. -/
def Claims.TrapFaults : Prop :=
  ∀ (s : State) (n c : Nat) (p : Pred) (code : BitVec 16), slotReady s n c = true →
    (predHolds (atIssue s n) p = false → Issues (.trap n p code) s n none id)
    ∧ (predHolds (atIssue s n) p = true →
        Answers (.trap n p code) s fun t => t = fenceCheck (takeFault (commit s n) n c 0 0x06 code.toNat false) n)

/-- R88: halt ends the nib's program. Where its predicate does not hold, it does nothing. -/
def Claims.HaltEnds : Prop :=
  ∀ (s : State) (n c : Nat) (p : Pred), slotReady s n c = true →
    (predHolds (atIssue s n) p = false → Issues (.halt n p) s n none id)
    ∧ (predHolds (atIssue s n) p = true → Answers (.halt n p) s fun t =>
        ∃ u, OnlyNib (commit s n) u n ∧ nibOf u n = issuedNib (atIssue s n) (commit s n).ftc (some .halt)
          ∧ t = fenceCheck (takeHalt u n) n)

/-! ### Nibs: the vector slot (R90 to R96, R344, R451) -/

/-- R47, R90, R91: vadd, vsub, vmul, vfma and, in FP32 and BF16, vmin and vmax: each element that executes takes the exact
result rounded once to the format; two or four bundles ahead. -/
def Claims.VectorFloat : Prop :=
  ∀ (s : State) (n c : Nat) (p : Pred) (f : VecF),
    let b := atIssue s n
    let w := vecWidth f.fmt.toNat
    let x := fun i => laneVal w (elemA b f w i)
    let y := fun i => laneVal w (elemB b f w i)
    let z := fun i => laneVal w (elemC b f w i)
    let two := (w, vpois b f.va.toNat) :: (if f.sbEn then [] else [(w, vpois b f.vb.toNat)])
    let does := fun (i : Instr) (op lat : Nat) (srcs : List (Nat × List Bool)) (r : Nat → Val) =>
      vecOk op f = true → vecReady s n c op = true →
      Issues i s n none (vecUnder s n p op f fun sel b =>
        withWrites b [(lat, vecResult f w srcs sel fun i => roundTo w (r i))])
    does (.vadd n p f) 0x01 4 two (fun i => (x i).add (y i))
    ∧ does (.vsub n p f) 0x02 4 two (fun i => (x i).sub (y i))
    ∧ does (.vmul n p f) 0x03 4 two (fun i => (x i).mul (y i))
    ∧ does (.vfma n p f) 0x04 4 (two ++ [(w, vpois b f.vc.toNat)]) (fun i => ((x i).mul (y i)).add (z i))
    ∧ (f.fmt.toNat ≠ 13 →
        does (.vmin n p f) 0x08 2 two (fun i => minV (x i) (y i))
        ∧ does (.vmax n p f) 0x09 2 two (fun i => maxV (x i) (y i)))

/-- R64, R90, R91: the INT32 operations of the vector slot. A sum or difference wraps; INT_WRAP is set where one that executes
does. -/
def Claims.VectorInteger : Prop :=
  ∀ (s : State) (n c : Nat) (p : Pred) (f : VecF), f.fmt.toNat = 13 →
    let b := atIssue s n
    let x := fun i => elemA b f 32 i
    let y := fun i => elemB b f 32 i
    let sx := fun i => signed 32 (x i)
    let sy := fun i => signed 32 (y i)
    let two := (32, vpois b f.va.toNat) :: (if f.sbEn then [] else [(32, vpois b f.vb.toNat)])
    let does := fun (i : Instr) (op : Nat) (r : Nat → Nat) (wrap : Nat → Bool) =>
      vecOk op f = true → vecReady s n c op = true →
      Issues i s n none (vecUnder s n p op f fun sel b =>
        arith (withWrites b [(2, vecResult f 32 two sel r)])
          (if (List.range 64).any (fun i => sel.getD i false && wrap i) then 1 else 0))
    let never := fun (_ : Nat) => false
    does (.viadd n p f) 0x10 (fun i => wrapNat 32 (sx i + sy i)) (fun i => wraps (sx i + sy i))
    ∧ does (.visub n p f) 0x11 (fun i => wrapNat 32 (sx i - sy i)) (fun i => wraps (sx i - sy i))
    ∧ does (.viand n p f) 0x12 (fun i => x i &&& y i) never
    ∧ does (.vior n p f) 0x13 (fun i => x i ||| y i) never
    ∧ does (.vixor n p f) 0x14 (fun i => x i ^^^ y i) never
    ∧ does (.vishl n p f) 0x15 (fun i => x i * 2 ^ (y i % 32) % 2 ^ 32) never
    ∧ does (.vishr n p f) 0x16 (fun i => x i / 2 ^ (y i % 32)) never
    ∧ does (.visra n p f) 0x17 (fun i => wrapNat 32 (sx i / 2 ^ (y i % 32))) never
    ∧ does (.vmin n p f) 0x08 (fun i => if sx i < sy i then x i else y i) never
    ∧ does (.vmax n p f) 0x09 (fun i => if sx i < sy i then y i else x i) never

/-- R90, R95: vcmp writes a predicate bit per element that executes; vsel selects by predicate bit. -/
def Claims.VectorCompareSelect : Prop :=
  ∀ (s : State) (n c : Nat) (p : Pred) (f : VecF),
    let b := atIssue s n
    let w := vecWidth f.fmt.toNat
    let val := fun (k : Nat) => if f.fmt.toNat = 13 then ofInt (signed 32 k) 0 else laneVal w k
    let two := (w, vpois b f.va.toNat) :: (if f.sbEn then [] else [(w, vpois b f.vb.toNat)])
    (vecOk 0x0A f = true → vecReady s n c 0x0A = true →
      Issues (.vcmp n p f) s n none (vecUnder s n p 0x0A f fun sel b => withWrites b [(2, .p f.pd.toNat
        (BitVec.ofNat 64 (packNat 1 (sel.map fun e => if e then 1 else 0)))
        (BitVec.ofNat 64 (packNat 1 ((List.range 64).map fun i =>
          if vcmpFn f.fmt2.toNat (val (elemA b f w i)) (val (elemB b f w i)) then 1 else 0))))]))
    ∧ (vecOk 0x0B f = true → vecReady s n c 0x0B = true →
      Issues (.vsel n p f) s n none (vecUnder s n p 0x0B f fun sel b => withWrites b [(2, .v f.vd.toNat
        (packedLanes w sel ((List.range 64).map fun i =>
          if (preg b f.pd.toNat).getLsbD i then elemA b f w i else elemB b f w i))
        (packedPois w sel two))]))

/-- R91, R451: the lane-wise transcendental operations in FP32, with the latencies of R90. -/
def Obligations.VectorTranscendental : Prop :=
  ∀ (s : State) (n c : Nat) (p : Pred) (f : VecF),
    let b := atIssue s n
    let x := fun i => f32 (BitVec.ofNat 32 (elemA b f 32 i))
    let does := fun (i : Instr) (op lat : Nat) (r : Val → Val) =>
      vecOk op f = true → vecReady s n c op = true →
      Issues i s n none (vecUnder s n p op f fun sel b =>
        withWrites b [(lat, vecResult f 32 [(32, vpois b f.va.toNat)] sel fun i => (toF32 (r (x i))).toNat)])
    does (.vexp2 n p f) 0x20 8 exp2V ∧ does (.vlog2 n p f) 0x21 8 log2V ∧ does (.vexp n p f) 0x22 10 expV
    ∧ does (.vlog n p f) 0x23 10 logV ∧ does (.vrcp n p f) 0x24 6 rcpV ∧ does (.vrsqrt n p f) 0x25 6 rsqrtV

/-- R48, R91, R93, R96: the reductions. They execute as a whole by bit 0 of their predicate; vsmx gives the maximum and the
tree sum of exp(x − max), vrsum the tree sum, vrmax the maximum, in the first lanes, all other lanes zero; vtopk gives K
scores from lane 0 and their candidate indices from lane 8, and counts its passes. -/
def Claims.VectorReductions : Prop :=
  ∀ (s : State) (n c : Nat) (p : Pred) (f : VecF),
    let b := atIssue s n
    let w := vecWidth f.fmt.toNat
    let vs := (elems b f.va.toNat w).map (laneVal w)
    let does := fun (i : Instr) (op lat : Nat) (out : List Nat) =>
      vecOk op f = true → vecReady s n c op = true →
      Issues i s n none (under s n p fun b =>
        withWrites b [(lat, wholeRes f.vd.toNat (out ++ List.replicate (64 - out.length) 0) (anyPois b f.va.toNat))])
    does (.vsmx n p f) 0x28 14 [(toF32 (maxOf vs)).toNat,
      (toF32 (treeSum (vs.map fun v => f32 (toF32 (expV (f32 (toF32 (v.sub (maxOf vs))))))))).toNat]
    ∧ does (.vrsum n p f) 0x29 14 [(toF32 (treeSum vs)).toNat]
    ∧ does (.vrmax n p f) 0x2A 8 [roundTo w (maxOf vs)]
    ∧ (vecOk 0x2C f = true → vecReady s n c 0x2C = true →
        Issues (.vtopk n p f) s n none (under s n p fun b =>
          { withWrites b ((topkRes b f).wrs.map fun r => (12 + 4 * (f.passes.toNat + 1), r)) with
            topk := some (b.clk, f.passes.toNat + 1) }))

/-- R93: the candidates of vtopk, in order: each is the first of the candidates with no higher score, NaN last of all, and the
next is chosen from the others. -/
def Claims.TopkOrder : Prop :=
  ∀ (k : Nat) (cs : List (Nat × Val)), (cs.map (·.1)).Nodup →
    (∀ c ∈ topOf k cs, c ∈ cs ∧ c.2.isNan = false)
    ∧ (topOf k cs).length ≤ k ∧ ((topOf k cs).map (·.1)).Nodup
    ∧ ∀ c d, (topOf (k + 1) cs).head? = some c → d ∈ cs → c.2.lt d.2 = false

/-- R90, R94, R95: conversions and moves of the vector slot. -/
def Claims.VectorMoves : Prop :=
  ∀ (s : State) (n c : Nat) (p : Pred) (f : VecF),
    let b := atIssue s n
    let does := fun (i : Instr) (op : Nat) (r : List Bool → Wr) =>
      vecOk op f = true → vecReady s n c op = true →
      Issues i s n none (vecUnder s n p op f fun sel b => withWrites b [(2, r sel)])
    does (.vbcast n p f) 0x38 (fun sel => .v f.vd.toNat
      (packedLanes 32 sel (List.replicate 64 (sreg b f.sb.toNat).toNat)) (packedPois 32 sel []))
    ∧ does (.vget n p f) 0x39 (fun _ => .s f.sb.toNat (vlane b f.va.toNat f.lane.toNat))
    ∧ does (.vmov n p f) 0x3A (fun sel => .v f.vd.toNat (packedLanes 32 sel (elems b f.va.toNat 32))
        (packedPois 32 sel [(32, vpois b f.va.toNat)]))
    ∧ (vecOk 0x30 f = true → vecReady s n c 0x30 = true →
        Issues (.vcvt n p f) s n none (vecUnder s n p 0x30 f fun sel b =>
          arith (withWrites b ((cvtRes b f sel).wrs.map fun r => (2, r))) (cvtRes b f sel).flags))

/-- R344: vdga absorbs quarter Q of VA, with its poison, into the nib's seal tile; without a seal plan it does nothing but
issue. -/
def Claims.VdgaAbsorbs : Prop :=
  ∀ (s : State) (n c : Nat) (p : Pred) (f : VecF), vecOk 0x3C f = true → vecReady s n c 0x3C = true →
    let b := atIssue s n
    let q := f.q.toNat
    Answers (.vdga n p f) s fun t =>
      t = fenceCheck (finishIssue (if predHolds b p then
          absorb (commit s n) n (((vbytes b f.va.toNat).drop (64 * q)).take 64) ((vpois b f.va.toNat).getD q false)
        else commit s n) n none) n
      ∧ ((ctxOf (commit s n) c).plan = none → ctxOfNib (commit s n) n = some c →
          OnlyNib (commit s n) t n ∧ nibOf t n = issuedNib b (commit s n).ftc none)

/-- R74, R95: what lands of a vector result is the code of each element that executed; the other elements of the register, and
every other register, keep their values. -/
def Claims.PackedResultLands : Prop :=
  ∀ (b : Nib) (v l : Nat) (sel : List Bool) (codes : List Nat) (qs : List (Nat × Bool × Bool)),
    sel.length = 64 → codes.length = 64 → (∀ k ∈ codes, k < 2 ^ 32) → l < 64 →
    vlane (setV b v (packedLanes 32 sel codes) qs) v l
      = (if sel.getD l false then BitVec.ofNat 32 (codes.getD l 0) else vlane b v l)
    ∧ ∀ u, u ≠ v → vlane (setV b v (packedLanes 32 sel codes) qs) u l = vlane b u l

/-! ### Nibs: the matrix slot (R108, R111 to R116) -/

/-- R111, R112, R108: mld loads a part of the tile at the weight port into the shadow of the selected tines and lets the
group leave with its last part; mlda loads a column of each selected tine's shadow from its activation port. -/
def Claims.MatrixLoads : Prop :=
  ∀ (s : State) (n c : Nat) (p : Pred) (f : MatF) (cy : Cyc),
    let b0 := atIssue s n
    let wf := f.wf.toNat
    let r := f.wrb.toNat
    let use := WUse.tile f.part.toNat
    (matReady s n c p 1 f cy = true →
      Issues (.mld n p f cy) s n none (under s n p fun b =>
        weightTake (loadTile b f.tm wf f.part.toNat (portCols b0 r wf use)) false r wf use))
    ∧ (matReady s n c p 2 f cy = true →
        Issues (.mlda n p f cy) s n none (under s n p fun b =>
          takeActs ((tinesOf f.tm).foldl (fun b t => loadColumn b t f.af.toNat f.row.toNat
            (actVec b0 (arbOf f t) f.af.toNat (ringOf b0 (arbOf f t)).rd)) b) f))

/-- R23, R111: a whole tile of a one-part format loaded into the selected tines gives each of their shadow columns the column
of the group; other tines, and every active register, keep what they hold. -/
def Claims.TileLoadIntoShadow : Prop :=
  ∀ (b : Nib) (tm : BitVec 4) (fmt t j : Nat) (cols : List OpVec), macs fmt = 1 → cols.length = 16 → t < 4 → j < 16 →
    (∀ v ∈ cols, v.data < 2 ^ 256) →
    let b' := loadTile b tm fmt 0 cols
    look Col.zero b'.shadow (16 * t + j)
      = (if tm.getLsbD t then mkCol fmt (cols.getD j ⟨0, 127, 127, false⟩) else look Col.zero b.shadow (16 * t + j))
    ∧ b'.active = b.active ∧ b'.acc = b.acc ∧ b'.rings = b.rings

/-- R28 to R30, R59 to R64, R114: mmul. Where its ports are ready and no comparison fails, every accumulator element that the
step reaches on a selected tine takes the exact addends of the step, accumulated on the element (or on zero with INIT), and
is seen L bundles later; nothing but the nib changes. -/
def Obligations.MatrixMultiply : Prop :=
  ∀ (s : State) (n c : Nat) (p : Pred) (f : MatF) (cy : Cyc), matReady s n c p 3 f cy = true → predHolds (atIssue s n) p →
    cy.corrupt = 0 →
    let b0 := atIssue s n
    let wf := f.wf.toNat
    let r := f.wrb.toNat
    let b1 := if f.swap then swapTines b0 (tinesOf f.tm) else b0
    let wv := if f.mode = 1 && !f.tr then portVector b0 r wf else ⟨0, 127, 127, false⟩
    let wc := if f.mode = 2 then portCols b0 r wf (.slice (stepMacs wf f.af.toNat)) else []
    let outs := stepOuts b1 f f.row.toNat f.part.toNat (weightSlice b0 false r)
      (fun t => actVec b0 (arbOf f t) f.af.toNat (ringOf b0 (arbOf f t)).rd) wv wc
    (tolOn b0 = false ∨ ∀ o ∈ outs, o.2.1.tol ≠ some true) →
    Answers (.mmul n p f cy) s fun t =>
      OnlyNib (commit s n) t n ∧ (nibOf t n).clk = b0.clk + 1 ∧ (nibOf t n).acc = b0.acc
      ∧ (∀ o ∈ outs, ∀ e ∈ o.2.1.cells,
          let key := accKey o.1 f.bank.toNat e.1 e.2.1
          ⟨b0.clk + stepLat (stepMacs wf f.af.toNat),
            .acc key (accumulateAll (isIntStep wf) (if f.init then 0 else runningAcc b0 key) e.2.2).1⟩ ∈ (nibOf t n).pend)

/-- R115, R116: mdrain pushes the accumulator row of each selected tine into its drain queue; mpop moves the heads that wait
for it into VD, sixteen lanes a tine, and sets POP_EMPTY where one is missing. -/
def Claims.MatrixDrains : Prop :=
  ∀ (s : State) (n c : Nat) (p : Pred) (f : MatF),
    (matReady s n c p 4 f {} = true →
      Issues (.mdrain n p f) s n none (under s n p fun b =>
        drainRows b (tinesOf f.tm) f.drow.toNat f.dbank.toNat f.dest f.drb.toNat f.fo.toNat f.sat false))
    ∧ (matReady s n c p 5 f {} = true →
        Issues (.mpop n p f) s n none (under s n p fun b =>
          let r := popRows b (tinesOf f.tm)
          withWrites (if r.2.2.2 then setNibF r.2.2.1 Reg.NIB_MTX_STATUS 0 0 1 else r.2.2.1) [(1, .v f.vd.toNat r.1 r.2.1)]))

/-- R115: a drained row stands last in the queue of each selected tine and holds the accumulator row as it is seen now; the
queues of the other tines do not change. -/
def Claims.DrainOrder : Prop :=
  ∀ (b : Nib) (tm : BitVec 4) (row bank drb fo t : Nat) (toVec sat stage : Bool), t < 4 →
    let b' := drainRows b (tinesOf tm) row bank toVec drb fo sat stage
    queueOf b' t = queueOf b t ++ (if tm.getLsbD t then
      [{ vals := accRow b t bank row, src := if look false b.accInt (t * 8 + bank) then 13 else 12,
         poison := look false b.accPoison (t * 8 + bank), toVec := toVec, drb := drb, fo := fo, sat := sat,
         set := b.drainSet, stage := stage }] else [])
    ∧ b'.drainSet = b.drainSet + 1 ∧ b'.acc = b.acc

/-! ### Nibs: the stream slot (R105 to R108, R118 to R126) -/

/-- R119, R153: xfer takes its source bytes, holds one tag for each 2 KiB, and leaves the destination as it is until tags
land. With SIG its completion signal takes its place among the held signals of the nib. It changes the nib and what stands
on the mesh, and nothing else. -/
def Claims.TransferIssue : Prop :=
  ∀ (s : State) (n c : Nat) (p : Pred) (f : StmF) (cy : Cyc), stmReady s n c p 1 f cy = true → predHolds (atIssue s n) p = true →
    let v := commit s n
    let b := atIssue s n
    let len := xferLen b f
    ∃ src dst, (xferCheck v n c (areg b f.aa.toNat) (areg b f.ad.toNat) len 0).2 = some (src, dst) ∧
    Answers (.xfer n p f cy) s fun t =>
      t = { v with nibs := t.nibs, meshX := t.meshX } ∧ (∀ m, m ≠ n → nibOf t m = nibOf v m)
      ∧ (nibOf t n).clk = b.clk + 1 ∧ (nibOf t n).xferNo = b.xferNo + 1
      ∧ ∃ x, (nibOf t n).xfers = b.xfers ++ [x] ∧ x.id = b.xferNo ∧ x.group = f.imm.toNat % 16 ∧ x.dst = dst
          ∧ x.cancelled = false ∧ x.tags = mkTags (len / 2048 + 1) 0 (readPlace v src len).1 (readPlace v src len).2
          ∧ (f.imm.getLsbD 8 = false → (nibOf t n).held = b.held)
          ∧ (∀ d, f.imm.getLsbD 8 = true →
              resolveTid v c (some n) ((sreg b f.sc.toNat).toNat % 2 ^ 20) false = some d →
              (nibOf t n).held = b.held ++ [⟨⟨d, 1, c, (ctxOf v c).gen, ideal b⟩, x.flying, some x.id⟩])

/-- R118, R133: sld reads 256 B at the address and loads VD four bundles later; sst writes VD two bundles later to a well, and
one bundle later at the tail of a ring. -/
def Claims.VectorLoadStore : Prop :=
  ∀ (s : State) (n c : Nat) (p : Pred) (f : StmF) (cy : Cyc),
    let v := commit s n
    let b0 := atIssue s n
    (stmReady s n c p 2 f cy = true → predHolds b0 p = true →
      ∃ pl, (resolveAddr v n c (vecAddr b0 f) 256 true false).2 = some pl ∧
        Issues (.sld n p f cy) s n none (fun b => withWrites b [(4, .v f.rv.toNat
          ((List.range 64).map fun l => (l, BitVec.allOnes 32, BitVec.ofNat 32 (field (readPlace v pl 256).1 (4 * l) 4)))
          ((List.range 4).map fun q => (q, (readPlace v pl 256).2.getD q false, true)))]))
    ∧ (stmReady s n c p 3 f cy = true → predHolds b0 p = true →
      ∃ pl, (resolveAddr v n c (vecAddr b0 f) 256 true true).2 = some pl ∧
        Issues (.sst n p f cy) s n none (fun b => withWrites b
          [match pl with
           | .ring m r => (1, Wr.append m r (vbytes b0 f.rv.toNat) (vpois b0 f.rv.toNat))
           | _ => (2, Wr.bytes pl (vbytes b0 f.rv.toNat) (vpois b0 f.rv.toNat))]))

/-- R107, R118, R120, R126: rbset configures a ring, empty, one bundle later; rbpop takes bytes off a ring's head one bundle
later; xcancel cancels the uncompleted transfers of a group; stgs lets the stage end after the group in progress; stg sets out
to start a stage, whose descriptor the cycles after it read and check (`StageSetUp`). -/
def Claims.RingAndStageInstructions : Prop :=
  ∀ (s : State) (n c : Nat) (p : Pred) (f : StmF) (cy : Cyc),
    let b0 := atIssue s n
    let does := fun (i : Instr) (op : BitVec 6) (g : Nib → Nib) =>
      stmReady s n c p op f = true → Issues i s n none (under s n p g)
    does (.rbset n p f) 4 (fun b => withWrites b [(1, .ringCfg f.rv.toNat
      { Ring.empty with valid := true, log2 := f.imm.toNat % 32, base := bits (areg b0 f.aa.toNat).toNat 47 0,
                        offpkg := f.imm.getLsbD 5, stageOff := (ringOf b0 f.rv.toNat).stageOff })])
    ∧ does (.rbpop n p f) 5 (fun b => withWrites b [(1, .ringPop f.rv.toNat ((sreg b0 f.sb.toNat).toNat % 2 ^ 21))])
    ∧ (stmReady s n c p 6 f cy = true →
        Issues (.stg n p f cy) s n none (under s n p fun b => stageAsk b (areg b0 f.aa.toNat)))
    ∧ does (.stgs n p f) 7 stageStop
    ∧ does (.xcancel n p f) 8 (fun b => cancelGroup b (f.imm.toNat % 16))

/-- R107, R108: bytes appended to a ring that has room stand behind those it held: the fill grows by their number and they are
read back from the old fill on; the bytes it held do not change. -/
def Claims.RingAppendReads : Prop :=
  ∀ (b : Nib) (r mark : Nat) (bs : List Byte) (ps : List Bool),
    let x := ringOf b r
    x.fill + bs.length ≤ x.size → x.base % 64 = 0 → 6 ≤ x.log2 →
    (ringOf (ringAppend b r bs ps mark) r).fill = x.fill + bs.length
    ∧ ringBytes (ringAppend b r bs ps mark) r x.fill bs.length = bs
    ∧ ringBytes (ringAppend b r bs ps mark) r 0 x.fill = ringBytes b r 0 x.fill

/-! ### Nibs: the sync slot (R127 to R131) -/

/-- R127, R129, R262: tsig. A signal that covers no transfer in flight and follows no held signal of its channel leaves at
once; one that does is held at the nib. A count of 0 has no effect. -/
def Claims.SignalInstructions : Prop :=
  ∀ (s : State) (n c : Nat) (p : Pred) (tid : BitVec 20) (n1 : BitVec 4) (sa sb : BitVec 5) (d : SigDst),
    predHolds (atIssue s n) p = true → heldSignals (atIssue s n) < 16 →
    let v := commit s n
    let b := atIssue s n
    let does := fun (i : Instr) (o : Syn) (t k : Nat) =>
      synReady s n c p o = true → resolveTid v c (some n) t false = some d →
      let g : Signal := ⟨d, k, c, (ctxOf v c).gen, ideal b + (match d with | .here t => sigLat n t | .away _ _ _ => 0)⟩
      (k = 0 → Issues i s n none id)
      ∧ (0 < k →
        if coverOf b d = [] ∧ b.held.all (fun h => !sameChannel h.sig.dst d) = true then
          ∃ u, u = emit v g ∧ Answers i s fun t => OnlyNib u t n ∧ nibOf t n = issuedNib b v.ftc none
        else Issues i s n none fun b => { b with held := b.held ++ [⟨g, coverOf b d, none⟩] })
    does (.tsig n p tid n1) (.tsig tid n1) tid.toNat (n1.toNat + 1)
    ∧ does (.tsigR n p sa sb) (.tsigR sa sb) ((sreg b sa.toNat).toNat % 2 ^ 20) ((sreg b sb.toNat).toNat % 2 ^ 16)

/-- R128, R251: twait on a tally of the nib. Where the count suffices and no earlier wait stands before it, the count falls by
K and the bundle issues; where it does not, the bundle is held and the cycle counts as a wait. -/
def Claims.WaitInstructions : Prop :=
  ∀ (s : State) (n c i : Nat) (p : Pred) (tid : BitVec 20) (k1 : BitVec 4) (sa sb : BitVec 5),
    predHolds (atIssue s n) p = true →
    let v := commit s n
    let b := atIssue s n
    let tal := TalRef.nib n i
    let does := fun (j : Instr) (o : Syn) (t k : Nat) =>
      synReady s n c p o = true → resolveTid v c (some n) t true = some (.here tal) → 0 < k →
      (v.waits.all fun w => w.tal != tal) = true →
      Answers j s fun t => OnlyNib v { t with waits := v.waits } n ∧
        if k ≤ (talOf v tal).count then
          t.waits = v.waits ∧ (talOf t tal).count = (talOf v tal).count - k ∧ (nibOf t n).clk = b.clk + 1
            ∧ (nibOf t n).hold = none
        else t.waits = v.waits ++ [⟨tal, n, k, false⟩] ∧ (talOf t tal).count = (talOf v tal).count
            ∧ (nibOf t n).clk = b.clk ∧ (nibOf t n).hold.isSome ∧ (nibOf t n).waitCyc = satAdd (2 ^ 64 - 1) b.waitCyc 1
    does (.twait n p tid k1) (.twait tid k1) tid.toNat (k1.toNat + 1)
    ∧ does (.twaitR n p sa sb) (.twaitR sa sb) ((sreg b sa.toNat).toNat % 2 ^ 20) ((sreg b sb.toNat).toNat % 2 ^ 16)

/-- R130: ttest on a tally of the nib writes, two bundles later, a predicate that tells whether the count suffices. -/
def Claims.TestInstructions : Prop :=
  ∀ (s : State) (n c i : Nat) (p : Pred) (tid : BitVec 20) (sa sb : BitVec 5) (pd : BitVec 3),
    predHolds (atIssue s n) p = true → exactMode (commit s n) c = false →
    let v := commit s n
    let b := atIssue s n
    let does := fun (j : Instr) (o : Syn) (t k : Nat) =>
      synReady s n c p o = true → resolveTid v c (some n) t true = some (.here (.nib n i)) →
      Issues j s n none fun b => withWrites b [(2, .p pd.toNat (BitVec.allOnes 64)
        (allBits (decide (k ≤ (look Tally.zero b.tallies i).count))))]
    does (.ttest n p tid pd) (.ttest tid pd) tid.toNat 1
    ∧ does (.ttestR n p sa sb pd) (.ttestR sa sb pd) ((sreg b sa.toNat).toNat % 2 ^ 20) ((sreg b sb.toNat).toNat % 2 ^ 16)

/-- R131, R304, R320: coll issues the collective that its descriptor describes, where the descriptor raises no fault. -/
def Claims.CollInstruction : Prop :=
  ∀ (s : State) (n c : Nat) (p : Pred) (aa : BitVec 4) (tid : BitVec 20) (d : SigDst) (cy : Cyc),
    synReady s n c p (.coll aa tid) cy = true → predHolds (atIssue s n) p = true →
    resolveTid (commit s n) c (some n) tid.toNat false = some d →
    Answers (.coll n p aa tid cy) s fun t =>
      t = fenceCheck (finishIssue (collIssue (commit s n) n c (areg (atIssue s n) aa.toNat) d) n none) n
      ∧ ∃ k ∈ t.colls, k.ctx = c ∧ ∃ q ∈ k.parts, q.nib = n ∧ q.dst = d

/-! ### Nibs: sequencer, stream-out, transfers and stage (R35, R74, R76, R102, R115, R122, R124, R154) -/

/-- R72, R76, R78: the bundle at the PC issues: where nothing freezes it, no slot waits or faults and it does not halt, its slots
take effect from the registers as they stand at issue, NIB_ISSUED and NIB_CYCLE count it, and no bundle is held. -/
def Claims.BundleIssue : Prop :=
  ∀ (s : State) (n c : Nat), slotReady s n c = true →
    let v := commit s n
    let x := bundleOf ((nibOf s n).code.getD (nibOf s n).pc 0)
    issueOk v n c x {} = true →
    Answers (.bundleIssue n {}) s fun t => IssuedFrom v t n c x {}

/-- R79, R101 to R103: a bundle with a faulting slot has no effect: NIB_FAULT names the first faulting slot in the order of
R103 and its code, MULTI tells whether another slot faults too, NIB_FAULT_PC the bundle, and the nib takes STATE 4, or 6 where it is fenced at the end of that bundle. (That
the bundle counts as issued is the model's reading, log entry 26.) -/
def Claims.BundleFaults : Prop :=
  ∀ (s : State) (n c slot code info : Nat) (rest : List (Nat × Nat × Nat)), slotReady s n c = true →
    let v := commit s n
    let x := bundleOf ((nibOf s n).code.getD (nibOf s n).pc 0)
    (matFrz v n x.mat {}).isNone = true → waitOf v n c x.syn = .none →
    bundleFaults v n c x = (slot, code, info) :: rest →
    Answers (.bundleIssue n {}) s fun t => t = fenceCheck (takeFault v n c slot code info (!rest.isEmpty)) n

/-- R34, R35, R37, R78: a bundle that a freeze has held for `k` further cycles issues in the first cycle without a freeze; the
frozen cycles count in NIB_CYCLE and in the counters of their causes. (No failed comparison becomes due while it is held.) -/
def Claims.FreezeRelease : Prop :=
  ∀ (s : State) (n c k : Nat) (h : Hold) (z : Frz), populated s n = true → running (nibOf s n) = true →
    ctxOfNib s n = some c → (nibOf s n).hold = some h → h.frz = some z → (∀ x ∈ (nibOf s n).checks, (nibOf s n).cycle + k ≤ x.due) →
    let v := commit (onNib s n fun b => countFrz b z k) n
    issueOk v n c h.b {} = true →
    Answers (.freezeReleaseIssue n k {}) s fun t => IssuedFrom v t n c h.b {}

/-- R78, R128: a bundle that a wait has held for `k` further cycles issues once its wait has been granted; the cycles count in
NIB_CYCLE and NIB_WAIT_CYC. -/
def Claims.WaitSatisfied : Prop :=
  ∀ (s : State) (n c k i q : Nat) (h : Hold), populated s n = true → running (nibOf s n) = true →
    ctxOfNib s n = some c → (nibOf s n).hold = some h → h.waited = true → h.frz = none → (∀ x ∈ (nibOf s n).checks, (nibOf s n).cycle + k ≤ x.due) →
    let v := commit (onNib s n fun b => countWait b k) n
    waitOf v n c h.b.syn = .own (.nib n i) q → (nibOf v n).wait.queued = true → (nibOf v n).wait.reply = some true →
    matFrz v n h.b.mat {} = none → stageFrz v n {} = none → bundleFaults v n c h.b = [] →
    ctlOn (nibOf v n) h.b ≠ some .halt →
    Answers (.twaitSatisfied n k {}) s fun t => IssuedFrom v t n c h.b {}

/-- R37, R78: counting `k` frozen or waiting cycles raises NIB_CYCLE by k, saturating, and changes no register file, no ring and
no well of the nib. -/
def Claims.HeldCyclesCount : Prop :=
  ∀ (b : Nib) (z : Frz) (k : Nat),
    (countFrz b z k).cycle = Nat.min (2 ^ 64 - 1) (b.cycle + k)
    ∧ (countWait b k).cycle = Nat.min (2 ^ 64 - 1) (b.cycle + k)
    ∧ (countWait b k).waitCyc = Nat.min (2 ^ 64 - 1) (b.waitCyc + k)
    ∧ ∃ r, countFrz b z k = { b with cycle := (countFrz b z k).cycle, regs := r }

/-- R102: a context halt that reaches a loaded or running nib of its context stops it with STATE 5, its bundle not issued and
the writes of what it has issued done. -/
def Claims.ContextHaltArrives : Prop :=
  ∀ (s : State) (n c : Nat), populated s n = true → ctxOfNib s n = some c → (ctxOf s c).loaded = true →
    (ctxOf s c).halting = true → (nibOf s n).checks = [] → (nibOf s n).st = 1 ∨ (nibOf s n).st = 2 →
    Answers (.contextHaltArrival n false) s fun t =>
      t = haltNib s n 5 ∧ (nibOf t n).st = 5 ∧ (nibOf t n).hold = none ∧ (nibOf t n).pend = []
      ∧ t.pending = s.pending ∧ t.ftc = s.ftc ∧ t.ctxs = s.ctxs

/-- R42, R46: a failed comparison is reported at the end of the cycle in which it is due: NIB_ABFT_STATUS.MISMATCH, the record in
NIB_ABFT_LAST, one more in NIB_ABFT_FENCE_COUNT and a contained error naming the nib; below the threshold the nib goes on. (The
cycle is the model's reading, log entry 112.) -/
def Claims.MismatchReported : Prop :=
  ∀ (s : State) (n : Nat) (k : Check), populated s n = true → (nibOf s n).checks = [k] → k.due < (nibOf s n).cycle →
    fld (nibReg (nibOf s n) Reg.NIB_ABFT_FENCE_COUNT) 7 0 + 1 < fenceThr (nibOf s n) →
    let t := fenceCheck s n
    fld (nibReg (nibOf t n) Reg.NIB_ABFT_STATUS) 0 0 = 1
    ∧ nibReg (nibOf t n) Reg.NIB_ABFT_LAST = BitVec.ofNat 32 k.word
    ∧ fld (nibReg (nibOf t n) Reg.NIB_ABFT_FENCE_COUNT) 7 0 = fld (nibReg (nibOf s n) Reg.NIB_ABFT_FENCE_COUNT) 7 0 + 1
    ∧ t.reports = s.reports ++ [⟨2, 0x21, 1, ctxOfNib s n, n, k.word, s.ftc⟩]
    ∧ (nibOf t n).checks = [] ∧ (nibOf t n).st = (nibOf s n).st ∧ (nibOf t n).pc = (nibOf s n).pc
    ∧ ∀ m, m ≠ n → nibOf t m = nibOf s m

/-- R115: stream-out writes the row set at the queue heads: where a row of tine `i` waits alone, no stage runs and its ring has
room, the row leaves the queue and its sixteen elements, converted to OF, stand at the ring's tail. -/
def Claims.StreamOut : Prop :=
  ∀ (s : State) (n i : Nat) (row : DrainRow) (rest : List DrainRow),
    let b := nibOf s n
    let codes := (row.vals.map (·.toNat)).map fun v => convert row.fo row.sat (decodeElem row.src v)
    let bytes := natLE (2 * elemBits row.fo) (packNat (elemBits row.fo) (codes.map (·.1)))
    populated s n = true → b.stage = none → i < 4 → queueOf b i = row :: rest → row.toVec = false →
    (∀ j, j ≠ i → j < 4 → queueOf b j = []) → (ringOf b row.drb).valid = true →
    bytes.length ≤ ringFree s n row.drb →
    Answers (.streamOutWrite n []) s fun t =>
      (∀ m, m ≠ n → nibOf t m = nibOf s m) ∧ t = { s with nibs := t.nibs, regs := t.regs }
      ∧ queueOf (nibOf t n) i = rest ∧ (nibOf t n).acc = b.acc
      ∧ (ringOf (nibOf t n) row.drb).fill = (ringOf b row.drb).fill + bytes.length

/-- R119, R154: a tag of an uncancelled transfer to a well whose bytes have arrived writes them at its offset of the
destination; no other byte of that well changes, and no other memory. -/
def Claims.TagLandsInWell : Prop :=
  ∀ (s : State) (n k m a : Nat) (x : Xfer) (g : Tag), populated s n = true →
    (nibOf s n).xfers.find? (fun y => y.id = x.id) = some x → x.cancelled = false → x.dst = .well m a →
    x.tags[k]? = some g → g.st = .flight → arrivedAll s n x.id g.off g.data.length = true →
    Answers (.tagLand n x.id k [] []) s fun t =>
      readBytes (nibOf t m).well (a + g.off) g.data.length = g.data
      ∧ (∀ o, o < a + g.off ∨ a + g.off + g.data.length ≤ o → readByte (nibOf t m).well o = readByte (nibOf s m).well o)
      ∧ (∀ q, q ≠ m → (nibOf t q).well = (nibOf s q).well)
      ∧ t.hbm = s.hbm ∧ t.landMem = s.landMem ∧ t.hostMem = s.hostMem

/-- R34, R35, R36, R78, R122: one unfrozen cycle of a stage moves its cycle on by one; a frozen one, and one in which the nib's
bundle is held, change nothing; a row pushed into a full queue whose head waits for mpop is fault 0x02 with its tine. (That it
is recorded as a fault of the stg is the model's reading, log entry 21.) -/
def Claims.StageCycle : Prop :=
  ∀ (s : State) (n c : Nat) (g : Stage), populated s n = true → ctxOfNib s n = some c → (nibOf s n).st = 2 →
    (nibOf s n).stage = some g → (nibOf s n).stgReq = none →
    Answers (.stageStep n {}) s fun t =>
      if (nibOf s n).hold.isSome ∨ stageFrz s n {} ≠ none then t = s
      else match stageOverflow (nibOf s n) g (g.tau + 1) with
        | some i => t = stageFault s n c 0x02 i g.pc g.cyc
        | none => (nibOf t n).st = 2 → ∃ h, (nibOf t n).stage = some h ∧ h.tau = g.tau + 1 ∧ h.tp = g.tp

/-- R121, R124, R125: in the cycle after stg the nib reads the 64 bytes of the descriptor from its well as they stand then; in
the cycle after that it checks them: a good one starts the stage it describes, a bad one is a fault of the stg, with the code
and information of the check. -/
def Claims.StageSetUp : Prop :=
  ∀ (s : State) (n c : Nat) (q : StgReq), populated s n = true → ctxOfNib s n = some c → (nibOf s n).st = 2 →
    (nibOf s n).hold = none → (nibOf s n).stgReq = some q →
    Answers (.stageStep n {}) s fun t =>
      (q.desc = none → OnlyNib s t n ∧
        nibOf t n = { nibOf s n with stgReq := some { q with desc := some (readBytes (nibOf s n).well (bits q.addr.toNat 47 0) 64) } })
      ∧ (∀ bs, q.desc = some bs →
          (stgCheck s n c q bs = none → OnlyNib s t n ∧ (nibOf t n).stgReq = none ∧
            ∃ g, (nibOf t n).stage = some g ∧ g.tp = (stageOf q bs).tp ∧ g.tau = 2 ∧ g.wins = q.heads
              ∧ g.stopping = q.stopping)
          ∧ (∀ e, stgCheck s n c q bs = some e → t = stageFault s n c e.1 e.2 q.pc q.cyc))

/-- R124: stage stream-in issues the next bytes of IN_SRC, at most 2 KiB for each tag of its share, for ring WRB. -/
def Claims.StageStreamIn : Prop :=
  ∀ (s : State) (n c : Nat) (g : Stage) (pl : Place), populated s n = true → (nibOf s n).stage = some g →
    ctxOfNib s n = some c → g.streamIn = true → g.stopping = false →
    streamInOpen (nibOf s n) g = true →
    let b := nibOf s n
    let len := Nat.min (Nat.min (16 - stageTags b) (tagsFree b) * 2048) (g.inLen - g.inDone)
    0 < len → (resolveAddr s n c (g.inSrc + BitVec.ofNat 64 g.inDone) len false false).2 = some pl →
    Answers (.stageStreamIn n {}) s fun t =>
      (nibOf t n).stage = some { g with inDone := g.inDone + len } ∧ (∀ m, m ≠ n → nibOf t m = nibOf s m)
      ∧ (∃ x, (nibOf t n).xfers = b.xfers ++ [x] ∧ x.dst = .ring n g.tp.wrb.toNat ∧ x.stage = true)
      ∧ t = { s with nibs := t.nibs, meshX := t.meshX }

/-- R122, R124, R126: a stage whose steps have issued and whose rows have left ends: ACTIVE falls, DONE is set, and a stage
without a DONE tally sends nothing. -/
def Claims.StageEnds : Prop :=
  ∀ (s : State) (n : Nat) (g : Stage), populated s n = true → (nibOf s n).stage = some g → stageOver (nibOf s n) g = true →
    g.done = none →
    Answers (.stageEnd n) s fun t => (nibOf t n).stage = none
      ∧ fld (nibReg (nibOf t n) Reg.NIB_STG_STATUS) 1 0 = 0 ∧ fld (nibReg (nibOf t n) Reg.NIB_STG_STATUS) 2 2 = 1
      ∧ t.signals = s.signals ∧ t.out = s.out

/-! ### Signals, tallies and waits (R249 to R271) -/

/-- R262, R263: a held signal leaves its source once the bytes that it covers have landed and no earlier signal of its channel is
held; otherwise it stays. -/
def Claims.SignalRelease : Prop :=
  ∀ (s : State) (n i : Nat) (src : SigSrc), populated s n = true →
    (∀ h, (nibOf s n).held[i]? = some h →
      Answers (.signalRelease (.nib n) i) s fun t =>
        if h.covers.all (tagLanded (nibOf s n)) = true ∧ firstOnChannel ((nibOf s n).held.take i) h = true then
          t = emit (setNib s n { nibOf s n with held := eraseNth (nibOf s n).held i }) h.sig
        else t = s)
    ∧ ((∀ m, src ≠ .nib m) → ∀ h, (s.heldHub.filter fun p => p.1 = src)[i]? = some (src, h) →
        Answers (.signalRelease src i) s fun t =>
          if h.covers.all (stripsLanded s) = true
              ∧ firstOnChannel (((s.heldHub.filter fun p => p.1 = src).take i).map (·.2)) h = true then
            t = emit { s with heldHub := s.heldHub.erase (src, h) } h.sig
          else t = s)

/-- R249, R250, R252: signals that reach a tally in one cycle add once, and the sum saturates at 65,535 with OVF. Where nothing
waits at the tally and every signal is of a program that is loaded, the tally changes so, the signals are gone, and no other
tally changes. -/
def Claims.SignalArrival : Prop :=
  ∀ (s : State) (d : TalRef) (k : Nat) (ext : List ExtSignal), talOk s d = true →
    let gs := (takeSignals d k s.signals).1
    (∀ g ∈ gs, liveSignal s d g = true) →
    (∀ e ∈ ext, ∃ c, tagCtx s e.tag = some c ∧ (ctxOf s c).loaded = true ∧ extDst s c e = some d) →
    (s.waits.all fun w => w.tal != d) = true →
    let sum := (gs.map (·.count)).sum + (ext.map (·.count)).sum
    Answers (.signalArrive d k ext) s fun t =>
      (talOf t d).count = (if sum = 0 then (talOf s d).count else Nat.min 0xFFFF ((talOf s d).count + sum))
      ∧ ((talOf t d).ovf = true ↔ (talOf s d).ovf = true ∨ 0 < sum ∧ 0xFFFF < (talOf s d).count + sum)
      ∧ t.signals = (takeSignals d k s.signals).2 ∧ t.waits = s.waits ∧ (∀ e, e ≠ d → talOf t e = talOf s e)

/-- R251: a wait that a nib has sent to a hub tally joins its queue; where nothing waits before it and the count suffices, the
tally falls by K and the nib's reply is a grant. -/
def Claims.RemoteWaitArrival : Prop :=
  ∀ (s : State) (n c h k : Nat) (b : Hold), populated s n = true → n ∈ s.waitsOut → (nibOf s n).hold = some b →
    ctxOfNib s n = some c → waitOf { s with waitsOut := s.waitsOut.erase n } n c b.b.syn = .remote (.hub h) k false →
    (s.waits.all fun w => w.tal != .hub h) = true →
    Answers (.remoteWaitArrive n) s fun t =>
      t.waitsOut = s.waitsOut.erase n ∧
      if k ≤ (talOf s (.hub h)).count then
        (talOf t (.hub h)).count = (talOf s (.hub h)).count - k ∧ t.waits = s.waits
          ∧ (nibOf t n).wait.reply = some true ∧ (nibOf t n).wait.granted = true
      else talOf t (.hub h) = talOf s (.hub h) ∧ t.waits = s.waits ++ [⟨.hub h, n, k, false⟩]

/-- R267 to R270: the hang watchdog. With no nib of the context that has issued nothing for the limit, and while the context
halts, only time passes; else the lowest such nib is recorded in FTC_TALc_HANG_NIB and the context halts. -/
def Claims.HangWatchdog : Prop :=
  ∀ (s : State) (c t : Nat), c < 16 →
    let u := atTime s t
    Answers (.hangWatchdog c t) s fun v =>
      (((ctxOf u c).halting = true ∨ hungNib u c = none) → v = u)
      ∧ (∀ n, (ctxOf u c).halting = false → hungNib u c = some n →
          v = hang u c n ∧ (ctxOf v c).halting = true ∧ (nibOf u n).st = 2)

/-- R256, R271: FTC_TAL_WIN with READ alone brings the words of an entry of the map or the span table into the window's data;
with WRITE alone it stores the window's data, without its reserved bits, as an entry of a context without a program where R254 and R260 allow the entry, and
sets CFG where they do not. -/
def Claims.TallyWindow : Prop :=
  ∀ (s : State) (a : Acc) (v : BitVec 32), regOpen s a Reg.FTC_TAL_WIN = true →
    let c := fld v 3 0
    let e := fld v 12 5
    let u := setReg s Reg.FTC_TAL_WIN (v &&& 0x1FFF)
    (v.getLsbD 31 = false → fld v 4 4 = 0 → e < 64 →
      Answers (.talWinRead a v) s fun t =>
        (∀ w, w < 4 → getReg t (Reg.FTC_TAL_WIN_DATA + 4 * w) = look 0 (ctxOf s c).tmap (4 * e + w))
        ∧ OnlyRegs s t (Reg.FTC_TAL_WIN :: (List.range 4).map fun w => Reg.FTC_TAL_WIN_DATA + 4 * w))
    ∧ (v.getLsbD 30 = false → fld v 4 4 = 0 → (ctxOf s c).loaded = false → e < 64 →
        let w := fun i => winData s i &&& entryMask i
        let m := entryOfWords (w 0) (w 1) (w 2) (w 3)
        Answers (.talWinWrite a v) s fun t =>
          if (m.valid = false ∨ entryOk (ctxOf s c) e m = true) ∧ ¬(m.kind = 1 ∧ 16 < m.count) then
            t = setCtx u c { ctxOf s c with tmap := putWords (ctxOf s c).tmap e (w 0) (w 1) (w 2) (w 3) }
          else t = setBit u (talReg Reg.FTC_TALC_STATUS c) 3)

/-- R37, R50: writing 1 to NIB_FRZ_CTRL.CLEAR zeroes the five freeze counters of the nib and changes nothing else; writing 0
changes nothing. -/
def Claims.FreezeCountersClear : Prop :=
  ∀ (s : State) (a : Acc) (n : Nat) (v : BitVec 32), populated s n = true →
    regOpen s a (nibOffset n Reg.NIB_FRZ_CTRL) = true →
    Answers (.frzClear a n v) s fun t =>
      (v.getLsbD 0 = false → t = s)
      ∧ (v.getLsbD 0 = true → OnlyNib s t n ∧ (∃ r, nibOf t n = { nibOf s n with regs := r })
          ∧ ∀ o, nibReg (nibOf t n) o
              = if o ∈ [Reg.NIB_FRZ_TOTAL, Reg.NIB_FRZ_WP, Reg.NIB_FRZ_AP, Reg.NIB_FRZ_DR, Reg.NIB_FRZ_EXT].flatMap
                    (fun r => [r, r + 4]) then 0 else nibReg (nibOf s n) o)

/-! ### Movement inside the package (R135, R140 to R148, R170 to R176) -/

/-- R140 to R142: in a cycle the rotation engine of a nib moves at most two words into ROT: in step 0 from its own NXT, in the
others from the ROT of the next nib of the cluster. The count of bytes written into ROT rises by what moved; no other nib than
these two changes, and no memory outside the wells. -/
def Claims.RotationForward : Prop :=
  ∀ (s : State) (n k : Nat) (x : ChainNib), populated s n = true → chainNib s n = some x → engineOn (nibOf s n) = true →
    (ringOf (nibOf s n) x.plan.rot).valid = true → x.plan.piece ≠ 0 → 0 < k →
    let b := nibOf s n
    let m := 64 * clusterOf n + (x.j + 1) % x.g
    Answers (.rotationForward n k [] []) s fun t =>
      (nibOf t n).rotBytes ∈ [b.rotBytes, b.rotBytes + 64, b.rotBytes + 128]
      ∧ (∀ q, q ≠ n → q ≠ m → nibOf t q = nibOf s q)
      ∧ t = { s with nibs := t.nibs }
      ∧ (b.rotBytes / x.plan.piece % x.g = 0 → b.rotBytes % x.plan.piece ≠ 0 →
          x.plan.nxt ≠ x.plan.rot → 128 ≤ (ringOf b x.plan.rot).room → 128 ≤ (ringOf b x.plan.nxt).avail →
          128 ≤ x.plan.piece - b.rotBytes % x.plan.piece → 2 ≤ k → (nibOf t n).rotBytes = b.rotBytes + 128)

/-- R139, R141: a cluster port moves at most two words of the slab to the rings of its cluster; its position moves on by what
moved, and at the end of the slab it turns to the next one. -/
def Claims.ChainForward : Prop :=
  ∀ (s : State) (d k w c : Nat) (p : ChainPlan), d < 4 → k < 12 → ctxOfCluster s (12 * d + k) = some c →
    (ctxOf s c).chain = some p → (ctxOf s c).loaded = true → k < p.clusters → p.piece ≠ 0 →
    let key := 12 * d + k
    let g := geomNibs (ctxOf s c).geom
    let t0 := look ⟨0, 0⟩ s.cports key
    Answers (.chainForward d k w [] [] []) s fun t =>
      ∃ m, (m = 0 ∨ m = 64 ∨ m = 128) ∧ m ≤ 64 * w ∧
        look ⟨0, 0⟩ t.cports key
          = (if t0.pos + m ≥ p.common + g * p.piece ∧ 0 < m then ⟨t0.slab + 1, 0⟩ else ⟨t0.slab, t0.pos + m⟩)
        ∧ (∀ q, q ≠ key → look ⟨0, 0⟩ t.cports q = look ⟨0, 0⟩ s.cports q)
        ∧ t.hbm = s.hbm ∧ t.landMem = s.landMem ∧ t.regs = s.regs

/-- R135: the oldest frame of a landing area that K0 has read completely returns to FREE; else nothing changes. -/
def Claims.LandingFrameRelease : Prop :=
  ∀ (s : State) (d : Nat) (x : LandSlab) (xs : List LandSlab), d < 4 → (look Landing.reset s.landing d).slabs = x :: xs →
    let a := look Landing.reset s.landing d
    let total := slabBytes s (geomNibs (ctxOf s (ribCtx s)).geom)
    let gone := slabFrames total - x.frames
    Answers (.landingFrameRelease d) s fun t =>
      if 0 < x.frames ∧ (total ≤ x.rd ∨ (gone + 1) * 65536 ≤ x.rd) then
        t = { s with landing := t.landing } ∧ (look Landing.reset t.landing d).used = a.used - 1
          ∧ (look Landing.reset t.landing d).alloc = a.alloc
          ∧ ∀ e, e ≠ d → look Landing.reset t.landing e = look Landing.reset s.landing e
      else t = s

/-- R146, R147: in a cycle that the die's slot table does not grant to a flow nothing moves; in a granted one the first part with
a flit ready at the flow sends it, or, where a part still has bytes for the flow, a missed slot is counted. A flit in a crossing
becomes ready at the flow behind it. -/
def Claims.MeshFlows : Prop :=
  ∀ (s : State) (d f cycle : Nat) (tab : MeshTab), d < 4 → look none s.mesh d = some tab →
    (Answers (.meshFlitSend d f cycle) s fun t =>
      (granted tab f cycle = false → t = s)
      ∧ (granted tab f cycle = true → s.meshX = [] → t = s)
      ∧ (∀ m ms l ls, granted tab f cycle = true → s.meshX = m :: ms → m.legs = l :: ls → l.die = d → l.flow = f →
          256 ≤ l.ready →
          ∃ m' l', t = { s with meshX := m' :: ms } ∧ m'.legs.head? = some l' ∧ l'.ready = l.ready - 256
            ∧ l'.unsent = l.unsent - 256 ∧ m'.len = m.len))
    ∧ (∀ m ms l ls, s.meshX = m :: ms → m.legs = l :: ls → l.die = d → l.flow = f → 0 < l.crossing →
        Answers (.crossingDeliver d f) s fun t =>
          ∃ m' l', t = { s with meshX := m' :: ms } ∧ m'.legs.head? = some l'
            ∧ l'.ready = l.ready + Nat.min 256 l.crossing ∧ l'.crossing = l.crossing - 256)

/-- R174: outside the chain arrangement an expander with nothing in its factor buffer reads the next header from WRB where 64
bytes are present; a usable one enters the factor buffer, with as much of its U area as is present. R178, R181: an unusable one
stands there for a block of which nothing is known, with BADHDR in NIB_EXP_STATUS and NIB_EXP_ERR. R170, R173: a raw block's
groups pass unchanged into the output buffer. R178: in place of an unusable block the output buffer takes groups of zeros, all
of whose words are poisoned. -/
def Obligations.ExpanderCommands : Prop :=
  ∀ (s : State) (n c : Nat) (g : Stage), populated s n = true → (nibOf s n).stage = some g → g.expand = true →
    ctxOfNib s n = some c → expChain s n = none →
    let b := nibOf s n
    let wf := g.tp.wf.toNat
    let r := g.tp.wrb.toNat
    (b.exp = Expander.idle → 64 ≤ (ringOf b r).avail → ringPois b r (ringOf b r).rd 64 = false →
      hdrUsable ⟨wf, r, geomNibs (ctxOf s c).geom, none⟩ (hdrOf (ringBytes b r (ringOf b r).rd 64)) = true →
      Answers (.expanderFactorLoad n []) s fun t =>
        OnlyNib s t n ∧ ∃ k, (nibOf t n).exp.blocks = [k] ∧ k.hdr = hdrOf (ringBytes b r (ringOf b r).rd 64))
    ∧ (b.exp = Expander.idle → 64 ≤ (ringOf b r).avail → ringPois b r (ringOf b r).rd 64 = false →
        hdrUsable ⟨wf, r, geomNibs (ctxOf s c).geom, none⟩ (hdrOf (ringBytes b r (ringOf b r).rd 64)) = false →
        Answers (.expanderFactorLoad n []) s fun t =>
          (∃ k, (nibOf t n).exp.blocks = [k] ∧ k.bad = true ∧ k.u = []) ∧ fld (nibReg (nibOf t n) Reg.NIB_EXP_STATUS) 4 4 = 1
            ∧ nibReg (nibOf t n) Reg.NIB_EXP_ERR = BitVec.ofNat 32 (0x7FFFF + 4 * 2 ^ 19))
    ∧ (∀ k, b.exp.blocks = [k] → b.exp.out = [] → b.exp.skip = 0 → k.bad = true →
        Answers (.expanderTile n false []) s fun t =>
          OnlyNib s t n ∧ ∃ o, (nibOf t n).exp.out = [o] ∧ o.tiles = 1 ∧ o.data = List.replicate (wgBytes wf) 0
            ∧ o.poison.all id = true ∧ 64 * o.poison.length = wgBytes wf + (64 - wgBytes wf % 64) % 64)
    ∧ (∀ k, b.exp.blocks = [k] → b.exp.out = [] → b.exp.skip = 0 → k.bad = false → k.hdr.kind = 0 →
        k.hdr.outFmt = wf → k.hdr.commonSize ≤ k.u.length → b.exp.piece.isSome = true → wgBytes wf ≤ b.exp.left →
        wgBytes wf ≤ (ringOf b r).avail →
        Answers (.expanderTile n false []) s fun t =>
          OnlyNib s t n ∧ ∃ o, (nibOf t n).exp.out = [o] ∧ o.tiles = 1
            ∧ o.data = ringBytes b r (ringOf b r).rd (wgBytes wf))


/-! ### Registers of the bus and the JTAG port (R6, R9 to R11, R434, R443) -/

/-- R9, R10: a write to a register that acts by its access codes alone, bit by bit. A bit that the package sets in the same
cycle reads 1; an RW bit, and an RWL bit of a context that is not sealed, takes the written value; a W1C bit written 1
reads 0; every other bit, and every other register, keeps its value. A write that meets a seal is reported with CODE 0x29.
The same of the W1C bits outside such registers: the class and OVF bits of a log's status, and OVF of a tally. -/
def Obligations.RegisterWrites : Prop :=
  ∀ (s : State) (a : Acc) (off : Nat) (v set : BitVec 32) (cond : Bool) (r : RegRow) (i j : Nat),
    regOpen s a off = true → rowAt off = some (r, i, j) →
    (nibAt off = none → r.pair = 0 → r.base = Reg.HUB_LOG_STATUS → Answers (.registerWrite a off v set cond) s fun t =>
      ∀ k, k < 5 → (getReg t (Reg.HUB_LOG_STATUS + 0x1000 * i)).getLsbD k =
        (set.getLsbD k || (getReg s (Reg.HUB_LOG_STATUS + 0x1000 * i)).getLsbD k && !v.getLsbD k))
    ∧ (∀ x, (nibAt off = none ∧ r.pair = 0 ∧ r.base = Reg.FTC_TALLY ∧ x = .hub i
          ∨ ∃ n k, nibAt off = some (n, Reg.NIB_TAL + 4 * k) ∧ k < 16 ∧ x = .nib n k) →
        Answers (.registerWrite a off v set cond) s fun t =>
          (talOf t x).ovf = (set.getLsbD 16 || (talOf s x).ovf && !v.getLsbD 16) ∧ (talOf t x).count = (talOf s x).count
          ∧ ∀ y, y ≠ x → talOf t y = talOf s y)
    ∧ (plainReg s a off v set cond = true →
    let lock := lockHolder s r off i
    let can := fun (m k : Nat) => (BitVec.ofNat 32 m).getLsbD k
    Answers (.registerWrite a off v set cond) s fun t =>
      (∀ k, k < 32 → (regWord t off).getLsbD k =
        (if can r.w1c k && set.getLsbD k then true
         else if can r.rw k || (can r.rwl k && lock.isNone) then v.getLsbD k
         else if can r.w1c k && v.getLsbD k then false
         else (regWord s off).getLsbD k))
      ∧ (∀ o, o ≠ off → regWord t o = regWord s o)
      ∧ t = { s with regs := t.regs, nibs := t.nibs, reports := t.reports }
      ∧ (∀ m, ∃ x, nibOf t m = { nibOf s m with regs := x })
      ∧ t.reports = (match lock with | some c => s.reports ++ [⟨2, 0x29, 0, some c, 0, off, s.ftc⟩] | none => s.reports))

/-- R11: a write to the lower register of a pair waits for the accessor; its write to the higher one commits both halves
together, or sets the upper half alone where it holds none. A read of the lower register latches the upper half for the
accessor; its next read of the higher one returns and drops the latch; without one it returns the live upper half. No
access touches what another accessor holds or has latched. A ring base or journal address of a queue pair that may not be
written keeps its value (R368, R374). -/
def Claims.RegisterPairs : Prop :=
  ∀ (s : State) (a : Acc) (off : Nat) (v : BitVec 32) (r q : RegRow) (i j : Nat),
    let others := fun (l l' : List (Acc × Nat × W32)) (o : Nat) => ∀ b p, (b, p) ≠ (a, o) → pairSlot l' b p = pairSlot l b p
    (regOpen s a off = true → nibAt off = none → findRow hubRows off = some (r, i, j) → r.pair = 1 →
      Answers (.pairLowWrite a off v) s fun t =>
        t = { s with heldLow := t.heldLow } ∧ pairSlot t.heldLow a off = some v ∧ others s.heldLow t.heldLow off)
    ∧ (regOpen s a off = true → nibAt off = none → findRow hubRows off = some (r, i, j) → r.pair = 2 → 4 ≤ off →
        findRow hubRows (off - 4) = some (q, i, j) → lockHolder s r off i = none →
        r.base ∉ [Reg.AVF_CTX_CLUSTERS_HI, Reg.FTC_CTX_START_HI, Reg.AVF_Q_SQ_BASE_HI, Reg.AVF_Q_CQ_BASE_HI] →
        baseOpen s r.base i j = true →
        Answers (.pairHighWrite a off v) s fun t =>
          getReg t (off - 4) = written q false (getReg s (off - 4)) ((pairSlot s.heldLow a (off - 4)).getD (getReg s (off - 4))) 0
          ∧ getReg t off = written r false (getReg s off) v 0
          ∧ (∀ o, o ≠ off → o ≠ off - 4 → getReg t o = getReg s o)
          ∧ t = { s with regs := t.regs, heldLow := t.heldLow }
          ∧ pairSlot t.heldLow a (off - 4) = none ∧ others s.heldLow t.heldLow (off - 4))
    ∧ (regOpen s a off = true → nibAt off = none → findRow hubRows off = some (r, i, j) → r.pair = 2 →
        baseOpen s r.base i j = false →
        Answers (.pairHighWrite a off v) s fun t =>
          t = { s with heldLow := t.heldLow } ∧ pairSlot t.heldLow a (off - 4) = none ∧ others s.heldLow t.heldLow (off - 4))
    ∧ (regReadable s a off = true → pairPart off = 1 →
        Answers (.pairLowRead a off) s fun t =>
          t = { s with busData := (regView s off).toNat, busPoison := false, latches := t.latches }
          ∧ pairSlot t.latches a off = some (regView s (off + 4)) ∧ others s.latches t.latches off)
    ∧ (regReadable s a off = true → pairPart off = 2 →
        Answers (.pairHighRead a off) s fun t =>
          t = { s with busData := ((pairSlot s.latches a (off - 4)).getD (regView s off)).toNat, busPoison := false,
                       latches := t.latches }
          ∧ pairSlot t.latches a (off - 4) = none ∧ others s.latches t.latches (off - 4))

/-- R6, R434: an unmapped access sets HUB_ERR_SUMMARY.UNMAPPED, rewrites HUB_UNMAPPED_INFO and HUB_UNMAPPED_ADDR, and writes
no log entry; a read returns zero, a write changes nothing else. -/
def Obligations.UnmappedAccesses : Prop :=
  ∀ (s : State) (a : Acc) (off : Nat) (write : Bool), accReady s a = true →
    (implemented s off = false ∨ (if write then mayWrite a off else mayRead s a off) = false) →
    let noted := fun (t : State) =>
      OnlyRegs (if write then s else { s with busData := 0, busPoison := false }) t
        [Reg.HUB_ERR_SUMMARY, Reg.HUB_UNMAPPED_INFO, Reg.HUB_UNMAPPED_ADDR]
      ∧ (∀ k, k < 32 → (getReg t Reg.HUB_ERR_SUMMARY).getLsbD k = (k == 17 || (getReg s Reg.HUB_ERR_SUMMARY).getLsbD k))
      ∧ (∀ p f, a = .host p f → p < 2 → f < 16 →
          (getReg t Reg.HUB_UNMAPPED_INFO).toNat = f + 16 * p + (if write then 32 else 0))
      ∧ (off < 2 ^ 26 → (getReg t Reg.HUB_UNMAPPED_ADDR).toNat = off)
    Answers (.unmappedAccess a off write) s noted
    ∧ (write = true → ∀ v set cond, Answers (.registerWrite a off v set cond) s noted)
    ∧ (write = false → Answers (.pairLowRead a off) s noted)

/-- An unmapped access by the Owl, for which R434 and HUB_UNMAPPED_INFO give no function, is recorded as one of the PF of H0 (the
model's choice, log entry 148). -/
def Claims.OwlUnmapped : Prop :=
  ∀ (s : State) (off : Nat) (write : Bool),
    implemented s off = false ∨ (if write then mayWrite Acc.owl off else mayRead s Acc.owl off) = false →
    Answers (.unmappedAccess Acc.owl off write) s fun t =>
      (getReg t Reg.HUB_UNMAPPED_INFO).toNat = (if write then 32 else 0) ∧ getF t Reg.HUB_ERR_SUMMARY 17 17 = 1

/-- R443: IDCODE shows 0x0A10_A3E9; EXTEST drives the lands with the boundary values only while RST_PKG_N is low and acts as
BYPASS else; SAMPLE/PRELOAD captures the lands. No JTAG instruction reads or writes nib, hub or security state. -/
def Obligations.JtagInstructions : Prop :=
  ∀ (s : State) (lands preload : Nat),
    let only := fun (t : State) => t = { s with tap := t.tap, out := t.out }
    Answers .idcode s (fun t => only t ∧ t.out = s.out ∧ t.tap.ir = 3 ∧ t.tap.dr = 0x0A10A3E9)
    ∧ Answers .bypass s (fun t => only t ∧ t.out = s.out ∧ t.tap.ir = 0 ∧ t.tap.dr = 0)
    ∧ Answers (.samplePreload lands preload) s (fun t =>
        only t ∧ t.out = s.out ∧ t.tap.ir = 1 ∧ t.tap.dr = lands ∧ t.tap.boundary = preload)
    ∧ Answers (.extest true lands) s (fun t =>
        only t ∧ t.out = s.out ++ [.packet "BOUNDARY" 0 [s.tap.boundary]] ∧ t.tap.ir = 2 ∧ t.tap.dr = lands)
    ∧ (∀ t, exec (.extest false lands) s = .next t ↔ exec .bypass s = .next t)

/-! ### Memory (R223, R226 to R231, R236, R237, R240, R246, R350, R352, R453) -/

/-- R223, R238, R453: a write of a word of the region table is refused with MEM_ERR bit 0 where the region as it stands, or as
it would stand, is valid and its context runs a program, or where it would break R223 or R238; else the word takes the
written bits. No other word of the table changes, and no byte of HBM. -/
def Claims.RegionWrites : Prop :=
  ∀ (s : State) (a : Acc) (r i : Nat) (v : BitVec 32) (row : RegRow) (x y : Nat), r < 64 → i < 4 →
    let off := regOff Reg.MEM_REG_BASE r + 4 * i
    regOpen s a off = true → rowAt off = some (row, x, y) →
    let w := fun k => if k = i then v &&& BitVec.ofNat 32 row.rw else getReg s (regOff Reg.MEM_REG_BASE r + 4 * k)
    let g := regionOfWords (w 0) (w 1) (w 2) (w 3)
    let old := regionOf s r
    Answers (.regionWrite a r i v) s fun t =>
      t.hbm = s.hbm
      ∧ (∀ q k, q < 64 → k < 4 → (q, k) ≠ (r, i) →
          getReg t (regOff Reg.MEM_REG_BASE q + 4 * k) = getReg s (regOff Reg.MEM_REG_BASE q + 4 * k))
      ∧ if old.valid ∧ (ctxOf s old.ctx).loaded ∨ g.valid ∧ ((ctxOf s g.ctx).loaded ∨ regionOk s r g = false) then
          getReg t off = getReg s off ∧ getF t Reg.MEM_ERR 0 0 = 1 ∧ getF t Reg.MEM_ERR_INFO 5 0 = r
            ∧ OnlyRegs s t [Reg.MEM_ERR, Reg.MEM_ERR_INFO]
        else getReg t off = w i ∧ regionOf t r = g

/-- R226, R230, R231, R245: MEM_CMD. ZERO of a region whose context has no program and that holds no locked granule leaves
every word of its serving channels zero, and every word clean. REBUILD of a weight region that reconstructs, with its channels back in
service, begins. REFOLD of a region without a program takes the dead channels out of its map. A refused command says why. -/
def Claims.RegionCommands : Prop :=
  ∀ (s : State) (a : Acc) (r : Nat), r < 64 → regOpen s a Reg.MEM_CMD = true →
    let g := regionOf s r
    let failed := look [] s.regFailed r
    let ends := fun (t : State) (st res : Nat) => getF t Reg.MEM_CMD_STATUS 3 0 = st ∧ getF t Reg.MEM_CMD_STATUS 7 4 = res
    Answers (.zero a r) s (fun t =>
      if g.valid = false then ends t 3 1 ∧ OnlyRegs s t [Reg.MEM_CMD_STATUS]
      else if (ctxOf s g.ctx).loaded then ends t 3 2 ∧ OnlyRegs s t [Reg.MEM_CMD_STATUS]
      else ends t 2 0 ∧ (s.locks = [] → ∀ ch gran o, ch ∈ regChannels s r → gran < Config.granulesPerChannel →
        g.chBase ≤ gran → gran < g.chBase + g.q → o < 4096 →
        (ch ∉ failed → readByte t.hbm (hbmKey ch gran o) = 0) ∧ wordPoison t ch gran o = false))
    ∧ Answers (.rebuild a r) s (fun t =>
        if g.valid = false then ends t 3 1 ∧ OnlyRegs s t [Reg.MEM_CMD_STATUS]
        else if (ctxOf s g.ctx).loaded ∧ exactMode s g.ctx = true then ends t 3 2 ∧ OnlyRegs s t [Reg.MEM_CMD_STATUS]
        else if g.kind ≠ 1 ∨ regState s r ≠ 1 ∨ failed = [] ∨ failed.any (chDead s) = true then
          ends t 3 3 ∧ OnlyRegs s t [Reg.MEM_CMD_STATUS]
        else ends t 1 0 ∧ getF t (regOff Reg.MEM_REG_STATUS r) 2 2 = 1 ∧ look 0 t.regBuilt r = 0 ∧ t.hbm = s.hbm)
    ∧ Answers (.refold a r) s (fun t =>
        if g.valid = false then ends t 3 1 ∧ OnlyRegs s t [Reg.MEM_CMD_STATUS]
        else if (ctxOf s g.ctx).loaded then ends t 3 2 ∧ OnlyRegs s t [Reg.MEM_CMD_STATUS]
        else if g.kind = 1 ∧ regState s r ≠ 2 then ends t 3 3 ∧ OnlyRegs s t [Reg.MEM_CMD_STATUS]
        else ends t 2 0 ∧ regState t r = 3 ∧ look [] t.regFailed r = []
          ∧ look [] t.regGone r = (List.range 256).filter (fun ch => (groupsOf g).contains (ch / 16) && chDead s ch))

/-- R222, R224, R226, R227, R237: a word written at a DPA of a region without failed channels, outside write locks, is stored
at the channel and granule of R224 and is read back; its poison is recorded, and a clean word clears its own record; the
parity word of a weight region takes old parity, old data and new data; an adder region adds what a nib writes. No other
byte of HBM changes. A DPA outside every region reaches no channel. -/
def Claims.MemoryWords : Prop :=
  ∀ (s : State) (dpa : Nat) (data : List (BitVec 8)) (poison : Bool), dpa % 64 = 0 → data.length = 64 →
    let o := dpa % 4096
    (locate s dpa = none → Answers (.hbmWrite dpa data poison) s (fun t => t = s)
      ∧ Answers (.adderWrite dpa data poison) s (fun t => t = s)
      ∧ ∀ corr uncorr, Answers (.hbmRead dpa corr uncorr) s (fun t => t = s))
    ∧ ∀ l, locate s dpa = some l → l.ch < 256 → failedIn s l.r l.group = [] → locked s l.ch l.gran = false →
      let key := hbmKey l.ch l.gran o
      let old := readBytes s.hbm key 64
      let others := fun (t : State) (p : Option Nat) => ∀ k, (k < key ∨ key + 64 ≤ k) →
        (∀ c ∈ p, k < hbmKey c l.gran o ∨ hbmKey c l.gran o + 64 ≤ k) → readByte t.hbm k = readByte s.hbm k
      Answers (.hbmWrite dpa data poison) s (fun t =>
        readBytes t.hbm key 64 = data ∧ others t l.parity
        ∧ (∀ c ∈ l.parity, c ≠ l.ch → readBytes t.hbm (hbmKey c l.gran o) 64
            = xorBytes (xorBytes (readBytes s.hbm (hbmKey c l.gran o) 64) old) data)
        ∧ Answers (.hbmRead dpa 0 false) t fun u =>
            u.busData = leNat data ∧ u.busPoison = (poison || granBit s (granKey l.ch l.gran)))
      ∧ ((regionOf s l.r).kind = 2 → exactAdder s dpa 64 = false →
          Answers (.adderWrite dpa data poison) s fun t =>
            readBytes t.hbm key 64 = (addWord (regionOf s l.r).addFmt old data).1 ∧ others t none
            ∧ ((addWord (regionOf s l.r).addFmt old data).2 = true → getF t Reg.MEM_ERR 3 3 = 1))
      ∧ (∀ corr, Answers (.hbmRead dpa corr true) s fun t =>
          t.busPoison = true ∧ t.hbm = s.hbm ∧ getF t (chReg Reg.MEM_CH_ECC l.ch) 16 16 = 1)

/-- R225: the place of a byte of a channel-local granule: pseudo-channel, bank group, bank, SID, row and burst are the fields of
the granule's number and of the offset, each within its width, and together with the byte of the word they give granule and
offset back, so no two bytes of a channel share a place. -/
def Claims.HbmCells : Prop :=
  ∀ (gran o : Nat), gran < 2 ^ 19 → o < 4096 →
    let x := hbmCell gran o
    x.at = (gran, o)
    ∧ x.row = gran / 32 ∧ x.row < 2 ^ 14 ∧ x.sid = gran / 8 % 4 ∧ x.bank = gran / 2 % 4
    ∧ x.bankGroup = 2 * (gran % 2) + o / 2048 ∧ x.pc = o / 64 % 2 ∧ x.column = 2 * (o / 128 % 16) + o / 32 % 2
    ∧ ∀ gran' o', gran' < 2 ^ 19 → o' < 4096 → hbmCell gran' o' = x → gran' = gran ∧ o' = o

/-- R228, R230: REBUILD_STRIPE forms the next granule of a returned channel as the exclusive-OR of the other channels of its
group at the same granule; with the last stripe the region is normal again. Without a rebuild in progress nothing changes. -/
def Claims.RebuildStripes : Prop :=
  ∀ (s : State) (r : Nat), r < 64 →
    let g := regionOf s r
    let q := look 0 s.regBuilt r
    Answers (.rebuildStripe r) s fun t =>
      (getF s (regOff Reg.MEM_REG_STATUS r) 2 2 = 0 → t = s)
      ∧ (getF s (regOff Reg.MEM_REG_STATUS r) 2 2 = 1 →
          (∀ ch, look [] s.regFailed r = [ch] →
            readBytes t.hbm (hbmKey ch (g.chBase + q) 0) 4096 =
              ((mapChannels (look [] s.regGone r) (ch / 16)).filter (· ≠ ch)).foldl
                (fun a c => xorBytes a (readBytes s.hbm (hbmKey c (g.chBase + q) 0) 4096)) (List.replicate 4096 0))
          ∧ (q + 1 < g.q → look 0 t.regBuilt r = q + 1 ∧ look [] t.regFailed r = look [] s.regFailed r)
          ∧ (g.q ≤ q + 1 → look 0 t.regBuilt r = 0 ∧ look [] t.regFailed r = [] ∧ regState t r = 0
              ∧ getF t Reg.MEM_CMD_STATUS 3 0 = 2))

/-- R228, R229, R231 to R236, R240, R246: refresh slots take time; calibration slots are performed and counted, and their burst
shows in STATE; outside a table's schedule they come only on channels that no table binds; a slot of a channel that two tables
bind is off-schedule; a hot stack beside a table without hot slots is recorded; a stack
report gives temperature and class with 3 °C of hysteresis; a channel that fails stays failed, and the regions that use it
know it. -/
def Claims.ChannelEvents : Prop :=
  ∀ (s : State) (ch st temp time : Nat), ch < 256 → st < 8 → temp < 256 →
    let cal := chReg Reg.MEM_CH_CAL ch
    let stk := stkReg Reg.MEM_STK_STATUS st
    let now := fun (t : State) => t.ftc = Nat.max s.ftc time
    let counted := fun (t : State) =>
      (getReg t cal).toNat = Nat.min 0xFFFFFFFF ((getReg s cal).toNat + 1) ∧ (chState s ch = 1 → chShown t ch = 2)
    let own := stkReg Reg.MEM_STK_STATUS (ch / 32)
    let shared := fun (t : State) => tablesShare s ch = true → getF t own 10 10 = 1
    let more := if tablesShare s ch then [own] else []
    Answers (.refreshSlot ch time) s (fun t => now t ∧ shared t ∧ OnlyRegs { s with ftc := t.ftc } t more)
    ∧ Answers (.calibrationSlot ch time) s (fun t =>
        now t ∧ counted t ∧ shared t ∧ OnlyRegs { s with ftc := t.ftc, calEnd := t.calEnd } t (cal :: more))
    ∧ Answers (.opportunisticCalibration ch time) s (fun t =>
        now t ∧ if tableBinds s ch then t = { s with ftc := t.ftc }
          else counted t ∧ OnlyRegs { s with ftc := t.ftc, calEnd := t.calEnd } t [cal])
    ∧ Answers (.offScheduleRefresh st) s (fun t =>
        if coldTable s st = true ∧ 1 ≤ getF s stk 9 8 then OnlyRegs s t [stk] ∧ getF t stk 10 10 = 1 else t = s)
    ∧ Answers (.stackTempReport st temp time) s (fun t =>
        let old := getF s stk 9 8
        let cls := if 95 ≤ temp ∨ old = 2 ∧ 92 ≤ temp then 2 else if 85 ≤ temp ∨ 1 ≤ old ∧ 82 ≤ temp then 1 else 0
        now t ∧ OnlyRegs { s with ftc := t.ftc } t [stk] ∧ getF t stk 7 0 = temp ∧ getF t stk 9 8 = cls)
    ∧ ∀ fabric, Answers (.channelFail ch fabric) s (fun t =>
        chState t ch = 3 ∧ t.hbm = s.hbm
        ∧ (chState s ch = 3 → fabric = false → t = s)
        ∧ (fabric = true → ch / 64 ∈ t.deadDies)
        ∧ (chState s ch ≠ 3 → ∀ r, r < 64 → (regionOf s r).valid = true → ch ∈ regChannels s r →
            ch ∈ look [] t.regFailed r))

/-- R350, R352: a BAR4 read of a function on the port of its context returns the bytes under its window where they lie in
regions of the context, and all ones otherwise, with AVF_ERR bit 0; a write outside them is discarded. -/
def Claims.Bar4Accesses : Prop :=
  ∀ (s : State) (p f off len : Nat) (bs : List (BitVec 8)) (ep : Bool), accReady s (.host p f) = true →
    let dpa := getReg64 s (perCtx Reg.AVF_CTX_BAR4 0x1000 f) + off
    let own := dpaOwned (len / 4096 + 3) s f dpa len
    (portOf s f = p → own = true →
      Answers (.bar4Access (.host p f) off len none) s (fun t =>
        t = { s with busData := t.busData, busPoison := t.busPoison }
        ∧ t.busData = leNat (readDpa (len + 1) s dpa len).1 ∧ t.busPoison = (readDpa (len + 1) s dpa len).2.any id)
      ∧ (bs.length = len →
          Answers (.bar4Access (.host p f) off len (some (bs, ep))) s fun t =>
            exec (.hbmWrite dpa bs ep) s = .next t))
    ∧ (portOf s f ≠ p ∨ own = false →
        Answers (.bar4Access (.host p f) off len none) s (fun t =>
          OnlyRegs { s with busData := 2 ^ (8 * len) - 1, busPoison := false } t [Reg.AVF_ERR]
          ∧ getF t Reg.AVF_ERR 0 0 = 1)
        ∧ Answers (.bar4Access (.host p f) off len (some (bs, ep))) s (fun t =>
            OnlyRegs s t [Reg.AVF_ERR] ∧ getF t Reg.AVF_ERR 0 0 = 1))

/-! ### The Avfer host interface (R243, R244, R348 to R374) -/

/-- R350, R356: a doorbell of the function of a context, through the port the context is bound to, moves the tail of an opened
pair's SQ, or frees the entries of its CQ; through the other port, or beyond the ring, it does nothing. -/
def Claims.Doorbells : Prop :=
  ∀ (s : State) (p f q : Nat) (v : BitVec 32), q < 16 → f < 16 →
    let i := fld v 15 0
    let x := pairOf s f q
    let none' := fun (t : State) => t = s
    let one := fun (t : State) (y : Pair) => t = { s with pairs := t.pairs } ∧ pairOf t f q = y
      ∧ ∀ d r, d < 16 → r < 16 → (d, r) ≠ (f, q) → pairOf t d r = pairOf s d r
    (accReady s (.host p f) = false ∨ portOf s f ≠ p →
      Answers (.sqTailDoorbell (.host p f) q v) s none' ∧ Answers (.cqHeadDoorbell (.host p f) q v) s none')
    ∧ (accReady s (.host p f) = true → portOf s f = p →
        Answers (.sqTailDoorbell (.host p f) q v) s (fun t =>
          if x.opened = true ∧ i < sqSize s f q then one t { x with sqTail := i } else t = s)
        ∧ (cqWaiting s f q = 0 → Answers (.cqHeadDoorbell (.host p f) q v) s fun t =>
            if x.opened = true ∧ i < cqSize s f q then
              one t { x with cqUsed := Nat.min x.cqUsed ((x.cqTail + cqSize s f q - i) % cqSize s f q) }
            else t = s))

/-- R355, R368, R370: AVF_Qq_CTRL. Enabling a pair whose set-up holds clears its indices and doorbells, and sets AVF_ERR.CFG
where it does not hold; disabling a pair ends its transfers, waits and copies with status 4; PAUSE is kept; clearing it
begins the replay from REPLAY on, and sets REPLAY_LOST where the journal no longer holds it. -/
def Claims.QueueControl : Prop :=
  ∀ (s : State) (a : Acc) (c q : Nat) (v : BitVec 32), c < 16 → q < 16 →
    regOpen s a (pairReg Reg.AVF_Q_CTRL c q) = true →
    let off := pairReg Reg.AVF_Q_CTRL c q
    let x := pairOf s c q
    (pairOn s c q = false → pairPaused s c q = false →
      Answers (.queueEnable a c q v) s fun t =>
        if enableOkPair s a c q then
          getReg t off = (v ||| 1) &&& 0x1FFF ∧ (∀ o, o ≠ off → getReg t o = getReg s o)
          ∧ t = { s with regs := t.regs, pairs := t.pairs }
          ∧ pairOf t c q = { x with opened := true, sqHead := 0, sqTail := 0, cqTail := 0, cqUsed := 0, replay := none,
                                    cqLast := pairNum s Reg.AVF_Q_CSEQ c q }
          ∧ ∀ d r, d < 16 → r < 16 → (d, r) ≠ (c, q) → pairOf t d r = pairOf s d r
        else OnlyRegs s t [Reg.AVF_ERR] ∧ getF t Reg.AVF_ERR 1 1 = 1)
    ∧ Answers (.queueDisable a c q v) s (fun t =>
        pairOn t c q = false
        ∧ (pairOn s c q = true → ∀ y ∈ s.cmds, y.c = c → y.q = q →
            (y.f 0 1 = 5 ∨ y.f 0 1 = 7 ∨ y.f 0 1 = 3 ∧ y.fault = none) →
            y ∉ t.cmds ∧ doneComp s y 4 0 (if y.f 0 1 = 5 then 0 else y.count) ∈ t.comps))
    ∧ (pairOn s c q = true → v.getLsbD 0 = true →
        Answers (.queuePause a c q v) s (fun t => OnlyRegs s t [off] ∧ getReg t off = (v ||| 2) &&& 0x1FFF)
        ∧ (pairPaused s c q = true → Answers (.queueResume a c q v) s fun t =>
            let last := pairNum s Reg.AVF_Q_CSEQ c q
            let want := seqDist (pairNum s Reg.AVF_Q_REPLAY c q) ((last + 1) % 2 ^ 32)
            let lost := decide (x.jcount < want ∧ want < 2 ^ 31)
            let k := if lost then x.jcount else if want ≤ x.jcount then want else 0
            getReg t off = (v &&& 0xFFFFFFFD) &&& 0x1FFF
            ∧ getF t (pairReg Reg.AVF_Q_STATUS c q) 3 3 = (if lost then 1 else getF s (pairReg Reg.AVF_Q_STATUS c q) 3 3)
            ∧ (cqSize s c q ≤ x.cqUsed →
                pairOf t c q = { x with cqLast := (last + 2 ^ 32 - k) % 2 ^ 32, replay := if k = 0 then none else some last })))

/-- R357 to R361, R370: the next entry of an SQ is fetched. From a disabled pair it completes with status 3, out of sequence
with status 2 and SEQ_GAP, and with an undefined opcode or version, after its acceptance, with status 1; else it is
accepted and waits. R359, R367: a completion takes the next CSEQ and is written to its journal slot and, where its pair
writes to the CQ and has room, to the CQ, with the CQ's interrupt unless the command asked for none. -/
def Obligations.FetchAndComplete : Prop :=
  ∀ (s : State) (c q : Nat), c < 16 → q < 16 →
    let p := pairOf s c q
    (canFetch s c q = false → Answers (.commandFetch c q) s fun t => t = s)
    ∧ (canFetch s c q = true →
        let raw := readBytes s.hostMem (getReg64 s (pairReg Reg.AVF_Q_SQ_BASE c q) + 64 * p.sqHead) 64
        let x : AvCmd := ⟨s.cmdNo, c, q, raw, false, s.ftc, 0, none, false⟩
        Answers (.commandFetch c q) s fun t =>
          pairOf t c q = { p with sqHead := (p.sqHead + 1) % sqSize s c q }
          ∧ (if pairOn s c q = false then t.comps = s.comps ++ [doneComp s x 3 0 0] ∧ t.cmds = s.cmds ∧ t.regs = s.regs
             else if x.f 4 4 ≠ pairNum s Reg.AVF_Q_SEQ_NEXT c q then
               t.comps = s.comps ++ [doneComp s x 2 0 0] ∧ t.cmds = s.cmds ∧ getF t (pairReg Reg.AVF_Q_STATUS c q) 4 4 = 1
               ∧ OnlyRegs { s with pairs := t.pairs, comps := t.comps } t [pairReg Reg.AVF_Q_STATUS c q]
             else pairNum t Reg.AVF_Q_ACCEPTED c q = x.f 4 4
               ∧ pairNum t Reg.AVF_Q_SEQ_NEXT c q = (x.f 4 4 + 1) % 2 ^ 32
               ∧ if opDefined (x.f 0 1) = false ∨ x.f 2 1 ≠ 1 then
                   t.comps = s.comps ++ [doneComp s x 1 0 0] ∧ t.cmds = s.cmds
                 else t.comps = s.comps ∧ t.cmds = s.cmds ++ [x] ∧ t.cmdNo = s.cmdNo + 1))
    ∧ (∀ x, s.comps.find? (fun x => x.c = c && x.q = q) = some x →
        let cseq := (pairNum s Reg.AVF_Q_CSEQ c q + 1) % 2 ^ 32
        plainAt s (jrnlSlot s c q cseq) = true → p.cqLast = pairNum s Reg.AVF_Q_CSEQ c q → p.replay = none →
        p.cqUsed < cqSize s c q → cseq ∉ p.quiet →
        Answers (.completionWrite c q) s fun t =>
          pairNum t Reg.AVF_Q_CSEQ c q = cseq ∧ t.comps = s.comps.erase x
          ∧ (readDpa 65 t (jrnlSlot s c q cseq) 64).1 = compBytes x cseq
          ∧ (pairOf t c q).jcount = Nat.min 4096 (p.jcount + 1)
          ∧ if journalOnly s c q then t.hostMem = s.hostMem ∧ t.out = s.out
            else readBytes t.hostMem (getReg64 s (pairReg Reg.AVF_Q_CQ_BASE c q) + 64 * p.cqTail) 64 = compBytes x cseq
              ∧ (pairOf t c q).cqTail = (p.cqTail + 1) % cqSize s c q ∧ (pairOf t c q).cqUsed = p.cqUsed + 1
              ∧ t.out = s.out ++ (if x.noIrq then []
                  else [.msix (portOf s c) c (getF s (pairReg Reg.AVF_Q_CTRL c q) 12 2)]))
    ∧ (s.comps.find? (fun x => x.c = c && x.q = q) = none → Answers (.completionWrite c q) s fun t => t = s)

/-- R353, R370, R371, R374: clearing Bus Master Enable stops the function's pairs and no other's; setting it changes nothing
else; a function-level reset ends the program, clears enables, ring bases and doorbells and the BAR4 window, and keeps
numbers and journal; CLUSTERS and BIND take their values where the rules allow, and set AVF_ERR.CFG where not. -/
def Obligations.FunctionControl : Prop :=
  ∀ (s : State) (a : Acc) (c : Nat) (m : BitVec 64) (v : BitVec 32), c < 16 →
    Answers (.busMasterDisable c) s (fun t =>
      c ∈ t.bmeOff
      ∧ (∀ q, q < 16 → pairOn t c q = false ∧ (pairOf t c q).cqLast = pairNum s Reg.AVF_Q_CSEQ c q
          ∧ (pairOf t c q).replay = none ∧ (pairOf t c q).sqHead = (pairOf s c q).sqHead)
      ∧ (∀ d q, d < 16 → q < 16 → d ≠ c → pairOn t d q = pairOn s d q ∧ pairOf t d q = pairOf s d q))
    ∧ Answers (.busMasterEnable c) s (fun t => t = { s with bmeOff := t.bmeOff } ∧ ∀ d, d ∈ t.bmeOff ↔ d ∈ s.bmeOff ∧ d ≠ c)
    ∧ Answers (.functionLevelReset c) s (fun t =>
        (ctxOf t c).loaded = false ∧ (ctxOf t c).locked = false ∧ getReg64 t (perCtx Reg.AVF_CTX_BAR4 0x1000 c) = 0
        ∧ (∀ q, q < 16 → pairOn t c q = false ∧ pairPaused t c q = false
            ∧ pairOf t c q = { Pair.reset with jcount := (pairOf s c q).jcount, quiet := (pairOf s c q).quiet,
                                               cqLast := pairNum s Reg.AVF_Q_CSEQ c q }
            ∧ getReg64 t (pairReg Reg.AVF_Q_SQ_BASE c q) = 0 ∧ getReg64 t (pairReg Reg.AVF_Q_CQ_BASE c q) = 0
            ∧ pairNum t Reg.AVF_Q_CSEQ c q = pairNum s Reg.AVF_Q_CSEQ c q
            ∧ pairNum t Reg.AVF_Q_SEQ_NEXT c q = pairNum s Reg.AVF_Q_SEQ_NEXT c q))
    ∧ (let off := perCtx Reg.AVF_CTX_CLUSTERS 0x1000 c
       regOpen s a off = true → (ctxOf s c).locked = false →
       Answers (.clustersWrite a c m) s fun t =>
        if isOwner a = true ∧ (ctxOf s c).loaded = false ∧ (m.toNat % 2 ^ 48) &&& othersMask s c = 0 then
          OnlyRegs s t [off, off + 4] ∧ clusterMask t c = m.toNat % 2 ^ 48
        else OnlyRegs s t [Reg.AVF_ERR] ∧ getF t Reg.AVF_ERR 1 1 = 1)
    ∧ (let off := perCtx Reg.AVF_CTX_BIND 0x1000 c
       regOpen s a off = true →
       Answers (.contextBindWrite a c v) s fun t =>
        if (ctxOf s c).locked then t = { s with reports := s.reports ++ [⟨2, 0x29, 0, some c, 0, off, s.ftc⟩] }
        else if (List.range 16).any (pairOn s c) = true ∨ v.getLsbD 0 = true ∧ cxlRole s = true then
          OnlyRegs s t [Reg.AVF_ERR] ∧ getF t Reg.AVF_ERR 1 1 = 1
        else OnlyRegs s t [off] ∧ getReg t off = v &&& 1)

/-- R357, R361, R362, R198: NOP completes with status 0. TALLY_SIGNAL of a count of 0 completes with 1, of an identifier that
names nothing with 0x0B; else it signals and completes. TALLY_WAIT of a satisfied tally takes its count and completes, else
it waits behind the tally; its limit ends it with 0x0E. RIB_REQ in the ribbon's context joins its queue, in the order of
acceptance. (That the
waits behind one that ends are served at once is the model's reading, log entry 110.) -/
def Obligations.HostCommands : Prop :=
  ∀ (s : State) (c q seq time : Nat) (x : AvCmd), c < 16 → q < 16 → (s.cmds.map (·.no)).Nodup → x ∈ s.cmds →
    (readyCmd s c q = some x → x.f 0 1 = 0 → Answers (.nop c q) s fun t =>
      Finished s t x 0 0 0 ∧ t = { s with cmds := t.cmds, comps := t.comps })
    ∧ (readyCmd s c q = some x → x.f 0 1 = 4 → Answers (.tallySignal c q) s fun t =>
        if x.f 0x14 2 = 0 then Finished s t x 1 0 0
        else match resolveTid s c none (x.f 0x10 4 % 2 ^ 20) false with
          | none => Finished s t x 0x0B 0 0
          | some d => Finished s t x 0 0 0 ∧ (s.heldHub = [] → (∀ y ∈ s.cmds, y.f 0 1 ≠ 3) →
              t = { emit s ⟨d, x.f 0x14 2, c, (ctxOf s c).gen, 0⟩ with cmds := t.cmds, comps := t.comps }))
    ∧ (∀ tal, readyCmd s c q = some x → x.f 0 1 = 5 →
        resolveTid s c none (x.f 0x10 4 % 2 ^ 20) true = some (.here tal) → (s.waits.all fun w => w.tal != tal) = true →
        Answers (.tallyWait c q) s fun t =>
          if x.f 0x14 2 ≤ (talOf s tal).count then
            Finished s t x 0 0 0 ∧ t.waits = s.waits ∧ (talOf t tal).count = (talOf s tal).count - x.f 0x14 2
          else t.waits = s.waits ++ [⟨tal, hostWho x, x.f 0x14 2, false⟩] ∧ t.comps = s.comps ∧ talOf t tal = talOf s tal)
    ∧ (runningCmd s c q seq 5 = some x → Answers (.tallyWaitTimeout c q seq time) s fun t =>
        let u := atTime s time
        if x.f 0x16 2 ≠ 0 ∧ 1000000 * x.f 0x16 2 ≤ u.ftc - x.since then
          (∀ y ∈ t.cmds, y.no ≠ x.no) ∧ doneComp u x 0x0E 0 0 ∈ t.comps ∧ (∀ w ∈ t.waits, w.who ≠ hostWho x)
          ∧ ((∀ w ∈ s.waits, ∀ v ∈ s.waits, v.who = hostWho x → w.tal = v.tal → w = v) → Finished u t x 0x0E 0 0)
        else t = u)
    ∧ (readyCmd s c q = some x → x.f 0 1 = 6 → Answers (.ribReq c q) s fun t =>
        if c ≠ ribCtx s then Finished s t x 1 0 0
        else if ribState s = 7 then Finished s t x 0x09 0 0
        else t.rib = { s.rib with queue := queueIn (x.no, switching s) s.rib.queue } ∧ t.comps = s.comps)

/-- R98 to R100, R362, R363: an image that fails a check is rejected with its code and changes no nib and no context; one
that passes seals the context, and its nibs are loaded with PC 0. UNLOAD frees the context and power-gates its clusters. -/
def Obligations.LoadAndUnload : Prop :=
  ∀ (s : State) (c q : Nat) (x : AvCmd), c < 16 → q < 16 → readyCmd s c q = some x →
    (x.f 0 1 = 1 → x.f 0x18 1 ≤ 1 →
      (loadSource s x = none → Answers (.load c q) s fun t => Finished s t x 0x0B 0 0)
      ∧ ∀ bs, loadSource s x = some (bs, []) →
        let u := refoldCtx s c
        (loadCode u c bs ≠ 0 → Answers (.load c q) s fun t =>
          Finished s t x 7 (loadCode u c bs) 0 ∧ t.nibs = s.nibs ∧ t.ctxs = s.ctxs ∧ t.hbm = s.hbm)
        ∧ (∀ d plan, loadCode u c bs = 0 → schedOf u c bs = some d → imgPlan u c bs = some plan →
            loadWaits s c bs d = false →
            Answers (.load c q) s fun t =>
              Finished s t x 0 0 0
              ∧ (let k := ctxOf t c
                 k.loaded = true ∧ k.locked = true ∧ k.gen = (ctxOf s c).gen + 1 ∧ k.geom = imgGeom bs
                 ∧ k.packages = imgPackages bs ∧ k.spanNibs = imgSpan bs ∧ k.image = digest "VX1-IMG" bs
                 ∧ k.chain = d.chain ∧ k.plan = plan ∧ k.tmap = (ctxOf s c).tmap)
              ∧ (∀ y ∈ sections bs, y.ty = 1 → ∀ i, i < y.count → ∀ n, nibOfIndex t c (y.first + i) = some n →
                  (nibOf t n).st = 1 ∧ (nibOf t n).pc = 0 ∧ (nibOf t n).clk = 0 ∧ (nibOf t n).hold = none)))
    ∧ (x.f 0 1 = 2 → Answers (.unload c q) s fun t =>
        (ctxOf t c).loaded = false ∧ (ctxOf t c).locked = false ∧ doneComp s x 0 0 0 ∈ t.comps
        ∧ (∀ y ∈ t.cmds, y.no ≠ x.no)
        ∧ ∀ n, ctxOfNib s n = some c → (nibOf t n).well = [] ∧ ((nibOf t n).st = 0 ∨ (nibOf t n).st = 6))

/-- R362, R365, R366: a host transfer. Operands outside R362 end it with status 1, an address or tally outside the context with
0x0B; else it runs, strip by strip: each moves its bytes between the host and the device and counts; the last one ends the
transfer. A strip whose page is absent asks for it, or ends the transfer in Exact Mode; the answer continues the transfer
or ends it with 5, as does the limit. An invalidation completes only where no strip in progress holds its range. -/
def Claims.HostTransfers : Prop :=
  ∀ (s : State) (c q seq time : Nat) (x : AvCmd), c < 16 → q < 16 → (s.cmds.map (·.no)).Nodup → x ∈ s.cmds →
    (readyCmd s c q = some x → x.f 0 1 = 3 → Answers (.hostXfer c q) s fun t =>
      if xferOk x = false then Finished s t x 1 0 0
      else if (x.sigEn = true ∧ resolveTid s c none x.xferTid false = none)
          ∨ (List.range x.total).any (fun k => (stripPlace s x k).isNone) = true then Finished s t x 0x0B 0 0
      else t = { s with cmds := s.cmds.map fun y => if y.no = x.no then { x with started := true, since := s.ftc } else y })
    ∧ (∀ a, runningCmd s c q seq 3 = some x → stripPlace s x x.count = some (.hbm a) → stripFree x = true → x.sigEn = false →
        x.toHost = true →
        Answers (.stripDelivered c q seq []) s fun t =>
          t.hostMem = writeBytes s.hostMem (stripHost x x.count) (readPlace s (.hbm a) x.row).1 ∧ t.hbm = s.hbm
          ∧ (x.count + 1 = x.total → x.poison = false → (∀ p ∈ (readPlace s (.hbm a) x.row).2, p = false) →
              Finished s t x 0 0 x.total)
          ∧ (x.count + 1 < x.total → x.fault = none → t.comps = s.comps ∧ ∃ y ∈ t.cmds, y.no = x.no ∧ y.count = x.count + 1))
    ∧ (∀ k, runningCmd s c q seq 3 = some x → x.fault = none → x.count ≤ k → k < x.total →
        Answers (.pageFault c q seq k true) s (fun t =>
          if x.count = k then Finished s t x 5 0 k else t.comps = s.comps)
        ∧ (exactMode s c = false → Answers (.pageFault c q seq k false) s fun t =>
            t.comps = s.comps ∧ t.out = s.out ++ [.packet "PAGE_REQUEST" (portOf s c) [c, q, seq, stripHost x k]]
            ∧ ∃ y ∈ t.cmds, y.no = x.no ∧ y.fault = some (k, .asked s.ftc) ∧ y.count = x.count)
        ∧ (exactMode s c = true → x.count = k → Answers (.pageFault c q seq k false) s fun t => Finished s t x 6 0 k))
    ∧ (∀ k since, runningCmd s c q seq 3 = some x → x.fault = some (k, .asked since) → x.count < x.total →
        Answers (.pageRequestResponse c q seq true) s (fun t =>
          t = { s with cmds := s.cmds.map fun y => if y.no = x.no then { x with fault := none } else y })
        ∧ (x.count = k → Answers (.pageRequestResponse c q seq false) s fun t => Finished s t x 5 0 k)
        ∧ Answers (.priTimeout c q seq time) s (fun t =>
            let u := atTime s time
            if u.ftc - since < 1000000 * Nat.max 1 (getF s Reg.AVF_PRI_TIMEOUT 15 0) then t = u
            else getF t Reg.AVF_ERR 2 2 = 1 ∧ (x.count = k → Finished u t x 5 0 k)))
    ∧ (∀ port iova len, port < 2 → Answers (.atsInvalidation port iova len) s fun t =>
        if s.cmds.any (fun y => portOf s y.c = port && holdsRange y iova len) then t = s
        else t = { s with out := s.out ++ [.packet "ATS_INVALIDATION_DONE" port [iova, len]] })

/-- R243, R244, R362: a tier copy ends at once with status 1, 0x0B or 0x0A where its operands, its addresses or the link do not
allow it; a unit that lands moves 4 KiB; the last one ends the copy. When the link goes down the copies in flight end with
0x0A and what has landed stays. -/
def Claims.TierCopies : Prop :=
  ∀ (s : State) (c q seq : Nat) (x : AvCmd), c < 16 → q < 16 → (s.cmds.map (·.no)).Nodup → x ∈ s.cmds →
    let dpa := x.f 0x10 8
    let fpa := x.f 0x18 8
    (readyCmd s c q = some x → x.f 0 1 = 7 → Answers (.tierCopy c q) s fun t =>
      if cxlRole s = false ∨ portOf s c ≠ 0 ∨ dpa % 4096 ≠ 0 ∨ fpa % 4096 ≠ 0 ∨ x.len % 4096 ≠ 0 ∨ 1 < x.f 0x28 1 then
        Finished s t x 1 0 0
      else if resolveTid s c none (x.f 0x2C 4 % 2 ^ 20) false = none ∨ 2 ^ 30 * getF s Reg.MEM_FAR_SIZE 12 0 < fpa + x.len
          ∨ Config.hbmBytes < x.len ∨ farGranted s c fpa x.len = false ∨ dpaOwned (x.len / 4096 + 1) s c dpa x.len = false then Finished s t x 0x0B 0 0
      else if getF s Reg.MEM_FAR_STATUS 1 1 = 0 then Finished s t x 0x0A 0 0
      else t.comps = s.comps ∧ t.hbm = s.hbm ∧ t.farMem = s.farMem)
    ∧ (runningCmd s c q seq 7 = some x → x.f 0x28 1 = 1 → x.count % 4096 = 0 → x.count + 4096 < x.len →
        Answers (.tierCopyComplete c q seq 1) s fun t =>
          t.farMem = writeBytes s.farMem (fpa + x.count) (readDpa 4097 s (dpa + x.count) 4096).1 ∧ t.hbm = s.hbm
          ∧ t.comps = s.comps ∧ ∃ y ∈ t.cmds, y.no = x.no ∧ y.count = x.count + 4096)
    ∧ (runningCmd s c q seq 7 = some x → x.f 0x28 1 = 1 → x.poison = false → x.count % 4096 = 0 → x.count + 4096 = x.len →
        (∀ p ∈ (readDpa 4097 s (dpa + x.count) 4096).2, p = false) →
        Answers (.tierCopyComplete c q seq 1) s fun t => Finished s t x 0 0 x.len)
    ∧ Answers .cxlLinkDown s (fun t =>
        getF t Reg.MEM_FAR_STATUS 1 1 = 0 ∧ getF t Reg.MEM_ERR 4 4 = 1 ∧ t.hbm = s.hbm ∧ t.farMem = s.farMem
        ∧ (x.f 0 1 = 7 → x.started = true → x ∉ t.cmds ∧ doneComp s x 0x0A 0 x.count ∈ t.comps))

/-! ### The weight ribbon (R182 to R219, R364, R450) -/

/-- R183, R191, R194, R201, R203, R204, R207, R208, R218, R219: the commands of RIB_CMD. A refused one gives its CMD_RESULT and
sets RIB_ERR.CMD. FORM from IDLE sends the mark and the digest of the active set both ways; START and RESUME at the lead run
the ribbon; STOP lets it stop; ESTOP stops every nib of the context; SWITCH fixes policy and lap, and in resident mode waits for
the nibs of the context; RELEASE ends the ribbon. (The messages of a FORM leave in the order given, and the resident switch
waits for every nib: the model's choices, log entries 62 and 132 among them.) -/
def Claims.RibbonCommands : Prop :=
  ∀ (s : State) (a : Acc) (ready : Bool) (policy : BitVec 2), regOpen s a Reg.RIB_CMD = true →
    let st := ribState s
    let result := fun (t : State) (v : Nat) => getF t Reg.RIB_STATUS 7 4 = v
    let refused := fun (t : State) (v : Nat) =>
      result t v ∧ getF t Reg.RIB_ERR 10 10 = 1 ∧ OnlyRegs s t [Reg.RIB_STATUS, Reg.RIB_ERR]
    Answers (.form a) s (fun t =>
      if st ≠ 0 ∨ s.rib.forming ≠ none ∨ residentRib s = true then refused t 1
      else if ribN s = 0 ∨ 64 < ribN s ∨ ribN s ≤ ribPos s then
        result t 3 ∧ ribState t = 0 ∧ getF t Reg.RIB_ERR 0 0 = 1 ∧ t.rib.forming = none ∧ t.out = s.out
      else 2 ≤ ribN s → s.rib.formFrom = [] → s.rib.digs = [] →
        let form := (markBytes 4 (ownMark s) (markTail (ownMark s))).map (·.toNat)
        let chk := (markBytes 5 { ownMark s with set := activeSet s } (natLE 16 (setDigest s (activeSet s)).toNat)).map (·.toNat)
        result t 0 ∧ ribState t = 0 ∧ t.rib.forming = some s.ftc
        ∧ t.out = s.out ++ [.ring "FORM" false form, .ring "FORM" true form, .ring "DIRCHK" false chk, .ring "DIRCHK" true chk])
    ∧ Answers (.start a) s (fun t =>
        if isLead s = false then refused t 2
        else if st ≠ 1 ∧ st ≠ 4 then refused t 1
        else if (setEntries s (activeSet s)).any (fun x => !(dirEntry s x).verified) = true then refused t 4
        else if layoutAgrees s = false then refused t 5
        else result t 0 ∧ ribState t = 2 ∧ (s.rib.begun < s.rib.closed + 8 → t.rib.begun = s.rib.begun + 1))
    ∧ Answers (.stop a) s (fun t =>
        if isLead s = false then refused t 2
        else if st ≠ 2 then refused t 1
        else result t 0 ∧ ribState t = 3 ∧ t.rib = { s.rib with stopping := true } ∧ OnlyRegs { s with rib := t.rib } t [Reg.RIB_STATUS])
    ∧ Answers (.estop a) s (fun t =>
        if st = 0 ∨ 4 < st then refused t 1
        else result t 0 ∧ ribState t = 5 ∧ getF t Reg.RIB_ERR 9 9 = 1
          ∧ ∀ n ∈ jobNibs s (ribCtx s), (nibOf s n).st = 1 ∨ (nibOf s n).st = 2 → (nibOf t n).st = 5)
    ∧ Answers (.resume a ready) s (fun t =>
        if isLead s = false then refused t 2
        else if st ≠ 5 ∨ ready = false then refused t 1
        else result t 0 ∧ ribState t = 2)
    ∧ Answers (.switch a policy) s (fun t =>
        (residentRib s = true →
          if policy ≠ 2 then refused t 1
          else if switching s = true then refused t 6
          else if shadowVerified s = false then refused t 4
          else jobNibs s (ribCtx s) ≠ [] →
            result t 0 ∧ switchState t = 2 ∧ switchPolicy t = 2 ∧ t.rib.awaiting = jobNibs s (ribCtx s)
              ∧ ∀ n ∈ jobNibs s (ribCtx s), nibSet t n = activeSet s)
        ∧ (residentRib s = false →
        if policy = 3 ∨ st = 0 ∨ 4 < st then refused t 1
        else if isLead s = false then refused t 2
        else if switching s = true then refused t 6
        else if shadowVerified s = false then refused t 4
        else result t 0 ∧ switchState t = 1 ∧ switchPolicy t = policy.toNat
          ∧ (getReg t Reg.RIB_SWITCH_LAP).toNat = s.rib.begun % 2 ^ 32 ∧ ribState t = st))
    ∧ Answers (.release a) s (fun t =>
        if st ≠ 4 ∧ st ≠ 5 ∧ st ≠ 7 then refused t 1
        else result t 0 ∧ ribState t = 0 ∧ t.rib = { Rib.reset with queue := s.rib.queue } ∧ t.landing = []
          ∧ ∀ p, p ∈ t.locks ↔ p ∈ s.locks ∧ ∀ x, p.1 ≠ .entry x)

/-- R218: during a switch in resident mode a nib that has waited on the admission tally takes the new set and the others stay with
theirs; with the last one the sets exchange roles. (That they exchange then is the model's reading, log entry 62.) -/
def Claims.ResidentSwitch : Prop :=
  ∀ (s : State) (n : Nat), n ∈ s.rib.awaiting →
    let t := onNewSet s [n]
    ((∃ m ∈ s.rib.awaiting, m ≠ n) →
      nibSet t n = 1 - activeSet s ∧ activeSet t = activeSet s ∧ (∀ m, m ≠ n → nibSet t m = nibSet s m)
      ∧ t = { s with rib := t.rib })
    ∧ ((∀ m ∈ s.rib.awaiting, m = n) → activeSet t = 1 - activeSet s ∧ t.rib.awaiting = [] ∧ switchState t = 3)

/-- R183, R191, R194, R201, R203, R214 to R217, R450: what arrives at a member or times out. A FORM mark that is not the
neighbour's ends the forming, the last fitting one accepts the ribbon; 10 s end it; a digest is kept and passed on; an
emergency stop stops the member; the second STOP mark stops it; heartbeats; a hop silent for too long, a member that fails,
and the closure of the ring around it. -/
def Obligations.RibbonEvents : Prop :=
  ∀ (s : State) (ccw joined : Bool) (ribbon pos port set time f : Nat) (dig : BitVec 128) (m : MarkIn),
    let st := ribState s
    let planned := ringHop s ccw port
    let mark := fun (kind : Nat) (k : Mark) (tail : List Byte) => (markBytes kind k tail).map (·.toNat)
    let want := decide ((ribbon, pos, planned) = (getF s Reg.RIB_SHAPE 31 16, ribNext s (ribPos s) (!ccw), true))
    let r' := { s.rib with formFrom := s.rib.formFrom ++ [(ccw, ribbon, pos, planned, s.ftc)] }
    Answers (.formMarkReceive ccw ribbon pos port) s (fun t =>
      (st ≠ 0 → t = s)
      ∧ (st = 0 → s.rib.forming = none → t = { s with rib := r' })
      ∧ (st = 0 → s.rib.forming ≠ none → digsDiffer s (activeSet s) = false → want = false →
          ribState t = 0 ∧ t.rib.forming = none ∧ getF t Reg.RIB_STATUS 7 4 = 3 ∧ getF t Reg.RIB_ERR 0 0 = 1)
      ∧ (st = 0 → s.rib.forming ≠ none → digsDiffer s (activeSet s) = false → want = true →
          formMark s (!ccw) = some true → digsAgree s (activeSet s) = true →
          ribState t = 1 ∧ t.rib.forming = none ∧ t.rib.begun = 0 ∧ t.rib.queue = s.rib.queue))
    ∧ Answers (.formTimeout time) s (fun t =>
        let u := atTime s time
        match s.rib.forming with
        | some since => if 10000000000 ≤ u.ftc - since then t.rib.forming = none ∧ getF t Reg.RIB_STATUS 7 4 = 3 else t = u
        | none => t = u)
    ∧ (s.rib.forming = none → Answers (.dirchkReceive ccw pos set dig) s fun t =>
        t.rib = { s.rib with digs := (s.rib.digs.filter fun d => !(d.1 = set && d.2.1 = pos)) ++ [(set, pos, dig)] }
        ∧ t.out = s.out ++ (if 1 < ribN s ∧ ribNext s (ribPos s) ccw ≠ pos then
            [.ring "DIRCHK" ccw (mark 5
              { ownMark s with set := set, origin := pos
                               hops := (if ccw then pos + ribN s - ribPos s else ribPos s + ribN s - pos) % ribN s }
              (natLE 16 dig.toNat))] else []))
    ∧ Answers .estopReceive s (fun t =>
        if ribLive s then ribState t = 5 ∧ getF t Reg.RIB_ERR 9 9 = 1
          ∧ ∀ n ∈ jobNibs s (ribCtx s), (nibOf s n).st = 1 ∨ (nibOf s n).st = 2 → (nibOf t n).st = 5
        else t = s)
    ∧ Answers (.stopMarkReceive ccw m) s (fun t =>
        if (st ≠ 2 ∧ st ≠ 3) ∨ m.version ≠ 1 then t = s
        else ribState t = (if m.lap = s.rib.begun ∧ (ribDir s (!ccw)).stopped = some s.rib.begun ∧ s.rib.closed = s.rib.begun
            then 4 else 3)
          ∧ (ribDir t ccw).stopped = some m.lap ∧ (ribDir t ccw).heard = s.ftc)
    ∧ Answers (.heartbeat ccw true) s (fun t =>
        if hopsUsed s then t = { s with rib := t.rib } ∧ ribDir t ccw = { ribDir s ccw with heard := s.ftc }
          ∧ ribDir t (!ccw) = ribDir s (!ccw)
        else t = s)
    ∧ Answers (.heartbeat ccw false) s (fun t =>
        if hopsUsed s then t = { s with out := s.out ++ [.ring "HEARTBEAT" ccw (mark 3 (ownMark s) (markTail (ownMark s)))] }
        else t = s)
    ∧ Answers (.hopTimeout ccw time) s (fun t =>
        let u := atTime s time
        if hopsUsed s = true ∧ 1000 * Nat.max 50 (getF s Reg.RIB_HOP_TIMEOUT 15 0) ≤ u.ftc - (ribDir s ccw).heard then
          getF t Reg.RIB_ERR 6 6 = 1 ∧ (upstream s ccw < 64 → getF t Reg.RIB_ERR_INFO 24 19 = upstream s ccw)
        else t = u)
    ∧ Answers (.memberFailed f) s (fun t =>
        if st = 0 ∨ st = 7 ∨ ribN s ≤ f ∨ s.rib.failed.contains f = true ∨ ribN s ≤ 1 then t = s
        else if f = ribPos s then t.rib.queue = [] ∧ t.rib.live = []
        else ribState t = 6 ∧ t.rib.failed = s.rib.failed ++ [f] ∧ (∀ a, memberAddr s f = some a → a ∈ t.lostPkgs)
          ∧ (ribNext s (ribPos s) false = f ∨ ribNext s (ribPos s) true = f → getF t Reg.RIB_ERR 7 7 = 1))
    ∧ Answers (.ribbonClosure joined) s (fun t =>
        if st ≠ 6 then t = s
        else if blockLost s then ribState t = 7 ∧ getF t Reg.RIB_ERR 8 8 = 1 ∧ t.rib.queue = [] ∧ t.rib.live = []
        else if joined = false then t = s
        else getF s Reg.RIB_CTRL 5 5 = 0 → ribState t = 5 ∧ getF t Reg.RIB_STATUS 15 8 = ribLiveN s % 256)

/-- R190: the 32 bytes of a mark hold its fields at their offsets. -/
def Claims.MarkLayout : Prop :=
  ∀ (kind : Nat) (m : Mark) (dig : BitVec 128),
    let b := markBytes kind m (markTail m)
    let chk := markBytes 5 m (natLE 16 dig.toNat)
    b.length = 32 ∧ chk.length = 32
    ∧ field b 0x00 1 = 1 ∧ field b 0x01 1 = kind % 2 ^ 8 ∧ field b 0x02 2 = m.ribbon % 2 ^ 16 ∧ field b 0x04 4 = m.lap % 2 ^ 32
    ∧ field b 0x08 4 = m.epoch % 2 ^ 32 ∧ field b 0x0C 1 = m.set % 2 ^ 8 ∧ field b 0x0D 1 = m.origin % 2 ^ 8
    ∧ field b 0x0E 2 = m.hops % 2 ^ 16 ∧ field b 0x10 4 = m.liveOld % 2 ^ 32 ∧ field b 0x14 4 = m.minClosed % 2 ^ 32
    ∧ field b 0x18 8 = m.ftc % 2 ^ 64 ∧ field chk 0x10 16 = dig.toNat ∧ chk.take 16 = (markBytes 5 m []).take 16

/-- R185 to R191, R195, R198 to R200, R209: laps and blocks. The lead originates the next mark only once the rules allow it, and a
returned mark that does not fit stops the ribbon (the last hop raises HOPS too: log entry 151); a member keeps a mark and begins
the lap with the second one; a close signal closes the oldest open lap and moves the LIVE counts; a block is launched with its
bytes in its turn, and one that fails a check all the same, with RIB_ERR; a unit is kept where a tag is free, waits with the
upstream member else, and goes on as soon as it has arrived; a block lands after those before it in its slab, and one whose
header or checksum is bad is counted and reported. -/
def Claims.RibbonLaps : Prop :=
  ∀ (s : State) (ccw : Bool) (m : MarkIn) (pos : Nat) (data : List (BitVec 8)) (bad : List Nat),
    let st := ribState s
    let running := st = 2 ∨ st = 3
    let r := s.rib
    Answers .lapMarkOriginate s (fun t =>
      ((isLead s = false ∨ lapSent s = false) → t = s)
      ∧ (st = 2 → (r.returned.contains false = false ∨ r.returned.contains true = false ∨ r.closed + 8 ≤ r.begun) → t = s)
      ∧ (isLead s = true → lapSent s = true → st = 2 → r.returned.contains false = true → r.returned.contains true = true →
          r.begun < r.closed + 8 → t.rib.begun = r.begun + 1 ∧ ribState t = 2))
    ∧ Answers (.lapMarkReturn ccw m) s (fun t =>
        if isLead s = false ∨ (st ≠ 2 ∧ st ≠ 3) ∨ ribLiveN s ≤ 1 ∨ m.version ≠ 1 then t = s
        else if m.ribbon ≠ getF s Reg.RIB_SHAPE 31 16 ∨ m.lap + 1 ≠ r.begun ∨ m.hops + 1 ≠ ribLiveN s then
          ribState t = 5 ∧ getF t Reg.RIB_ERR 5 5 = 1
        else t.rib.report = m.liveOld ∧ ccw ∈ t.rib.returned ∧ (ribDir t ccw).heard = s.ftc ∧ t.rib.begun = r.begun)
    ∧ Answers (.lapMarkReceive ccw m) s (fun t =>
        if isLead s = true ∨ st = 0 ∨ 5 < st ∨ m.version ≠ 1 then t = s
        else st ≠ 5 → if m.lap < (ribDir s ccw).got then t = s
          else (ribDir t ccw).got = m.lap + 1 ∧ (ribDir t ccw).inc = m.lap + 1 ∧ (ribDir t ccw).heard = s.ftc
            ∧ (m.sw = .idle → m.lap = r.begun → (ribDir s (!ccw)).got = m.lap + 1 → r.begun < r.closed + 8 →
                t.rib.begun = r.begun + 1))
    ∧ (∀ tal rec, resolveTid s (ribCtx s) none (getF s Reg.RIB_CLOSE_TALLY 19 0) true = some (.here tal) →
        r.laps.find? (fun y => y.lap = r.closed) = some rec →
        Answers .lapClose s fun t =>
          if (talOf s tal).count = 0 ∨ r.begun ≤ r.closed ∨ ¬running then t = s
          else t.rib.closed = r.closed + 1 ∧ (talOf t tal).count = (talOf s tal).count - 1
            ∧ (switchState s = 0 → ∀ k, k < 2 →
                liveCount t k = (liveCount s k + (rec.entries.filter fun e => e.2 = k).length
                  - field (readDpa 4 s (lapSlot s rec.lap + 0x14) 8).1 (4 * k) 4) % 2 ^ 32))
    ∧ (¬running → Answers (.blockLaunch pos) s (fun t => t = s) ∧ Answers (.slabForward ccw pos data bad) s (fun t => t = s)
        ∧ Answers (.slabLand pos) s (fun t => t = s))
    ∧ (∀ k x, running → (ribDir s false).sent = some k → k.stop = false →
        (sendList s k.set false)[(ribDir s false).n]? = some x →
        let e := dirEntry s x
        let read := readDpa (64 + e.comp + 1) s e.addr (64 + e.comp)
        e.pos = pos → servedBy s e = ribPos s → e.verified = true →
        Answers (.blockLaunch pos) s fun t =>
          (∃ rest, t.out = s.out ++ .ring "BLOCK" false (getF s Reg.RIB_SHAPE 31 16 :: k.lap :: pos :: 0
            :: (badWords read.2).length :: (badWords read.2 ++ read.1.map (·.toNat))) :: rest)
          ∧ (hdrMatches x e read.1 = false → getF t Reg.RIB_ERR 3 3 = 1)
          ∧ (crc64 ((read.1.drop 64).take e.comp) ≠ (hdrOf (read.1.take 64)).crc → getF t Reg.RIB_ERR 4 4 = 1))
    ∧ (∀ set x, running → 1 < ribLiveN s → 0 < (ribDir s ccw).inc → data ≠ [] →
        lapSet s ((ribDir s ccw).inc - 1) = some set → entryAt s set pos = some x →
        let e := dirEntry s x
        let l := (ribDir s ccw).inc - 1
        let d := ribDir s ccw
        let fresh := (d.blks.any fun b => b.lap = l && b.pos = pos) = false
        e.ccw = ccw → servedBy s e ≠ ribPos s → passUnit s ccw = none → d.recv = [] → d.waiting = [] →
        Answers (.slabForward ccw pos data bad) s fun t =>
          (ribDir t ccw).heard = s.ftc
          ∧ (256 ≤ tagsUsed d → t.out = s.out ∧ (ribDir t ccw).waiting = [(l, pos, data.take 16384, bad)]
              ∧ (ribDir t ccw).blks = d.blks)
          ∧ (tagsUsed d < 256 → fresh → ribNext s (ribPos s) ccw = servedBy s e →
              ⟨l, pos, 64 + e.comp, (data.take 16384).take (64 + e.comp), bad, 0, 64 + e.comp⟩ ∈ (ribDir t ccw).blks)
          ∧ (∀ k, tagsUsed d < 256 → fresh → ribNext s (ribPos s) ccw ≠ servedBy s e → d.sent = some k → k.stop = false →
              k.lap = l → (sendList s k.set ccw)[d.n]? = some x → data.length = 16384 → 16384 < 64 + e.comp →
              ∃ rest, t.out = s.out ++ .ring "BLOCK" ccw (getF s Reg.RIB_SHAPE 31 16 :: l :: pos :: 0
                :: (badIn bad 0 16384).length :: (badIn bad 0 16384 ++ data.map (·.toNat))) :: rest))
    ∧ (∀ set x bs ps lo, running → lapSet s r.feedLap = some set → entryAt s set pos = some x →
        blockSource s r.feedLap pos (dirEntry s x) = some (bs, ps, lo) → pos < r.feedNext → r.fed.contains pos = false →
        64 + (dirEntry s x).comp ≤ bs.length →
        (∀ y ∈ lapOrder s set, (dirEntry s y).slab = (dirEntry s x).slab → (dirEntry s y).pos < pos →
          r.fed.contains (dirEntry s y).pos = true) →
        Answers (.slabLand pos) s fun t =>
          (if r.fed.length + 1 < (lapOrder s set).length then t.rib.fed = r.fed ++ [pos] ∧ t.rib.feedLap = r.feedLap
           else t.rib.fed = [] ∧ t.rib.feedLap = r.feedLap + 1)
          ∧ t.hbm = s.hbm
          ∧ (let good := hdrMatches x (dirEntry s x) bs = true
                ∧ crc64 ((bs.drop 64).take (dirEntry s x).comp) = (hdrOf (bs.take 64)).crc
             (good → t.reports = s.reports ∧ t.regs = s.regs)
             ∧ (¬good → s.reports.length < t.reports.length
                  ∧ (getReg t Reg.RIB_POISON_BLOCKS).toNat
                      = Nat.min 0xFFFFFFFF ((getReg s Reg.RIB_POISON_BLOCKS).toNat + 1))))

/-- R193, R194, R206, R219: DIR_READ brings the words of an entry into the window's data. DIR_WRITE stores the window's data as
an entry and no other word of the directory changes; it is refused for an entry of the active set while laps run, and where
the entry's check does not hold. -/
def Claims.DirectoryWindow : Prop :=
  ∀ (s : State) (a : Acc) (v : BitVec 32), regOpen s a Reg.RIB_DIR_INDEX = true →
    let x := fld v 18 0
    let data := (List.range 8).map fun w => Reg.RIB_DIR_DATA + 4 * w
    let e := entryOfBytes (dirData s)
    (v.getLsbD 31 = false → Answers (.dirRead a v) s fun t =>
      OnlyRegs s t (Reg.RIB_DIR_INDEX :: data)
      ∧ ∀ w, w < 8 → getReg t (Reg.RIB_DIR_DATA + 4 * w) = look 0 s.dir (8 * x + w))
    ∧ (v.getLsbD 30 = false → Answers (.dirWrite a v) s fun t =>
        if 2 ≤ ribState s ∧ ribState s ≤ 4 ∧ (dirEntry s x).inSet (activeSet s) = true then
          OnlyRegs s t [Reg.RIB_DIR_INDEX, Reg.RIB_ERR] ∧ getF t Reg.RIB_ERR 10 10 = 1
        else if entryChk (dirData s) ≠ e.chk then t.dir = s.dir ∧ getF t Reg.RIB_ERR 2 2 = 1
        else (∀ w, w < 8 → look 0 t.dir (8 * x + w) = getReg s (Reg.RIB_DIR_DATA + 4 * w))
          ∧ ∀ k, (k < 8 * x ∨ 8 * x + 8 ≤ k) → look 0 t.dir k = look 0 s.dir k)

/-! ### Irram links and the Fabric Time Counter (R272 to R301, R424) -/

/-- R273 to R278, R287, R288, R293: flits. An UP port sends the flit that waits with the next SEQ and its CRC, keeps it for a
replay and takes a credit, VC4 within 39 of 392 slots, and first repeats what a negative acknowledgement asked for; a
quarantined port sends and takes control flits alone. A flit that fails its check is asked for once, and again where it is
the one awaited; a good one in SEQ order and ORDER reaches its unit, its credit goes to the port it came by, or it waits for
its ORDER, or is dropped and counted where its job tag is unknown; a reserved TYPE or VC is ignored. The eighth replay of one
SEQ in succession takes the port DOWN. -/
def Obligations.LinkFlits : Prop :=
  ∀ (s : State) (p seq q : Nat) (f : FlitIn) (x y : LFlit) (errs : List Nat) (hit : Bool), p < 32 →
    let l := portOfLink s p
    let idle := pState s p = 6 ∧ s.routed = s.out.length ∧ l.nak = none ∧ (l.slot + 1) % 300 ≠ 0
    let free := fun (vc : Nat) => vc = 4 → (l.transit.filter fun k => l.slot + 1 < k + 392).length < 39
    let sent := fun (x : LFlit) (seq : Nat) => [x.msg.getD 0, x.part] ++ flitLanes (wireFlit l x seq)
    let good := hit = false ∧ f.crc = flitCrc f
    (pState s p ≠ 6 → pState s p ≠ 7 → Answers (.flitSend p) s fun t => t = s)
    ∧ (pState s p = 7 → Answers (.flitSend p) s fun t =>
        portOfLink t p = controlSent l ∧ t = { s with lports := t.lports, out := t.out }
        ∧ ∃ body, t.out = s.out ++ [.packet (if l.nak.isSome then "CONTROL_NAK" else "CONTROL") p body])
    ∧ (idle → l.resend = 0 → l.replay.length < 4095 → l.txq = [x] → Answers (.flitSend p) s fun t =>
        let m := portOfLink t p
        if look 0 l.used x.f.vc < vcBuffers x.f.vc ∧ free x.f.vc then
          m.txq = [] ∧ m.replay = l.replay ++ [(l.seq, x)] ∧ m.seq = (l.seq + 1) % 4096
          ∧ look 0 m.used x.f.vc = look 0 l.used x.f.vc + 1 ∧ t.out = s.out ++ [.packet "FLIT" p (sent x l.seq)]
        else m.txq = [x] ∧ m.replay = l.replay ∧ m.seq = l.seq ∧ t.out = s.out)
    ∧ (idle → 0 < l.resend → l.replay[l.replay.length - l.resend]? = some (q, y) → Answers (.flitSend p) s fun t =>
        let m := portOfLink t p
        m.replay = l.replay ∧ m.txq = l.txq ∧ m.seq = l.seq
        ∧ if free y.f.vc then m.resend = l.resend - 1 ∧ t.out = s.out ++ [.packet "FLIT_AGAIN" p (sent y q)]
          else m.resend = l.resend ∧ t.out = s.out)
    ∧ Answers (.flitReceive p f errs hit) s (fun t =>
        (pState s p ≠ 6 → pState s p ≠ 10 → (pState s p ≠ 7 ∨ f.ty ≠ 2) → t.lports = s.lports ∧ t.rx = s.rx)
        ∧ (pState s p = 6 → ¬good → t.rx = s.rx ∧ (portOfLink t p).rx = l.rx ∧ (portOfLink t p).bad = true
            ∧ (portOfLink t p).nak = if l.bad = true ∧ (f.ty ≠ 1 ∨ f.seq ≠ l.rx) then l.nak else some l.rx)
        ∧ (pState s p = 6 → good → f.ty ≠ 1 ∨ f.seq ≠ l.rx → (portOfLink t p).rx = l.rx ∧ t.rx = s.rx)
        ∧ (pState s p = 6 → good → 3 < f.ty → (portOfLink t p).replay = l.replay ∧ (portOfLink t p).used = l.used)
        ∧ (pState s p = 6 → good → f.ty = 1 → f.seq = l.rx → (portOfLink t p).rx = (l.rx + 1) % 4096
            ∧ (portOfLink t p).bad = false)
        ∧ (pState s p = 6 → good → f.ty = 1 → f.seq = l.rx → 6 ≤ f.vc ∨ 6 ≤ f.ovc → t.rx = s.rx ∧ t.heldRx = s.heldRx)
        ∧ (pState s p = 6 → good → f.ty = 1 → f.seq = l.rx → f.vc < 6 → f.ovc < 6 → s.heldRx = [] →
            if f.order ≠ look 0 s.orderIn (8 * (peerOf s p).getD 0 + f.vc) then
              t.rx = s.rx ∧ t.heldRx = [((peerOf s p).getD 0, p, f)] ∧ (portOfLink t p).owed = l.owed
            else f.dest = planeAddr s → t.heldRx = [] ∧ (portOfLink t p).owed = (oweCredit l f.vc).owed
              ∧ if f.tag ≠ 0 ∧ tagCtx s f.tag = none then t.rx = s.rx
                  ∧ (getReg t Reg.LNK_JOBTAG_DROP).toNat = Nat.min 0xFFFFFFFF ((getReg s Reg.LNK_JOBTAG_DROP).toNat + 1)
                else t.rx = s.rx ++ [(if f.tag = 0 then none else tagCtx s f.tag, f)]))
    ∧ (Answers (.nakReceive p seq) s fun t =>
        let n := if l.nakSeq = some seq then l.naks + 1 else 1
        if pState s p ≠ 6 ∨ l.replay.any (fun r => r.1 = seq) = false then t = s
        else (getReg t (portReg Reg.LNK_REPLAYS p)).toNat
              = Nat.min 0xFFFFFFFF ((getReg s (portReg Reg.LNK_REPLAYS p)).toNat + 1)
          ∧ if n < 8 then pState t p = 6 ∧ (portOfLink t p).resend = (l.replay.dropWhile fun r => r.1 ≠ seq).length
              ∧ (portOfLink t p).naks = n
            else pState t p = 0 ∧ getF t (portReg Reg.LNK_ERR p) 0 0 = 1)

/-- R276, R283 to R287, R290 to R292, R300, R424: the states of a port. Training goes from state to state, and its limits end
it; an identity is sent with every lane locked, checked in order, its code kept, and the port is negotiated UP or held as
MISMATCHED, to come up later where both ends accept; a retrain starts from DETECT; a lane out of lock, a closed port, a lane
without a spare take the port out of UP; a weak lane takes it out for one burst, which the last port to a peer puts off. -/
def Obligations.LinkPorts : Prop :=
  ∀ (s : State) (a : Acc) (p lane lanes ns margin time : Nat) (i : IdentIn) (accepted lost peerFree : Bool)
    (apart : List (Nat × Nat)) (v : BitVec 32), p < 32 →
    let st := pState s p
    Answers (.lightDetect p) s (fun t => if st = 1 then pState t p = 2 ∧ (portOfLink t p).since = s.ftc else t = s)
    ∧ Answers (.equaliseComplete p) s (fun t => if st = 2 then pState t p = 3 ∧ (portOfLink t p).since = s.ftc else t = s)
    ∧ Answers (.fecLockAcquire p lanes) s (fun t =>
        if st = 3 then
          getF t (portReg Reg.LNK_STATUS p) 7 4 = lanes % 16
          ∧ if lanes % 16 = 15 then pState t p = 4
              ∧ t.out = s.out ++ [.packet "IDENTITY" p
                  [planeAddr s, p, profileOf s, field identity 0 8, s.planDigest.toNat, getF s Reg.LNK_ID 23 8, 1]]
            else pState t p = 3 ∧ t.out = s.out
        else t = s)
    ∧ Answers (.trainingTimeout p time) s (fun t =>
        let u := atTime s time
        let limit := if st = 1 then 10000000 else if st = 2 then 100000000 else 1000000
        if 1 ≤ st ∧ st ≤ 5 ∧ limit ≤ u.ftc - (portOfLink s p).since then pState t p = (if st = 5 then 7 else 0) else t = u)
    ∧ Answers (.trainingRetry p time) s (fun t =>
        let u := atTime s time
        if st = 0 ∧ mayTrain s p = true ∧ 1000000000 ≤ u.ftc - (portOfLink s p).since then pState t p = 1 else t = u)
    ∧ Answers (.identityFlitReceive p i accepted) s (fun t =>
        let code := identCode s p i
        let ok := st = 4 ∧ code = 0 ∨ code ≠ 2 ∧ code ≠ 5 ∧ getF s (portReg Reg.LNK_STATUS p) 16 16 = 1 ∧ accepted = true
        if st ≠ 4 ∧ st ≠ 7 ∧ st ≠ 8 then t = s
        else getF t (portReg Reg.LNK_FOUND_PEER p) 13 0 = i.addr % 16384
          ∧ getF t (portReg Reg.LNK_FOUND_PEER p) 20 16 = i.port % 32
          ∧ (st = 7 → pState t p = 7)
          ∧ (st ≠ 7 → ok → pState t p = if i.versions.testBit 1 then 6 else 5)
          ∧ (st ≠ 7 → ¬ok → pState t p = 8 ∧ getF t (portReg Reg.LNK_STATUS p) 14 12 = code
              ∧ (st = 4 → getF t (portReg Reg.LNK_ERR p) 2 2 = 1)))
    ∧ (regOpen s a (portReg Reg.LNK_CTRL p) = true → Answers (.retrain a p v) s fun t =>
        pState t p = (if st = 9 then 9 else if v.getLsbD 0 = false then 0
          else if getF s Reg.LNK_PROFILE 2 2 = 1 ∧ svcOf s 4 p = 0 then 1 else 0))
    ∧ Answers (.fecLockLoss p lane ns) s (fun t =>
        if lane < 4 ∧ 1000 < ns ∧ (st = 6 ∨ st = 10) then
          pState t p = 0 ∧ getF t (portReg Reg.LNK_ERR p) 1 1 = 1
          ∧ getF t (portReg Reg.LNK_STATUS p) 7 4 = lanesOk s p - (if (lanesOk s p).testBit lane then 2 ^ lane else 0)
        else t = s)
    ∧ Answers (.portDown p lost apart) s (fun t =>
        t.apart = apart ∧ (st = 6 ∨ st = 10 → pState t p = 0 ∧ (portOfLink t p).replay = [])
        ∧ (st ≠ 6 → st ≠ 10 → pState t p = st)
        ∧ (∀ x, peerOf s p = some x → lost = true → x ∈ t.lostPkgs))
    ∧ (lane < 4 → margin ≤ 100 → Answers (.linkRecalBurst p lane margin time) s fun t =>
        let u := atTime s time
        let x := (peerOf s p).getD 0
        getF t (portReg Reg.LNK_LANE_MARGIN p) (8 * lane + 7) (8 * lane) = margin
        ∧ (st ≠ 6 ∨ 10 ≤ margin → pState t p = st)
        ∧ (st = 6 → margin < 10 →
            if unsettled s x = [] ∧ (2 ≤ (upPorts s x).length ∨ calFree u p lane = true) then
              pState t p = 10 ∧ getF t (portReg Reg.LNK_CAL p) 16 16 = 1 ∧ (portOfLink t p).replay = (portOfLink s p).replay
              ∧ getF t (portReg Reg.LNK_CAL p) 15 0 = Nat.min 0xFFFF (getF s (portReg Reg.LNK_CAL p) 15 0 + 1)
            else pState t p = 6 ∧ (portOfLink t p).calDue = some (lane, calSince u p lane)))
    ∧ Answers (.recalibrationBurstEnd p) s (fun t =>
        if st = 10 then pState t p = 6 ∧ getF t (portReg Reg.LNK_CAL p) 16 16 = 0 else t = s)
    ∧ (lane < 4 → Answers (.laneSpare p lane peerFree) s fun t =>
        if st ≠ 6 ∧ st ≠ 10 then t = s
        else if peerFree = true ∧ s.spares.contains (p / 2) = false then pState t p = 2 ∧ t.spares = s.spares ++ [p / 2]
        else pState t p = 0 ∧ t.spares = s.spares)

/-- R282, R289, R294, R301: the route window brings the words of an entry into its data, or stores its data as an entry where
the Owl finds it within bounds: at most 12 global hops, and no path slot in use that is unfit. An entry refused is not stored
(the model's choice, log entry 144). -/
def Claims.RouteWindow : Prop :=
  ∀ (s : State) (a : Acc) (v : BitVec 32), regOpen s a Reg.LNK_ROUTE_WIN = true →
    let key := 2 * (1024 * fld v 3 0 + fld v 13 4)
    (v.getLsbD 31 = false → Answers (.routeWinRead a v) s fun t =>
      OnlyRegs s t [Reg.LNK_ROUTE_WIN, Reg.LNK_ROUTE_DATA0, Reg.LNK_ROUTE_DATA1]
      ∧ getReg t Reg.LNK_ROUTE_DATA0 = look 0 s.routes key ∧ getReg t Reg.LNK_ROUTE_DATA1 = look 0 s.routes (key + 1))
    ∧ (v.getLsbD 30 = false → Answers (.routeWinWrite a v) s fun t =>
        OnlyRegs { s with routes := t.routes } t [Reg.LNK_ROUTE_WIN]
        ∧ (if routeOk s (fld v 3 0) (fld v 13 4) (getReg s Reg.LNK_ROUTE_DATA0) (getReg s Reg.LNK_ROUTE_DATA1) = true then
            look 0 t.routes key = getReg s Reg.LNK_ROUTE_DATA0 ∧ look 0 t.routes (key + 1) = getReg s Reg.LNK_ROUTE_DATA1
          else t.routes = s.routes)
        ∧ (12 < getF s Reg.LNK_ROUTE_DATA1 3 0 → t.routes = s.routes)
        ∧ (getF s Reg.LNK_ROUTE_DATA1 3 0 ≤ 12 → getReg s Reg.LNK_ROUTE_DATA0 &&& 0x80808080 = 0 →
            look 0 t.routes key = getReg s Reg.LNK_ROUTE_DATA0)
        ∧ ∀ k, k ≠ key → k ≠ key + 1 → look 0 t.routes k = look 0 s.routes k)

/-- R295 to R298: the Fabric Time Counter never runs backwards. An exchange with the parent measures the offset; it is stepped
over only where no job has started and the FTC is behind by more than 1 µs, else slewed by at most 100 ppm; sixteen small
offsets in succession lock it. A package that loses its parent takes the next candidate, or holds over, and its bound grows
by 1 ns in 20 ms, out of bound beyond 2 ns. The root follows its reference and notes an edge that stays away. -/
def Obligations.FabricTime : Prop :=
  ∀ (s : State) (p time : Nat), p < 32 →
    let slewed := fun (t : State) => -429496 ≤ (getReg t Reg.FTC_RATE).toInt ∧ (getReg t Reg.FTC_RATE).toInt ≤ 429496
    Answers (.ftcExchange p) s (fun t =>
      s.ftc ≤ t.ftc
      ∧ if getF s Reg.FTC_STATUS 9 9 = 0 ∨ getF s Reg.FTC_STATUS 8 4 ≠ p ∨ getF s Reg.FTC_STATUS 3 3 = 1 ∨ pState s p ≠ 6 then
          t = s
        else (portOfLink t p).stampDue = true ∧ (portOfLink t p).xch = none
          ∧ match (portOfLink s p).xch with
            | none => t = { s with lports := t.lports }
            | some (t1, t2, t3, t4) =>
              let off : Int := (((t2 : Int) - t1) - ((t4 : Int) - t3)) * 50 - 5 * (portOfLink s p).asym
              getReg t Reg.FTC_OFFSET = BitVec.ofInt 32 off
              ∧ (if anyStarted s = false ∧ 1000000 < off then
                  t.ftc = s.ftc + (off / 1000).toNat ∧ getF t Reg.FTC_ERR 2 2 = 1
                else t.ftc = s.ftc ∧ slewed t)
              ∧ t.ftcGood = (if off.natAbs < 500 then s.ftcGood + 1 else 0)
              ∧ (16 ≤ t.ftcGood → ftcSync t = 2) ∧ (t.ftcGood < 16 → ftcSync t = if ftcSync s = 2 then 2 else 1))
    ∧ Answers .ftcParentLost s (fun t =>
        t.ftc = s.ftc
        ∧ if getF s Reg.FTC_STATUS 3 3 = 1 ∨ getF s Reg.FTC_STATUS 9 9 = 0 ∨ pState s (getF s Reg.FTC_STATUS 8 4) = 6 then t = s
          else getF t Reg.FTC_ERR 0 0 = 1 ∧ t.ftcGood = 0
            ∧ if ftcFrozen s = false ∧ (List.range 32).any (fun q => pState s q = 6 && mayParent s q) = true then
                ftcSync t = 1 ∧ getF t Reg.FTC_STATUS 9 9 = 1 ∧ pState s (getF t Reg.FTC_STATUS 8 4) = 6
                ∧ mayParent s (getF t Reg.FTC_STATUS 8 4) = true
              else ftcSync t = 3)
    ∧ Answers .ftcHoldoverTick s (fun t =>
        t.ftc = s.ftc
        ∧ if ftcSync s ≠ 3 ∧ ftcSync s ≠ 4 then t = s
          else let b := Nat.min 0xFFFFFFFF ((getReg s Reg.FTC_BOUND).toNat + 1000)
            (getReg t Reg.FTC_BOUND).toNat = b
            ∧ (if 2000 < b then ftcSync t = 4 ∧ getF t Reg.FTC_ERR 1 1 = 1 else ftcSync t = ftcSync s))
    ∧ Answers .ftcRefEdge s (fun t =>
        t.ftc = s.ftc
        ∧ if refOn s = false then t = s else t.refEdge = s.ftc ∧ getF t Reg.FTC_STATUS 10 10 = 1 ∧ slewed t)
    ∧ Answers (.ftcRefTimeout time) s (fun t =>
        let u := atTime s time
        if refOn s = true ∧ 1100000000 ≤ u.ftc - s.refEdge then
          OnlyRegs u t [Reg.FTC_ERR, Reg.FTC_STATUS] ∧ getF t Reg.FTC_ERR 3 3 = 1 ∧ getF t Reg.FTC_STATUS 10 10 = 0
        else t = u)

/-! ### Collectives (R304 to R324) -/

/-- R304, R310, R318: COLL_AGREEMENT, at a collective that every nib of the span has issued and whose next batch is present at
its contributors. This package's digest, grain total and words go to every other member; members whose digests differ end it
with status 4; a grain total other than ADDENDS, where the sum is exact, with status 3; else the agreed words are the joined
ones of all members, and the segments of the batch begin to wait for slots, or for what comes back along a line (the model's
algorithm, log entry 145). -/
def Claims.CollectiveAgreement : Prop :=
  ∀ (s : State) (c id : Nat) (others : List AgreeIn) (order : List Nat) (k : Coll),
    collFind s c id = some k → collWhole s k = true → k.status = 0 → others.length + 1 = k.m →
    (k.agreed = 0 ∨ nextBatch k ≠ []) → dripReady s k (nextBatch k) = true →
    let exact := decide (k.desc.red = 1 ∨ k.desc.red = 2)
    let same := others.all (fun o => o.digest = groupDigest k.desc) && k.parts.all fun x => sameGroup (cdescOf x.desc) k.desc
    let mine := (k.parts.map fun x => (cdescOf x.desc).grains).sum
    let grains := mine + (others.map (·.grains)).sum
    let own := if exact then
        ((nextBatch k).map fun g => segWords k.desc.inFmt (k.count g.2) ((grainsAt s k g.1 g.2).map (·.1))).flatten
      else []
    Answers (.collAgreement c id others order) s fun t => ∃ k', collFind t c id = some k'
      ∧ t.out = s.out ++ (k.mem.filter fun a => a ≠ k.mem.getD k.rank 0).map (fun a =>
          .link "AGREE" 2 a c ([id, k.agreed, (groupDigest k.desc).toNat, mine] ++ own))
      ∧ if same = false then k' = { k with status := 4, segs := [] } ∧ t = { s with colls := t.colls, out := t.out }
        else if exact = true ∧ grains ≠ k.desc.addends then
          k' = { k with status := 3, grains := grains, segs := [] } ∧ t = { s with colls := t.colls, out := t.out }
        else k'.agreed = k.agreed + 1 ∧ k'.grains = grains ∧ k'.parts = k.parts ∧ k'.status = 0
          ∧ k'.words = k.words ++ (List.range own.length).map (fun i =>
              others.foldl (fun w o => joinWords w (o.words.getD i 0)) (own.getD i 0))
          ∧ k'.segs.map (fun g => (g.owner, g.seq, g.stage)) = k.segs.map (fun g => (g.owner, g.seq, g.stage))
              ++ ((nextBatch k).map fun g => (k.entries g.1).map fun n => (g.1, g.2, n)).flatten
          ∧ ∀ g ∈ k'.segs.drop k.segs.length, g.since = s.ftc ∧ g.acks = 0
              ∧ (g.stage = 0 → g.st = .waiting ∧ g.got = if k.gives g.owner then 1 else 0)
              ∧ (g.stage ≠ 0 → g.st = (if k.reduces g.owner g.stage then .idle else .pass) ∧ g.got = 0)

/-- R293, R305, R311, R316, R317, R322, R323: the way of a segment. A free slot goes to the segment first in order; a segment
that every member package of its stage has reached leaves for the next one at once, or is done where its result is whole. One
that arrives under its job tag is added in its slot and acknowledged, asked for again once where its CRC-32C does not match,
and counted as poisoned where its bytes are lost; one without a slot waits outside. The last acknowledgement frees the slot;
a copy asked for goes out again. A segment that has waited FALLBACK_US goes on in endpoint mode. (RTR_COLL_POISON counts a
segment once, and the stages of lines and rings are the model's: log entries 115 and 145.) -/
def Obligations.Segments : Prop :=
  ∀ (s : State) (c id tag owner seq stage mark src members time : Nat) (lanes : List Nat) (poison : List Bool)
    (crc : Nat) (lost ok : Bool) (ecc : Nat) (k : Coll) (g : CSeg),
    collFind s c id = some k → segFind k owner seq stage = some g → stage < 8 →
    let seg := fun (t : State) (h : CSeg) => ∃ k', collFind t c id = some k' ∧ segFind k' owner seq stage = some h
      ∧ k'.parts = k.parts ∧ k'.status = k.status
    let copy := fun (tgt mark : Nat) (h : CSeg) => OutMsg.link "SEGMENT" 2 tgt c
      ([id, owner, seq, h.got, maskOf h.poison, laneBytes k.desc.red, segCrc k.desc.red h.lanes, mark] ++ h.lanes)
    let answer := fun (kind : String) => OutMsg.link kind 2 (k.mem.getD src 0) c [id, owner, seq, mark]
    (slabPick s = none → Answers .slabSlotGrant s fun t => t = s)
    ∧ (slabPick s = some (k, g) →
        (g.got < k.need owner stage → Answers .slabSlotGrant s fun t =>
          seg t { g with st := .slot } ∧ t = { s with colls := t.colls })
        ∧ (∀ a e, k.need owner stage ≤ g.got → k.desc.op = 1 → k.next owner stage = some (a, e) → g.lanes ≠ [] →
            Answers .slabSlotGrant s fun t =>
              let h := { g with st := .sent, acks := 1, poison := joinPoison (k.stripes seq) g.poison g.poison }
              seg t h ∧ t = { s with colls := t.colls, out := s.out ++ [copy a (8 * e + stage) h] })
        ∧ (k.need owner stage ≤ g.got → k.desc.op = 1 → k.next owner stage = none → Answers .slabSlotGrant s fun t =>
            ∃ h, seg t h ∧ h.st = .done ∧ h.acks = 0))
    ∧ (tagCtx s tag = none →
        Answers (.segmentArrive tag id src owner seq mark members lanes poison crc lost ecc) s fun t =>
          OnlyRegs s t [Reg.LNK_JOBTAG_DROP] ∧ (getReg t Reg.LNK_JOBTAG_DROP).toNat
            = Nat.min 0xFFFFFFFF ((getReg s Reg.LNK_JOBTAG_DROP).toNat + 1))
    ∧ (tagCtx s tag = some c → segEntry k owner seq (mark / 8) = some g →
        (g.st = .idle →
          Answers (.segmentArrive tag id src owner seq mark members lanes poison crc lost ecc) s fun t =>
            seg t { g with st := .waiting, since := s.ftc } ∧ t = { s with colls := t.colls })
        ∧ (g.st ≠ .idle → g.st ≠ .slot → g.st ≠ .endpoint → g.st ≠ .pass →
          Answers (.segmentArrive tag id src owner seq mark members lanes poison crc lost ecc) s fun t => t = s)
        ∧ (g.st = .slot → g.resent = false → crc ≠ segCrc k.desc.red lanes →
          Answers (.segmentArrive tag id src owner seq mark members lanes poison crc false ecc) s fun t =>
            seg t { g with resent := true }
            ∧ t = { s with colls := t.colls, out := s.out ++ [answer "SEGMENT_AGAIN"] })
        ∧ (g.st = .slot → g.got + members < k.need owner stage → crc = segCrc k.desc.red lanes →
          Answers (.segmentArrive tag id src owner seq mark members lanes poison crc lost 0) s fun t =>
            t.out = s.out ++ [answer "SEGMENT_ACK"]
            ∧ (lost = false → seg t { g with
                got := g.got + members, resent := false, poison := joinPoison (k.stripes seq) g.poison poison,
                lanes := if lanes.isEmpty then g.lanes else addLanes k.desc.red k.desc.inFmt g.lanes lanes })
            ∧ (lost = true → (getReg t Reg.RTR_COLL_POISON).toNat
                  = Nat.min 0xFFFFFFFF ((getReg s Reg.RTR_COLL_POISON).toNat + (if g.counted then 0 else 1))
                ∧ ∃ k', collFind t c id = some k' ∧ k'.status = (if k.status = 0 then 5 else k.status))))
    ∧ (g.st ≠ .sent → g.st ≠ .endSent →
        Answers (.segmentAcknowledge c id owner seq (8 * mark + stage) src ok) s fun t => t = s)
    ∧ (g.st = .sent ∨ g.st = .endSent → Answers (.segmentAcknowledge c id owner seq (8 * mark + stage) src ok) s fun t =>
        if ok then seg t { g with acks := g.acks - 1, st := if g.acks ≤ 1 then .done else g.st }
          ∧ t = { s with colls := t.colls }
        else t = { s with out := s.out ++ [copy (k.mem.getD src 0) (8 * mark + stage) g] })
    ∧ (let u := atTime s time
       (mayFallBack u k g u.ftc = false → Answers (.endpointFallback c id owner seq stage time) s fun t => t = u)
       ∧ (mayFallBack u k g u.ftc = true → slabPick u = none → g.got < k.need owner stage →
          Answers (.endpointFallback c id owner seq stage time) s fun t =>
            seg t { g with st := .endpoint, lanes := [] } ∧ t.out = s.out))

/-- R321: a collective completes once its results are written or it has ended early: it is outstanding no more, its context's
count rises, and each contributing nib finds COLL_ID and the status in its completion word; differing descriptors or a
wrong total are contained errors of the context. Before that the command does nothing. -/
def Claims.CollectiveCompletion : Prop :=
  ∀ (s : State) (c id : Nat) (k : Coll), c < 16 → collFind s c id = some k →
    (collOver k = false → Answers (.collComplete c id) s fun t => t = s)
    ∧ (collOver k = true → k.status ≠ 2 → Answers (.collComplete c id) s fun t =>
        let st := collStatus k
        collFind t c id = none
        ∧ (∀ d i, (d, i) ≠ (c, id) → collFind t d i = collFind s d i)
        ∧ (getReg t (perCtx Reg.RTR_CTX_DONE 0x20 c)).toNat
            = Nat.min 0xFFFFFFFF ((getReg s (perCtx Reg.RTR_CTX_DONE 0x20 c)).toNat + 1)
        ∧ ((k.parts.map (·.nib)).Nodup → ∀ x ∈ k.parts,
            readBytes (nibOf t x.nib).well (bits (cdescOf x.desc).status.toNat 47 0) 8 = natLE 8 (st + 2 ^ 32 * k.id))
        ∧ (st = 3 ∨ st = 4 → t.reports = s.reports ++ [⟨2, 0x27, 9, some c, id, st, s.ftc⟩]
            ∧ getF t Reg.RTR_COLL_ERR (st - 1) (st - 1) = 1)
        ∧ (st = 0 → t.reports = s.reports))

/-! ### Exact Mode, job start, seals (R327, R338 to R346) -/

/-- R338: START_ARM keeps T and arms the start, or refuses it: no program loaded (7), T out of range (1), FTC not locked in a
job of several packages (2). An armed member sends its start record to package index 0; that of a job of one package has GO.
R327: FTC_CTXc_MODE takes a value while no program is loaded, and notes the attempt after that. -/
def Claims.StartArming : Prop :=
  ∀ (s : State) (a : Acc) (c : Nat) (v : BitVec 64) (w : BitVec 32), c < 16 →
    (regOpen s a (perCtx Reg.FTC_CTX_MODE 0x20 c) = true → Answers (.exactModeWrite a c w) s fun t =>
      if (ctxOf s c).loaded then
        OnlyRegs s t [Reg.FTC_TALC_STATUS + 0x40 * c] ∧ getF t (Reg.FTC_TALC_STATUS + 0x40 * c) 3 3 = 1
      else OnlyRegs s t [perCtx Reg.FTC_CTX_MODE 0x20 c] ∧ exactMode t c = w.getLsbD 0)
    ∧ (regOpen s a (perCtx Reg.FTC_CTX_START_HI 0x20 c) = true →
      Answers (.startArm a c v) s fun t =>
        let x := ctxOf s c
        let result := fun k => startState t c = 3 ∧ getF t (perCtx Reg.FTC_CTX_START_STATUS 0x20 c) 7 4 = k ∧ t.out = s.out
          ∧ t.nibs = s.nibs
        startTime t c = v.toNat
        ∧ if x.loaded = false then result 7
          else if v.toNat < s.ftc + 200000 ∨ s.ftc + 10000000000 < v.toNat then result 1
          else if 1 < x.packages ∧ ftcLocked s = false then result 2
          else if packageIndex s c ≠ 0 then
            startState t c = 1 ∧ t.wakes = (startWakes s (startClusters s c) 2).wakes
            ∧ t.out = s.out ++ [.link "START" 0 (getF s (perCtx Reg.FTC_CTX_LEAD 0x20 c) 13 0) c
                [packageIndex s c, x.packages, leNat (x.image.take 16), if exactMode s c then 1 else 0, 1, v.toNat]]
          else x.packages ≤ 1 → (startOf s c).recs = [] → startState t c = 1 ∧ (startOf t c).go = true ∧ t.out = s.out)

/-- R339: package index 0 judges the start records: the first that differs refuses the start with its reason and member, all
present and equal give GO to every other member; records missing 20 µs before T refuse it. A member without a verdict at T
refuses; GO and REFUSE reach an armed member only. -/
def Claims.StartVerdicts : Prop :=
  ∀ (s : State) (c time res member : Nat) (r : StartIn), c < 16 →
    let off := perCtx Reg.FTC_CTX_START_STATUS 0x20 c
    let refused := fun (t : State) (k m : Nat) =>
      getReg t off = BitVec.ofNat 32 (3 + 16 * k + 256 * (m % 2 ^ 14)) ∧ startOf t c = Start.idle ∧ t.nibs = s.nibs
    let u := atTime s time
    let y : StartRec := ⟨r.idx, r.packages, r.image.toNat, r.exact, r.rev, r.t⟩
    let recs := ((startOf s c).recs.filter fun z => z.idx ≠ r.idx) ++ [y]
    let own := ownStart s c
    Answers (.startRecordReceive c r) s (fun t =>
      if startState s c ≠ 1 ∨ packageIndex s c ≠ 0 ∨ (startOf s c).judged = true then
        t = { s with starts := t.starts } ∧ startOf t c = { startOf s c with recs := recs }
      else match recs.find? fun z => startDiffers own z ≠ 0 with
        | some z => refused t (startDiffers own z) z.idx
        | none =>
          if (List.range own.packages).all (fun p => p = 0 || recs.any fun z => z.idx = p) = true then
            (startOf t c).go = true
            ∧ t.out = s.out ++ ((List.range own.packages).filter (· ≠ 0)).map fun p =>
                .link "GO" 0 (Config.packageAddr (getF s (Reg.LNK_CTX_TAG + 4 * c) 15 0) p) c []
          else t = { s with starts := t.starts } ∧ startOf t c = { startOf s c with recs := recs })
    ∧ Answers (.startRecordTimeout c time) s (fun t =>
        if startState s c ≠ 1 ∨ packageIndex s c ≠ 0 ∨ (startOf s c).judged = true ∨ u.ftc + 20000 < startTime s c then t = u
        else refused t 6 (((List.range own.packages).find? fun p =>
          p ≠ 0 && !((startOf s c).recs.any fun r => r.idx = p)).getD 0))
    ∧ Answers (.goReceive c) s (fun t =>
        if startState s c = 1 then t = { s with starts := t.starts } ∧ startOf t c = { startOf s c with go := true } else t = s)
    ∧ Answers (.refuseReceive c res member) s (fun t =>
        if startState s c = 1 then refused t res member ∧ OnlyRegs { s with starts := t.starts } t [off] else t = s)
    ∧ Answers (.startVerdictTimeout c time) s (fun t =>
        if startState s c = 1 ∧ (startOf s c).go = false ∧ startTime s c ≤ u.ftc then refused t 6 (packageIndex s c) else t = u)

/-- R340, R403: JOB_START, with GO and every cluster running, starts the loaded nibs of the job at T, each from its stagger;
else nothing starts. (That the hang watchdog counts from there is the model's reading, log entry 108.) -/
def Claims.JobStart : Prop :=
  ∀ (s : State) (c : Nat) (delay : List Nat), c < 16 →
    let ready := startState s c = 1 ∧ (startOf s c).go = true ∧ startClusters s c = []
    (¬ready → Answers (.jobStart c delay) s fun t => t = s)
    ∧ (ready → (ctxOf s c).loaded = true → ((ctxOf s c).packages ≤ 1 ∨ ftcLocked s = true) →
        Answers (.jobStart c delay) s fun t =>
          startState t c = 2 ∧ startOf t c = Start.idle ∧ t.ftc = Nat.max s.ftc (startTime s c)
          ∧ ∀ n, nibOf t n =
              if n ∈ jobNibs s c ∧ (nibOf s n).st = 1 then
                { nibOf s n with st := 2, stagger := staggerOf s c n, cycle := delay.getD (dieOf n) 0,
                                 late := delay.getD (dieOf n) 0, lastIssue := t.ftc }
              else nibOf s n)

/-- R341, R362: SEAL writes the record over the image, the manifest, the input and the output to host memory, and completes
POISONED where a byte was. R345, R346: the layer record of a pass is written once, when every nib that absorbs tiles has
completed the layer, and by no context that halts. -/
def Obligations.Seals : Prop :=
  ∀ (s : State) (c q pass layer : Nat) (x : AvCmd), c < 16 →
    (readyCmd s c q = some x → x.f 0 1 = 8 →
      let (ia, il, oa, ol) := (x.f 0x10 8, x.f 0x18 8, x.f 0x20 8, x.f 0x28 8)
      Answers (.sealOutput c q) s fun t =>
        match manifestOf s c (x.f 0x38 4) with
        | none => Finished s t x 1 0 0
        | some m =>
          if Config.hbmBytes < ia + il ∨ Config.hbmBytes < oa + ol
              ∨ dpaOwned (il / 4096 + 2) s c ia il = false ∨ dpaOwned (ol / 4096 + 2) s c oa ol = false then
            Finished s t x 0x0B 0 0
          else
            let bad := (readDpa (il + 1) s ia il).2.any id || (readDpa (ol + 1) s oa ol).2.any id
            Finished s t x (if bad then 0x0C else 0) 0 0
            ∧ t.hostMem = writeBytes s.hostMem (x.f 0x30 8) (sealRecord (exactMode s c) bad m.epoch (ctxOf s c).image m.dman
                (digest "VX1-IN" (readDpa (il + 1) s ia il).1) (digest "VX1-OUT" (readDpa (ol + 1) s oa ol).1)))
    ∧ (∀ p, (ctxOf s c).plan = some p →
        let nibs := (List.range (ctxOf s c).spanNibs).filter fun i => absorbs p i
        let ds := nibs.filterMap fun i => (nibOfIndex s c i).bind fun n => layerPart (nibOf s n) pass layer
        let a := getReg64 s (Reg.SEC_SEAL_LOG + 0x40 * c)
          + 64 * ((pass * p.layers.length + layer) % 2 ^ getF s (Reg.SEC_SEAL_LOGCFG + 0x40 * c) 4 0)
        ((ctxOf s c).halting = true ∨ (pass, layer) ∈ (ctxOf s c).layerDone ∨ p.layers.length ≤ layer ∨ nibs = []
            ∨ ds.length ≠ nibs.length → Answers (.layerRecordWrite c pass layer) s fun t => t = s)
        ∧ ((ctxOf s c).halting = false → (pass, layer) ∉ (ctxOf s c).layerDone → layer < p.layers.length → nibs ≠ [] →
            ds.length = nibs.length → plainAt s a = true → Answers (.layerRecordWrite c pass layer) s fun t =>
              (readDpa 65 t a 64).1 = layerRecord layer pass ds
              ∧ (ctxOf t c).layerDone = (ctxOf s c).layerDone ++ [(pass, layer)] ∧ t.nibs = s.nibs))

/-! ### Security (R375 to R395, R428) -/

/-- R387 to R389, R391: MANIFEST_LOAD locks and keeps a manifest that passes its checks, and answers with its epoch; another
completes REJECTED with its code. RELEASE_MANIFEST gives up manifest and locks. -/
def Claims.Manifests : Prop :=
  ∀ (s : State) (c q : Nat) (x : AvCmd), readyCmd s c q = some x →
    (x.f 0 1 = 0x20 →
      let (a, n) := (x.f 0x10 8, x.f 0x18 8)
      let bs := (readDpa (n + 1) s a n).1
      let r := recOf bs
      let epoch := field r.body 0 4
      Answers (.manifestLoad c q) s fun t =>
        if Config.hbmBytes < a + n ∨ dpaOwned (n / 4096 + 2) s c a n = false then Finished s t x 0x0B 0 0
        else if manCode s c bs ≠ 0 then
          Finished s t x 7 (manCode s c bs) 0 ∧ t.manifests = s.manifests ∧ t.locks = s.locks
        else Finished s t x 0 epoch 0
          ∧ if (manifestOf s c epoch).isSome then t.manifests = s.manifests ∧ t.locks = s.locks
            else t.manifests = s.manifests ++ [⟨c, epoch, a, r.total, manDigest r⟩]
              ∧ t.locks = (lockRange s (.manifest c epoch) a r.total).locks)
    ∧ (x.f 0 1 = 0x26 →
      let epoch := x.f 0x10 4
      Answers (.releaseManifest c q) s fun t =>
        if manifestOf s c epoch = none then Finished s t x 7 0x0A 0 ∧ t.manifests = s.manifests ∧ t.locks = s.locks
        else Finished s t x 0 0 0 ∧ manifestOf t c epoch = none ∧ (∀ p ∈ t.locks, p.1 ≠ .manifest c epoch)
          ∧ (∀ p ∈ s.locks, p.1 ≠ .manifest c epoch → p ∈ t.locks)
          ∧ ∀ d e, (d, e) ≠ (c, epoch) → manifestOf t d e = manifestOf s d e)

/-- R390, R391: VERIFY_BLOCKS takes up the entries of its range that this member holds, where the ribbon allows it. Each block
hashed is locked; where it agrees with its manifest entry this member vouches for it, else its locks fall and the failure is
counted and reported; the last one ends the command. A notice of another member counts for the entry that it names and
goes on around the ring. R392: BLOCK_DIGEST writes the digests of the home blocks of its range. -/
def Claims.BlockVerification : Prop :=
  ∀ (s : State) (c q no pos : Nat) (body : List (BitVec 8)) (x : AvCmd) (v : VerifyRun) (e : Nat) (rest : List Nat),
    (readyCmd s c q = some x → x.f 0 1 = 0x21 →
      let (first, count, set) := (x.f 0x10 4, x.f 0x14 4, x.f 0x18 1)
      let todo := verifyList s first count set
      Answers (.verifyBlocks c q) s fun t =>
        if verifyState s c = false then Finished s t x 7 7 0
        else if 1 < set ∨ Config.dirEntries < first + count then Finished s t x 7 5 0
        else if todo = [] then Finished s t x 0 0 0
        else t.comps = s.comps ∧ t.dir = s.dir ∧ ⟨x.no, c, todo, 0, none⟩ ∈ t.verifies)
    ∧ (s.verifies.find? (fun w => w.no = no) = none → Answers (.blockHashComplete no) s fun t => t = s)
    ∧ (s.verifies.find? (fun w => w.no = no) = some v → v.todo = e :: rest → (dirEntry s e).valid = true →
        Answers (.blockHashComplete no) s fun t =>
          let code := blockCode s v.c e
          (code = 0 → (¬((ctxOf s v.c).loaded ∧ (ctxOf s v.c).resident) →
              (e, ribPos s) ∈ t.notices ∧ (holdersOf s (dirEntry s e) = [ribPos s] → (dirEntry t e).verified = true))
            ∧ ((∃ p ∈ t.locks, p.1 = .entry e) ∨ granulesOf ((64 + (dirEntry s e).comp) / 4096 + 2) s (dirEntry s e).addr
                (64 + (dirEntry s e).comp) = []))
          ∧ (code ≠ 0 → t.dir = s.dir ∧ (∀ p ∈ t.locks, p.1 ≠ .entry e)
              ∧ (getReg t Reg.SEC_VERIFY_FAIL).toNat = Nat.min 0xFFFFFFFF ((getReg s Reg.SEC_VERIFY_FAIL).toNat + 1))
          ∧ (rest ≠ [] → t.comps = s.comps ∧ { v with
                todo := rest, passed := v.passed + (if code = 0 then 1 else 0),
                fail := if code = 0 ∨ v.fail.isSome then v.fail else some (code, e) } ∈ t.verifies)
          ∧ (rest = [] → code = 0 → v.fail = none → ∀ y, s.cmds.find? (fun y => y.no = v.no) = some y →
              Finished s t y 0 (v.passed + 1) 0))
    ∧ Answers (.verifyNoticeReceive pos body) s (fun t =>
        if ribState s = 0 ∨ pos = ribPos s then t = s
        else (∀ y, (dirIndices s).find? (fun y => (dirEntry s y).valid && noticeBytes s y = body) = some y →
            (y, pos) ∈ t.notices)
          ∧ (ribNext s (ribPos s) false ≠ pos →
              .ring "NOTICE" false (getF s Reg.RIB_SHAPE 31 16 :: pos :: body.map (·.toNat)) ∈ t.out))
    ∧ (readyCmd s c q = some x → x.f 0 1 = 0x25 →
      let (first, count) := (x.f 0x10 4, x.f 0x14 4)
      let es := (dirIndices s).mergeSort.filter fun y =>
        first ≤ y && y < first + count && (dirEntry s y).valid && (dirEntry s y).home = ribPos s
      let hash := fun y => digest "VX1-BLK" (readDpa (64 + (dirEntry s y).comp + 1) s (dirEntry s y).addr
        (64 + (dirEntry s y).comp)).1
      Answers (.blockDigest c q) s fun t =>
        if Config.dirEntries < first + count then Finished s t x 7 5 0 ∧ t.hostMem = s.hostMem
        else Finished s t x 0 es.length 0 ∧ t.hostMem = writeBytes s.hostMem (x.f 0x18 8) (es.map hash).flatten)

/-- R394, R395, R428: ATTEST writes the signed report of a context over the nonce given, with a signature of its own each
time; GET_REPORT, GET_CERT and GET_NONCE answer over an MCTP binding that is up, and MCTP assigns its endpoint IDs. -/
def Obligations.Attestation : Prop :=
  ∀ (s : State) (c q b d eid : Nat) (nonce : BitVec 256) (x : AvCmd),
    (readyCmd s c q = some x → x.f 0 1 = 0x22 → Answers (.attest c q) s fun t =>
      if 16 ≤ x.f 0x18 1 then Finished s t x 7 5 0 ∧ t.hostMem = s.hostMem
      else Finished s t x 0 0 0 ∧ t.free = s.free + 1
        ∧ t.hostMem = writeBytes s.hostMem (x.f 0x10 8) (report s (x.f 0x18 1) ((x.raw.drop 0x20).take 32)).1)
    ∧ (b < 3 →
        let mcSays := fun (i : Instr) (kind : String) (body : List Nat) => Answers i s fun t =>
          if mctpUp s b then t.out = s.out ++ [.packet kind b body] ∧ t.regs = s.regs ∧ t.flash = s.flash else t = s
        (d < 16 → mcSays (.getReport b d nonce) "MCTP_REPORT" (asBody (report s d (natLE 32 nonce.toNat)).1))
        ∧ (16 ≤ d → mcSays (.getReport b d nonce) "MCTP_ERROR" [5])
        ∧ mcSays (.getCert b) "MCTP_CERT" (asBody (slotBytes s 7 (match runOf s 7 with | some r => r.slot | none => 0)))
        ∧ mcSays (.getNonce b) "MCTP_NONCE" (asBody (nonceBytes s))
        ∧ mcSays (.mctpEndpointIdAssign b eid) "MCTP_EID" [eid % 256]
        ∧ (mctpUp s b = true → Answers (.mctpEndpointIdAssign b eid) s fun t => look 0 t.eids b = eid % 256))

/-- R376, R379, R392, R393, R428: RECORD_WRITE and a firmware update write a record that passes the checks into the slot that
is not in force, and refuse any other with its code. -/
def Claims.RecordWrites : Prop :=
  ∀ (s : State) (c q b : Nat) (image : List (BitVec 8)) (x : AvCmd),
    (readyCmd s c q = some x → x.f 0 1 = 0x23 → Answers (.recordWrite c q) s fun t =>
      let bs := readBytes s.hostMem (x.f 0x10 8) (x.f 0x18 8)
      if ownerQueue s x = false then Finished s t x 1 0 0 ∧ t.flash = s.flash
      else if recordCode s bs ≠ 0 then Finished s t x 7 (recordCode s bs) 0 ∧ t.flash = s.flash
        ∧ getF t Reg.SEC_ERR 4 4 = 1 ∧ getF t Reg.SEC_ERR_INFO 26 19 = recordCode s bs
      else match writeRecord s bs with
        | some (k, u) => Finished s t x 0 k 0 ∧ t.flash = u.flash ∧ t.running = s.running
        | none => Finished s t x 7 5 0 ∧ t.flash = s.flash)
    ∧ (b < 3 → Answers (.pldmFirmwareUpdate b image) s fun t =>
        let ty := (recOf image).ty
        let code := if ty ∉ [1, 2, 8, 9, 10] ∨ s.pstep = 1 ∧ ty ≠ 1 then 5 else recordCode s image
        if mctpUp s b = false then t = s
        else if code ≠ 0 then t = { s with out := s.out ++ [.packet "PLDM_UPDATE" b [code, 0]] }
        else match writeRecord s image with
          | some (k, u) => t = { s with flash := u.flash, out := s.out ++ [.packet "PLDM_UPDATE" b [0, k]] }
          | none => t = { s with out := s.out ++ [.packet "PLDM_UPDATE" b [5, 0]] })

/-- R383 to R386, R392, R395: a token is judged once and the nonce changes; a refused one answers with its code; a good one
waits to be carried out, then: OWNER_SET claims the package for the named key, FLOOR_COMMIT raises the floors of the types
named to the SVNs in force, ACCEPT_FOUND accepts the peers of the ports named, OWNER_CLEAR ends the claim and the owner's
floors. Where the replay-protected area cannot be written, it stays as it is. -/
def Claims.OwnerCommands : Prop :=
  ∀ (s : State) (c q b : Nat) (token : List (BitVec 8)) (x : AvCmd) (o : OwnerOp) (wrote : Bool),
    (s.ownerOp = none → readyCmd s c q = some x → x.f 0 1 = 0x24 → Answers (.ownerCmd c q) s fun t =>
      let bs := readBytes s.hostMem (x.f 0x10 8) (x.f 0x18 8)
      let body := (recOf bs).body
      if ownerQueue s x = false then Finished s t x 1 0 0 ∧ t.regs = s.regs
      else nonceBytes t = natLE 32 (Config.freshRandom s.free).toNat ∧ t.rp = s.rp
        ∧ if tokenCode s bs ≠ 0 then Finished s t x 7 (tokenCode s bs) 0 ∧ t.ownerOp = none
          else t.ownerOp = some ⟨field body 0 1, field body 4 4, (body.drop 0x40).take 32, .cmd x.no⟩ ∧ t.comps = s.comps)
    ∧ (s.ownerOp ≠ none → Answers (.ownerCmd c q) s fun t => t = s)
    ∧ (b < 3 → mctpUp s b = true → s.ownerOp = none → Answers (.mctpOwnerCmd b token) s fun t =>
        nonceBytes t = natLE 32 (Config.freshRandom s.free).toNat ∧ t.rp = s.rp
        ∧ if tokenCode s token ≠ 0 then
            t.out = s.out ++ [.packet "MCTP_OWNER" b [tokenCode s token, 0]] ∧ t.ownerOp = none
          else (t.ownerOp.map (·.reply)) = some (.mctp b) ∧ t.out = s.out)
    ∧ (s.ownerOp = some o → o.reply = .mctp b →
        let stays := fun (t : State) => t.rp = s.rp ∧ t.rpCount = s.rpCount ∧ t.ownerOp = none
          ∧ t.out = s.out ++ [.packet "MCTP_OWNER" b [0x0B, 0]]
        let done := fun (t : State) => t.ownerOp = none ∧ t.out = s.out ++ [.packet "MCTP_OWNER" b [0, o.op]]
        Answers (.ownerSet wrote) s (fun t => if o.op ≠ 1 then t = s else if wrote = false then stays t
          else done t ∧ t.rpCount = s.rpCount + 1 ∧ ownerOf' t = (if o.newOwner.all (· = 0) then [] else o.newOwner)
            ∧ ∀ i, i < 10 → floorOf t (i + 1) = floorOf s (i + 1))
        ∧ Answers (.floorCommit wrote) s (fun t => if o.op ≠ 2 then t = s else if wrote = false then stays t
          else done t ∧ ownerOf' t = ownerOf' s
            ∧ ∀ i, i < 10 → floorOf t (i + 1) = match runOf s (i + 1) with
                | some r => if o.arg.testBit r.ty ∧ i ≠ 5 then Nat.max (floorOf s (i + 1)) r.svn else floorOf s (i + 1)
                | none => floorOf s (i + 1))
        ∧ Answers .acceptFound s (fun t => if o.op ≠ 3 then t = s else done t ∧ t.rp = s.rp
          ∧ ∀ p, p < 32 → getF t (portReg Reg.LNK_STATUS p) 16 16
              = if o.arg.testBit p then 1 else getF s (portReg Reg.LNK_STATUS p) 16 16)
        ∧ Answers (.ownerClear wrote) s (fun t => if o.op ≠ 4 then t = s else if wrote = false then stays t
          else done t ∧ claimed t = false
            ∧ ∀ i, i < 10 → floorOf t (i + 1) = if i < 7 then floorOf s (i + 1) else 0))

/-! ### Boot, resets, power (R378 to R382, R398 to R411, R440, R448) -/

/-- R378 to R382, R400: boot. Each stage runs once, in its place, and needs its records: where one is missing the package stops
in recovery with the code of the first; else the records are in force, the grade and the stacks are applied, the ports are
set and the next stage, or READY, is reached. POWER_UP takes the next step of the sequence where its condition is met. -/
def Obligations.BootStages : Prop :=
  ∀ (s : State) (readable equal : Bool) (fails w0 w1 devices gib : Nat) (stackIns : List StackIn),
    let has := fun ty => (runOf s ty).isSome || (pickSlot s ty).isSome
    let stops := fun (t : State) (code : Nat) => bootStage t = 7 ∧ getF t Reg.SEC_BOOT_STATUS 15 8 = code ∧ t.pstep = s.pstep
    let run := fun (t : State) (ds : List Nat) => ∀ d ∈ ds, domState t d = 2
    Answers (.bootStage0 readable fails) s (fun t =>
      let code := if readable = false ∨ flashDirOk (flashDir s) = false then 9
        else if 3 ≤ fails ∨ slotValid s 6 0 = false then 1 else if rpBest s = none then 2 else if has 1 = false then 3 else 0
      if s.pstep ≠ 1 ∨ bootStage s ≠ 0 then t = s
      else if code ≠ 0 then stops t code
      else bootStage t = 1 ∧ t.pstep = 2 ∧ (runOf t 1).isSome
        ∧ (∀ w, w < 8 → getReg t (Reg.SEC_IDENT + 4 * w) = BitVec.ofNat 32 (field identity (4 * w) 4))
        ∧ nonceBytes t = natLE 32 (Config.freshRandom s.free).toNat)
    ∧ Answers .bootStage1 s (fun t =>
        let code := if has 3 = false then 5 else if has 5 = false then 6 else if has 4 = false then 7
          else if claimed s = true ∧ has 8 = false then 8 else if has 2 = false then 4 else 0
        if s.pstep ≠ 5 ∨ bootStage s ≠ 1 then t = s
        else if code ≠ 0 then stops t code
        else bootStage t = 2 ∧ (∀ ty ∈ [2, 3, 4, 5], (runOf t ty).isSome)
          ∧ t.perCluster = (if field (runBody t 3) 0 1 = 1 then 56 else 64)
          ∧ ∀ n, n < 8 → getF t Reg.HUB_CAP (13 + n) (13 + n) = if stackOk t n then 1 else 0)
    ∧ Answers (.bootStage2 w0 w1 devices gib equal) s (fun t =>
        if s.pstep ≠ 5 ∨ bootStage s ≠ 2 then t = s
        else bootStage t = 3 ∧ t.pstep = 6 ∧ getF t Reg.HUB_STATUS 3 3 = 1
          ∧ getReg t Reg.AVF_PORT0_STATUS = BitVec.ofNat 32 ((if w0 = 0 then 0 else 2) + 4 * Nat.min w0 8)
          ∧ ∀ i, i < 10 → floorOf s (i + 1) ≤ floorOf t (i + 1))
    ∧ Answers (.powerUp stackIns) s (fun t => match s.pstep with
        | 0 => t.pstep = 1 ∧ run t [56]
        | 2 => if bootStage s = 1 then t.pstep = 3 ∧ run t [57, 58, 59] else t = s
        | 3 => t.pstep = 4 ∧ run t [13, 27, 41, 55] ∧ t.stackIns = stackIns
        | 4 => t.pstep = 5 ∧ run t [12, 26, 40, 54]
        | _ => t = s)

/-- R371, R397, R414, R422, R428, R440, R448: resets. An always-on reset leaves nothing but the flash, the replay-protected
area and what lies outside the package. A package reset, ignored while RST_AON_N is low, keeps the always-on domain (logs,
fatal record, service states, records but RUNTIME_FW) and goes back to step 3 of the power-up. A host port's reset ends the
programs of its contexts, or takes its CXL link down; it is released after boot with the width it trained to. -/
def Obligations.Resets : Prop :=
  ∀ (s : State) (p w : Nat),
    let bare := fun (t : State) => (∀ n, n < 3072 → s.svc = [] → (nibOf t n).st = 0 ∧ (nibOf t n).well = [])
      ∧ (∀ c, ctxOf t c = Ctx.empty) ∧ t.hbm = [] ∧ t.cmds = [] ∧ t.colls = [] ∧ t.rib = Rib.reset
      ∧ t.flash = s.flash ∧ t.rp = s.rp ∧ t.rpCount = s.rpCount ∧ t.hostMem = s.hostMem ∧ t.pending = s.pending
    Answers .aonReset s (fun t => bare t ∧ t.regs = [] ∧ t.svc = [] ∧ t.running = [] ∧ t.ftc = 0
      ∧ t.pstep = if s.pstep = 0 then 0 else 1)
    ∧ Answers (.packageReset true) s (fun t => t = s)
    ∧ (s.pstep ≠ 0 → Answers (.packageReset false) s fun t =>
        bare t ∧ t.svc = s.svc ∧ t.reports = s.reports ∧ t.ftc = s.ftc
        ∧ t.pstep = (if 2 ≤ s.pstep ∧ s.pstep ≠ 7 then 2 else s.pstep)
        ∧ runOf t 2 = none ∧ (∀ ty, ty ≠ 2 → runOf t ty = runOf s ty)
        ∧ ((∀ x ∈ s.svc, x.1 % 65536 < 256) → getF t Reg.HUB_STATUS 8 8 = 1
            ∧ ∀ off, aonReg off = true → off ≠ Reg.SEC_BOOT_STATUS → getReg t off = getReg s off))
    ∧ (p < 2 → ¬(p = 1 ∧ cxlRole s = true) → Answers (.perstAssert p) s fun t =>
        (∀ c, c < 16 → (ctxOf t c).loaded = if portOf s c = p then false else (ctxOf s c).loaded)
        ∧ getF t (Reg.AVF_PORT0_STATUS + 4 * p) 9 1 = 0)
    ∧ (cxlRole s = true → Answers (.perstAssert 1) s fun t =>
        getF t Reg.AVF_PORT1_STATUS 5 1 = 0 ∧ getF t Reg.MEM_FAR_STATUS 1 1 = 0 ∧ t.ctxs = s.ctxs)
    ∧ (p < 2 → Answers (.perstRelease p w) s fun t =>
        if getF s Reg.HUB_STATUS 3 3 = 0 then t = s
        else getF t (Reg.AVF_PORT0_STATUS + 4 * p) 1 1 = (if w = 0 then 0 else 1)
          ∧ getF t (Reg.AVF_PORT0_STATUS + 4 * p) 5 2 = Nat.min w 8
          ∧ OnlyRegs s t [Reg.AVF_PORT0_STATUS + 4 * p, Reg.MEM_FAR_STATUS])

/-- R398, R418: the power input. Over- or undervoltage is a fatal error and powers the package off, all but its always-on
domain; below the floor of that domain nothing is powered; a current above the limit stops the clocks of all four dies. An
unpowered package takes no notice. -/
def Claims.PowerInput : Prop :=
  ∀ (s : State),
    let off := fun (t : State) (bit : Nat) =>
      if powered s then t.pstep = 7 ∧ getF t Reg.PWR_ERR bit bit = 1 ∧ (∀ c, ctxOf t c = Ctx.empty)
        ∧ (∀ d, d < 60 → domState t d = if d = 56 then 2 else 0)
        ∧ getF t Reg.HUB_FATAL_CODE 7 0
            = (if getF s Reg.HUB_FATAL_CODE 7 0 = 0 then 0x30 else getF s Reg.HUB_FATAL_CODE 7 0)
      else t = s
    Answers .inputOverVoltage s (fun t => off t 1)
    ∧ Answers .inputUnderVoltage s (fun t => off t 0)
    ∧ Answers .inputBelowAonFloor s (fun t => t.pstep = 0 ∧ t.regs = [] ∧ t.hbm = [] ∧ t.flash = s.flash ∧ t.rp = s.rp)
    ∧ Answers .inputCurrentLimit s (fun t =>
        if powered s then (∀ d, d < 4 → dieStopped t d = true) ∧ getF t Reg.PWR_STATUS 2 2 = 1 ∧ getF t Reg.PWR_ERR 3 3 = 1
          ∧ OnlyRegs s t ([Reg.PWR_STATUS, Reg.PWR_ERR] ++ (List.range 4).map fun d => Reg.PWR_DIE_CLK + 4 * d)
        else t = s)

/-- R401, R402, R405, R407, R410: a wake brings its cluster to its state, or leaves it WAKING for the next wake. A die's clock
moves one step of 25 MHz toward its target, PENDING while it differs; a stopped die waits, and its stop counts. -/
def Claims.ClocksAndWakes : Prop :=
  ∀ (s : State) (d k target : Nat) (rest : List (Nat × Nat)), d < 4 →
    (s.wakes = [] → Answers .clusterWake s fun t => t = s)
    ∧ (s.wakes = (k, target) :: rest → Answers .clusterWake s fun t =>
        domState t (domOf k) = (if rest.any (fun w => w.1 = k) then 3 else target % 4)
        ∧ OnlyRegs { s with wakes := rest } t [Reg.PWR_DOM_STATE + 8 * domOf k])
    ∧ Answers (.clockStep d) s (fun t =>
        let now := dieClk s d
        let want := clkTarget s d
        let off := Reg.PWR_DIE_CLK + 4 * d
        OnlyRegs s t [off] ∧ dieStopped t d = dieStopped s d
        ∧ (dieStopped s d = true → dieClk t d = now)
        ∧ (dieStopped s d = false → now < 2023 →
            dieClk t d = (if now < want then now + 25 else if want < now then now - 25 else now))
        ∧ getF t off 27 27 = if want = dieClk t d then 0 else 1)
    ∧ Answers (.clockStop d) s (fun t =>
        if dieStopped s d then
          OnlyRegs s t [Reg.PWR_CLKSTOP_COUNT]
          ∧ (getReg t Reg.PWR_CLKSTOP_COUNT).toNat = Nat.min 0xFFFFFFFF ((getReg s Reg.PWR_CLKSTOP_COUNT).toNat + 1)
        else t = s)

/-- R406 to R409: samples. Input voltage and current show, a clock stop for current ends below 75 A but on dies that heat
stops; a window ends with its average, and the cap moves the clock of each running die 25 MHz down, to its floor at least,
or up; temperatures show and throttle or stop their die, take hot optical ports out of service, and power the package off
at the shutdown limits. -/
def Claims.PowerSamples : Prop :=
  ∀ (s : State) (mv ca hub : Nat) (doms tc tw optics : List Nat),
    (powered s = false → Answers (.powerSample mv ca doms) s (fun t => t = s) ∧ Answers .capWindow s (fun t => t = s)
      ∧ Answers (.thermalSample tc tw hub optics) s fun t => t = s)
    ∧ (powered s = true →
      Answers (.powerSample mv ca doms) s (fun t =>
        getReg t Reg.PWR_IN = BitVec.ofNat 32 (mv % 65536 + 65536 * (ca % 65536))
        ∧ t.pwin.n = s.pwin.n + 1 ∧ t.pwin.watts = s.pwin.watts + mv * ca / 100000
        ∧ ∀ d, d < 4 → dieStopped t d
            = if ca ≤ 7500 ∧ getF s Reg.PWR_STATUS 2 2 = 1 ∧ heatState s d ≠ 2 then false else dieStopped s d)
      ∧ Answers .capWindow s (fun t =>
        let avg := s.pwin.watts / Nat.max 1 s.pwin.n
        let cap := effCap s
        t.pwin = ⟨0, 0, []⟩ ∧ getF t Reg.PWR_IN_POWER 15 0 = Nat.min avg 65535
        ∧ ∀ d, d < 4 → look 1000 t.capClk d = if dieRuns s d then
            (let top := getF s Reg.PWR_CLK_MAX 10 0
             let next := if cap < avg then Nat.max (dieFloor s d) (dieClk s d - 25)
               else if 100 * avg < 95 * cap then Nat.min top (dieClk s d + 25) else dieClk s d
             if next ≥ top then 1000 else next)
          else look 1000 s.capClk d)
      ∧ (shutSensor s tc tw hub = none → Answers (.thermalSample tc tw hub optics) s fun t =>
          (∀ d, d < 4 →
            let old := heatState s d
            let a := tc.getD d 0
            let b := tw.getD d 0
            let m := Nat.max (stackDeg s (2 * d)) (stackDeg s (2 * d + 1))
            let stop := hot a 108 (old = 2) || hot b 103 (old = 2) || hot m 105 (old = 2)
            let warm := hot a 100 (old ≥ 1) || hot b 95 (old ≥ 1)
            getF t (Reg.PWR_DIE_TEMP + 4 * d) 7 0 = Nat.min a 255 ∧ getF t (Reg.PWR_DIE_TEMP + 4 * d) 15 8 = Nat.min b 255
            ∧ heatState t d = (if stop then 2 else if warm then 1 else 0) ∧ (stop = true → dieStopped t d = true))
          ∧ ∀ p, p < 32 → 85 ≤ optics.getD (p / 2) 0 → pState t p = 0 ∨ pState t p = 9)
      ∧ (shutSensor s tc tw hub ≠ none → Answers (.thermalSample tc tw hub optics) s fun t => t.pstep = 7))

/-! ### Logs, live service, the Owl (R412 to R430) -/

/-- R414 to R416: a report that reaches its log takes the next slot and SEQ with its eight words, sets its class bit and
counts; FIRST keeps the first entry until the class bits are cleared. -/
def Obligations.ErrorLog : Prop :=
  ∀ (s : State) (r : Report) (rest : List Report) (k : Nat), s.reports = r :: rest → r.cls < 4 → r.ctx.getD 16 < 17 →
    let n := r.ctx.getD 16
    let q := seqAfter (logSeq s n)
    Answers (.errorReport 1) s (fun t =>
      t.reports = rest ∧ logSeq t n = q
      ∧ (∀ i, i < 8 → getReg t (logBase n + 32 * nextSlot s n + 4 * i) = BitVec.ofNat 32 ((entryWords r q).getD i 0))
      ∧ getF t (Reg.HUB_LOG_STATUS + 0x1000 * n) r.cls r.cls = 1
      ∧ (getReg t (Reg.HUB_LOG_CNT + 0x1000 * n + 4 * r.cls)).toNat
          = Nat.min 0xFFFFFFFF ((getReg s (Reg.HUB_LOG_CNT + 0x1000 * n + 4 * r.cls)).toNat + 1)
      ∧ (getF s (Reg.HUB_LOG_STATUS + 0x1000 * n) 3 0 = 0 → getF t (Reg.HUB_LOG_STATUS + 0x1000 * n) 5 5 = 1
          ∧ ∀ i, i < 8 → getReg t (logBase n + 0x800 + 4 * i) = BitVec.ofNat 32 ((entryWords r q).getD i 0))
      ∧ (getF s (Reg.HUB_LOG_STATUS + 0x1000 * n) 3 0 ≠ 0 →
          ∀ i, i < 8 → getReg t (logBase n + 0x800 + 4 * i) = getReg s (logBase n + 0x800 + 4 * i)))
    ∧ Answers (.errorReport k) s (fun t => t.reports = s.reports.drop k ∧ t.nibs = s.nibs ∧ t.ctxs = s.ctxs ∧ t.hbm = s.hbm)

/-- R422, R423, R425: service commands on the unit that HUB_SVC_UNIT addresses, refused while the Owl does not run (6) or
where the unit does not exist (1). FENCE takes an IN_SERVICE unit out of service; TEST begins on a FENCED, PASSED or
FAILED one that carries no program, with at most eight in progress; RETURN brings a PASSED one back; ABORT ends a test; REPAIR
replaces a FAILED nib by the first spare that passes, in a new record. The end of a test gives its result and first
failing part. -/
def Obligations.LiveService : Prop :=
  ∀ (s : State) (a : Acc) (peerFree pass : Bool) (results : List Bool) (part index detail : Nat),
    let kind := (svcAddr s).1
    let u := (svcAddr s).2
    let res := fun (t : State) => getF t Reg.HUB_SVC_STATUS 7 4
    let open' := owlState s = 0 ∧ svcUnitOk s kind u = true
    (regOpen s a Reg.HUB_SVC_CMD = true →
      (¬open' → ∀ i ∈ [Instr.fence a peerFree, .testUnit a, .returnUnit a, .repair a results, .abort a],
        Answers i s fun t => res t = (if owlState s ≠ 0 then 6 else 1) ∧ OnlyRegs s t [Reg.HUB_SVC_STATUS])
      ∧ (open' →
        Answers (.fence a peerFree) s (fun t =>
          res t = 0 ∧ (svcOf s kind u ≠ 0 → OnlyRegs s t [Reg.HUB_SVC_STATUS])
          ∧ (svcOf s kind u = 0 → svcOf t kind u = 1 ∧ (kind = 1 → (nibOf t u).st = 6)
              ∧ (kind = 3 → getF t (chReg Reg.MEM_CH_STATUS u) 2 0 = 4) ∧ (kind = 4 → pState t u = 9)))
        ∧ Answers (.testUnit a) s (fun t =>
          if svcOf s kind u = 0 ∨ svcOf s kind u = 2 then res t = 2 ∧ OnlyRegs s t [Reg.HUB_SVC_STATUS]
          else if testHeld s kind u = true then res t = 3 ∧ OnlyRegs s t [Reg.HUB_SVC_STATUS]
          else if 8 ≤ (testsOf s).length then res t = 4 ∧ OnlyRegs s t [Reg.HUB_SVC_STATUS]
          else res t = 0 ∧ svcOf t kind u = 2 ∧ (kind = 1 → (nibOf t u).well = [])
            ∧ (kind ≠ 3 → t.hbm = s.hbm))
        ∧ Answers (.returnUnit a) s (fun t =>
          if svcOf s kind u ≠ 3 then res t = 2 ∧ OnlyRegs s t [Reg.HUB_SVC_STATUS]
          else res t = 0 ∧ svcOf t kind u = 0 ∧ (kind = 1 → (nibOf t u).st ≠ 6)
            ∧ (kind = 3 → getF t (chReg Reg.MEM_CH_STATUS u) 2 0 = 1))
        ∧ Answers (.abort a) s (fun t =>
          if svcOf s kind u ≠ 2 then res t = 2 ∧ OnlyRegs s t [Reg.HUB_SVC_STATUS]
          else res t = 0 ∧ svcOf t kind u = 1)
        ∧ Answers (.repair a results) s (fun t =>
          if kind ≠ 1 ∨ svcOf s 1 u ≠ 4 then res t = 2 ∧ OnlyRegs s t [Reg.HUB_SVC_STATUS]
          else let (v, p) := tryPhys s (clusterOf u) (sparePhys s (clusterOf u)) results
            t.badPhys = v.badPhys ∧ t.running = s.running
            ∧ match p.bind (writeRepair v u) with
              | some w => res t = 0 ∧ t.flash = w.flash
              | none => res t = 5 ∧ t.flash = s.flash)))
    ∧ Answers (.testEnd kind u pass part index detail) s (fun t =>
        if svcOf s kind u ≠ 2 then t = s
        else svcOf t kind u = (if pass then 3 else 4)
          ∧ getReg t Reg.HUB_SVC_INFO = BitVec.ofNat 32 (if pass then 0
              else part % 256 + 256 * (index % 256) + 65536 * Nat.min detail 65535))

/-- R427 to R430: the Owl. Its watchdog restarts it and aborts the tests; it comes back with firmware that verifies, and is
lost, with CODE 0x33 and no halt, after a third restart within ten minutes; sensors take their readings. R420, R418: a scrub
that finds nothing changes nothing; an uncorrectable entry halts its context, in a shared structure every context. -/
def Obligations.OwlAndSensors : Prop :=
  ∀ (s : State) (ecc : Bool) (c i u k : Nat),
    Answers (.owlWatchdogTimeout ecc) s (fun t =>
      if owlState s = 2 ∨ s.pstep = 0 then t = s
      else t.owlTimes = s.owlTimes ++ [s.ftc] ∧ (∀ key, look 0 s.svc key = 2 → look 0 t.svc key = 1)
        ∧ owlState t = 1 ∧ getF t Reg.HUB_OWL_STATUS (if ecc then 11 else 10) (if ecc then 11 else 10) = 1
        ∧ getF t Reg.HUB_OWL_STATUS 9 2 = Nat.min 255 (getF s Reg.HUB_OWL_STATUS 9 2 + 1))
    ∧ Answers .owlRestartComplete s (fun t =>
        if owlState s ≠ 1 then t = s
        else if 3 ≤ recentRestarts s then owlState t = 2 ∧ t.nibs = s.nibs ∧ t.ctxs = s.ctxs
          ∧ t.reports = s.reports ++ [⟨3, 0x33, 11, none, (Config.hubUnit 0).toNat, getF s Reg.HUB_OWL_STATUS 9 2, s.ftc⟩]
        else match pickSlot s 1, pickSlot s 2 with
          | some k, some _ => owlState t = 0 ∧ (runOf t 1).map (·.slot) = some k
          | _, _ => t = s)
    ∧ Answers .sensorRefresh s (fun t =>
        if s.pstep = 0 then t = s
        else t = { s with sensors := t.sensors, out := t.out } ∧ ∀ r ∈ sensorReads s, look 0 t.sensors r.1 = r.2)
    ∧ Answers (.hubScrub []) s (fun t => t = s)
    ∧ Answers (.hubScrub [.corrected u k]) s (fun t => t.nibs = s.nibs ∧ t.ctxs = s.ctxs ∧ t.regs = s.regs)
    ∧ Answers (.hubScrub [.tallyMap c i]) s (fun t => (ctxOf t c).halting = true
        ∧ ⟨2, 0x2B, 11, some c, (Config.hubUnit 3).toNat, i, s.ftc⟩ ∈ t.reports)
    ∧ Answers (.hubScrub [.dirEntry i]) s (fun t => (ctxOf t (ribCtx s)).halting = true)
    ∧ (∀ h, ctxOfTally s h = some c → Answers (.hubScrub [.hubTally h]) s fun t => (ctxOf t c).halting = true)
    ∧ Answers (.hubScrub [.shared u]) s (fun t =>
        (∀ d, d < 16 → (ctxOf s d).loaded = true → (ctxOf t d).halting = true)
        ∧ ⟨3, 0x32, 11, none, u, u, s.ftc⟩ ∈ t.reports)

/-! ### The whole block -/

/-- R77, R79: a result that is due lands before the next bundle reads its operands: the destination alone changes. s0 reads
zero and p0 all ones whatever is written to them. One that is not due waits. -/
def Claims.WritesLand : Prop :=
  ∀ (s : State) (n due : Nat) (w : Wr), (nibOf s n).pend = [⟨due, w⟩] →
    let b := nibOf s n
    let t := nibOf (commit s n) n
    ((nibOf s n).clk < due → t = b)
    ∧ (due ≤ b.clk →
        (∀ i v, w = .s i v → OnlyNib s (commit s n) n ∧ t = { b with pend := [], sregs := t.sregs }
          ∧ ∀ j, sreg t j = if j = i ∧ i ≠ 0 then v else sreg b j)
        ∧ (∀ i v, w = .a i v → OnlyNib s (commit s n) n ∧ t = { b with pend := [], aregs := t.aregs }
          ∧ ∀ j, areg t j = if j = i then v else areg b j)
        ∧ (∀ i m v, w = .p i m v → OnlyNib s (commit s n) n ∧ t = { b with pend := [], pregs := t.pregs }
          ∧ ∀ j, preg t j = if j = i ∧ i ≠ 0 then (preg b i &&& ~~~m) ||| (v &&& m) else preg b j)
        ∧ (∀ k v, w = .acc k v → OnlyNib s (commit s n) n ∧ t = { b with pend := [], acc := t.acc }
          ∧ ∀ j, look 0 t.acc j = if j = k then v else look 0 b.acc j))

/-- One step takes the command at the front of the queue, whatever it is, and answers what that command answers in the state
with the queue's rest. With nothing in the queue the Fabric Time Counter alone counts (the model's choice, log entry 2): a
nanosecond, with the correction that FTC_RATE gives in units of 2⁻³²; 40 ns by the keeper while the hub core is gated;
nothing in a package without power. -/
def Obligations.StepRunsFront : Prop :=
  (∀ (s : State) (c : Instr), step { s with pending := c :: s.pending } = exec c s)
  ∧ ∀ (s : State), s.pending = [] → ∃ t, step s = .next t ∧ t = { s with ftc := t.ftc, ftcFrac := t.ftcFrac }
    ∧ (s.pstep = 0 → t = s)
    ∧ (s.pstep ≠ 0 → domState s 57 ≠ 2 → t = { s with ftc := s.ftc + 40 })
    ∧ (s.pstep ≠ 0 → domState s 57 = 2 → t.ftcFrac < 2 ^ 32
        ∧ ((2 ^ 32 * t.ftc + t.ftcFrac : Nat) : Int)
          = (2 ^ 32 * (s.ftc + 1) + s.ftcFrac : Nat) + (getReg s Reg.FTC_RATE).toInt)

/-- The modes are legal ones: 56 or 64 nibs to a cluster (R1, R14), a step of the power-up sequence (R400) or powered off, a
JTAG instruction that the port has (R443). -/
def Claims.modesLegal (s : State) : Bool :=
  (s.perCluster == 56 || s.perCluster == 64) && decide (s.pstep ≤ 7) && decide (s.tap.ir ≤ 3)

/-- Every command leaves the modes legal, and consumes itself: no command puts one into the queue, drops one or changes their
order (R1, R14, R400, R443). -/
def Obligations.QueueAndModes : Prop :=
  ∀ (s t : State), Claims.modesLegal s = true → step s = .next t →
    Claims.modesLegal t = true ∧ t.pending = s.pending.tail

/-- R50, R246, R271, R300, R301, R326, R347, R373, R374, R378, R411, R431, R433, R440, R443: the package after an always-on
reset. The registers whose reset value the manual gives hold it, the identification registers read as it states, no context
has a program, no nib runs, nothing waits, boot has not begun, every port is DOWN, the JTAG port shows IDCODE; the modes are
legal. Values that the model chooses (log entries 1 and 15) are not stated here. -/
def Obligations.ResetState : Prop :=
  let s := State.reset
  Claims.modesLegal s = true ∧ s.pending = [] ∧ s.cmds = [] ∧ s.colls = [] ∧ s.signals = []
  ∧ (∀ c, (ctxOf s c).loaded = false) ∧ (∀ n, (nibOf s n).st = 0 ∧ running (nibOf s n) = false)
  ∧ bootStage s = 0 ∧ s.tap.ir = 3 ∧ ribState s = 0 ∧ (∀ p, p < 32 → pState s p = 0) ∧ (∀ h, (talOf s h).count = 0)
  ∧ (∀ n, n < 3072 → getF s Reg.HUB_CORR_THR 15 0 = 1000
      ∧ fld (nibReg (nibOf s n) Reg.NIB_ABFT_CTRL) 12 8 = 12 ∧ fld (nibReg (nibOf s n) Reg.NIB_ABFT_CTRL) 19 16 = 3)
  ∧ (∀ c, c < 16 → getF s (Reg.RTR_CTX_SLAB + 0x20 * c) 28 16 = 4096 ∧ getF s (Reg.SEC_SEAL_LOGCFG + 0x40 * c) 4 0 = 4
      ∧ getF s (talReg Reg.FTC_TALC_HANG_CTRL c) 15 0 = 100)
  ∧ (∀ c q, c < 16 → q < 16 → getReg s (pairReg Reg.AVF_Q_SIZE c q) = 0x0606)
  ∧ (∀ n, n < 17 → getF s (Reg.HUB_LOG_CTRL + 0x1000 * n) 3 0 = 0xE)
  ∧ (∀ d, d < 4 → getF s (Reg.PWR_DIE_CLK + 4 * d) 10 0 = 1000)
  ∧ (∀ p, p < 32 → getF s (portReg Reg.LNK_CTRL p) 0 0 = 1 ∧ getF s (portReg Reg.LNK_ARB p) 11 0 = 0x224)
  ∧ getF s Reg.RIB_HOP_TIMEOUT 15 0 = 200 ∧ getF s Reg.AVF_PRI_TIMEOUT 15 0 = 1000
  ∧ getF s Reg.PWR_CAP 15 0 = 2600 ∧ getF s Reg.PWR_CAP 23 16 = 1 ∧ getF s Reg.PWR_CLK_MAX 10 0 = 1000
  ∧ regView s Reg.HUB_ID = 0x10011F4B ∧ regView s Reg.RIB_ID = 0x100009C0 ∧ regView s Reg.MEM_ID = 0x10008100
  ∧ regView s Reg.LNK_ID = 0x10000220 ∧ regView s Reg.PWR_ID = 0x1000003C

/-- R72, R73, R84, R85, R89, R109, R117, R127: the slots of a bundle are decoded from the bits at which they are encoded: for
every predicate of every slot, every valid control operation, and every value of every field of the other four slots, the
bundle whose 256 bits hold their words is the bundle of these operations. No bit of an encoding is dropped, and no two
bundles share their bits. -/
def Obligations.SlotRoundTrip : Prop :=
  ∀ (p1 p2 p3 p4 p5 : Pred) (o : Ctl) (mop : BitVec 4) (mf : MatF) (vop : BitVec 8) (vf : VecF) (top : BitVec 6) (tf : StmF)
    (y : Syn), ctlOk o = true →
    let word := word32 p5 (synBits y) ++ stmWord p4 top tf ++ vecWord p3 vop vf ++ matWord p2 mop mf ++ word32 p1 (ctlBits o)
    bundleOf word =
      ⟨⟨p1, some o, word32 p1 (ctlBits o)⟩, ⟨p2, some (mop.toNat, mf), (matWord p2 mop mf).extractLsb' 0 32⟩,
       ⟨p3, some (vop.toNat, vf), (vecWord p3 vop vf).extractLsb' 0 32⟩,
       ⟨p4, some (top.toNat, tf), (stmWord p4 top tf).extractLsb' 0 32⟩, ⟨p5, some y, word32 p5 (synBits y)⟩⟩

/-! ### Completion of every command -/

/-- R72, R76, R78, R88, R103: a command of one instruction completes at a nib that is due to issue in this cycle, whatever the
conditions of the cycle: where nothing freezes its bundle (R34), its sync slot waits for nothing (R128), no slot faults (R101)
and it does not halt, the slot takes effect from the registers as they stand at issue and the nib moves on. A wait or test
does so once it is answered, halt ends the program, trap faults, and a bundle from the nib's own code issues in the same way. A halt that arrives stops the nib. -/
def Claims.SlotCommandsComplete : Prop :=
  ∀ (s : State) (n c : Nat) (p : Pred) (cy : Cyc) (sd sa sb sc : BitVec 5) (func : BitVec 7) (i12 count : BitVec 12)
    (i17 off : BitVec 17) (i16 : BitVec 16) (i14 : BitVec 14) (pd pa pb sh : BitVec 3) (cond sel ad aa n1 : BitVec 4)
    (pfn : BitVec 2) (len : BitVec 10) (tid : BitVec 20) (up remote : Bool) (vf : VecF) (mf : MatF) (tf : StmF),
    let due := fun (cy : Cyc) => nibDue s n c = true ∧ cy.ecc = .clean
    let at' := fun (cy : Cyc) => commit (wellCycle s n cy) n
    let does := fun (i : Instr) (x : Bundle) (cy : Cyc) => due cy → issueOk (at' cy) n c x cy = true →
      Answers i s fun t => IssuedFrom (at' cy) t n c x cy
    let ctl := fun (i : Instr) (o : Ctl) => does i (ctlBundle p o) {}
    let vec := fun (i : Instr) (op : BitVec 8) => does i (vecBundle p op vf) {}
    let mat := fun (i : Instr) (op : BitVec 4) (cy : Cyc) => does i (matBundle p op mf) cy
    let stm := fun (i : Instr) (op : BitVec 6) (cy : Cyc) => does i (stmBundle p op tf) cy
    let syn := fun (i : Instr) (o : Syn) (cy : Cyc) => does i (synBundle p o) cy
    let wait := fun (i : Instr) (o : Syn) =>
      let x := synBundle p o
      let r := waitStep (at' {}) n x (waitOf (at' {}) n c x.syn)
      due {} → stageFrz (at' {}) n {} = none → bundleFaults (at' {}) n c x = [] → r.1 = true → bundleFaults r.2 n c x = [] →
        Answers i s fun t => IssuedFrom r.2 t n c x {}
    does (.bundleIssue n cy) (bundleOf ((nibOf s n).code.getD (nibOf s n).pc 0)) cy
    ∧ ctl (.alu n p sd sa sb func) (.alu sd sa sb func) ∧ ctl (.addiS n p sd sa i12) (.immS 0 sd sa i12)
    ∧ ctl (.andiS n p sd sa i12) (.immS 1 sd sa i12) ∧ ctl (.oriS n p sd sa i12) (.immS 2 sd sa i12)
    ∧ ctl (.xoriS n p sd sa i12) (.immS 3 sd sa i12) ∧ ctl (.shliS n p sd sa i12) (.immS 4 sd sa i12)
    ∧ ctl (.shriS n p sd sa i12) (.immS 5 sd sa i12) ∧ ctl (.sraiS n p sd sa i12) (.immS 6 sd sa i12)
    ∧ ctl (.moviS n p sd i17) (.movi sd i17) ∧ ctl (.movhS n p sd i16) (.movh sd i16)
    ∧ ctl (.pset n p pd sa sb cond) (.pset pd sa sb cond) ∧ ctl (.plog n p pd pa pb pfn) (.plog pd pa pb pfn)
    ∧ ctl (.aaddA n p ad aa sb sh) (.aadd ad aa sb sh) ∧ ctl (.aaddiA n p ad aa i14) (.aaddi ad aa i14)
    ∧ ctl (.asetA n p ad sa up) (.aset ad sa up) ∧ ctl (.amvS n p sd aa up) (.amv sd aa up)
    ∧ ctl (.bra n p off) (.bra off) ∧ ctl (.jal n p off) (.jal off) ∧ ctl (.jr n p sa) (.jr sa)
    ∧ ctl (.loopS n p sc len) (.loops sc len) ∧ ctl (.loopi n p count len) (.loopi count len)
    ∧ ctl (.rdsys n p sd sel) (.rdsys sd sel)
    ∧ vec (.vadd n p vf) 0x01 ∧ vec (.vsub n p vf) 0x02 ∧ vec (.vmul n p vf) 0x03 ∧ vec (.vfma n p vf) 0x04
    ∧ vec (.vmin n p vf) 0x08 ∧ vec (.vmax n p vf) 0x09 ∧ vec (.vcmp n p vf) 0x0A ∧ vec (.vsel n p vf) 0x0B
    ∧ vec (.viadd n p vf) 0x10 ∧ vec (.visub n p vf) 0x11 ∧ vec (.viand n p vf) 0x12 ∧ vec (.vior n p vf) 0x13
    ∧ vec (.vixor n p vf) 0x14 ∧ vec (.vishl n p vf) 0x15 ∧ vec (.vishr n p vf) 0x16 ∧ vec (.visra n p vf) 0x17
    ∧ vec (.vexp2 n p vf) 0x20 ∧ vec (.vlog2 n p vf) 0x21 ∧ vec (.vexp n p vf) 0x22 ∧ vec (.vlog n p vf) 0x23
    ∧ vec (.vrcp n p vf) 0x24 ∧ vec (.vrsqrt n p vf) 0x25 ∧ vec (.vsmx n p vf) 0x28 ∧ vec (.vrsum n p vf) 0x29
    ∧ vec (.vrmax n p vf) 0x2A ∧ vec (.vtopk n p vf) 0x2C ∧ vec (.vcvt n p vf) 0x30 ∧ vec (.vbcast n p vf) 0x38
    ∧ vec (.vget n p vf) 0x39 ∧ vec (.vmov n p vf) 0x3A ∧ vec (.vdga n p vf) 0x3C
    ∧ mat (.mld n p mf cy) 1 cy ∧ mat (.mlda n p mf cy) 2 cy ∧ mat (.mmul n p mf cy) 3 cy
    ∧ mat (.mdrain n p mf) 4 {} ∧ mat (.mpop n p mf) 5 {}
    ∧ stm (.xfer n p tf cy) 1 cy ∧ stm (.sld n p tf cy) 2 cy ∧ stm (.sst n p tf cy) 3 cy ∧ stm (.rbset n p tf) 4 {}
    ∧ stm (.rbpop n p tf) 5 {} ∧ stm (.stg n p tf cy) 6 cy ∧ stm (.stgs n p tf) 7 {} ∧ stm (.xcancel n p tf) 8 {}
    ∧ syn (.tsig n p tid n1) (.tsig tid n1) {} ∧ syn (.tsigR n p sa sb) (.tsigR sa sb) {}
    ∧ syn (.coll n p aa tid cy) (.coll aa tid) cy
    ∧ wait (.twait n p tid n1) (.twait tid n1) ∧ wait (.twaitR n p sa sb) (.twaitR sa sb)
    ∧ wait (.ttest n p tid pd) (.ttest tid pd) ∧ wait (.ttestR n p sa sb pd) (.ttestR sa sb pd)
    ∧ (due {} → stageFrz (at' {}) n {} = none →
        (bundleFaults (at' {}) n c (ctlBundle p .halt) = [] → predHolds (nibOf (at' {}) n) p = true →
          exec (.halt n p) s
            = .next (fenceCheck (takeHalt (finishIssue (runSlots (at' {}) n c (ctlBundle p .halt) {}) n (some .halt)) n) n))
        ∧ (atLoopEnd (nibOf (at' {}) n) = false → predHolds (nibOf (at' {}) n) p = true →
          exec (.trap n p i16) s = .next (fenceCheck (takeFault (at' {}) n c 0 0x06 i16.toNat false) n)))
    ∧ (populated s n = true → ctxOfNib s n = some c → (ctxOf s c).loaded = true →
        (ctxOf s c).halting = true ∨ remote = true → (nibOf s n).st = 1 ∨ (nibOf s n).st = 2 →
        (nibOf s n).checks = [] → ∃ t, exec (.contextHaltArrival n remote) s = .next t
          ∧ (nibOf t n).st = 5 ∧ (nibOf t n).hold = none ∧ (nibOf t n).pend = [])

/-- R35, R115, R122, R124, R142, R143, R147, R154, R166 to R181, R250, R262 to R268: the commands that go on beside the bundles
of nibs complete: streamed rows, transfer tags, stages, signals, the watchdog, the movement of weights, the expander. -/
def Claims.MovementCommandsComplete : Prop :=
  ∀ (s : State) (n c m k x d f cycle time : Nat) (cy : Cyc) (w : List WellEv) (bad ecc : List Nat) (y : Xfer) (src : SigSrc)
    (t : TalRef) (ext : List ExtSignal) (a : Acc) (v : BitVec 32) (mismatch : Bool),
    let does := fun (i : Instr) (u : State) => exec i s = .next u
    (populated s n = true →
      does (.streamOutWrite n w) (streamOut (wellEvents s w) n)
      ∧ ((nibOf (wellEvents s w) n).xfers.find? (fun y => y.id = x) = some y → y.cancelled = false →
          does (.tagLand n x k bad w)
            (finishHalt (landTag (detect (wellEvents s w) (y.dst.owner n) 2 bad.length) n y k bad) n))
      ∧ ((nibOf (wellCycle s n cy) n).st = 2 → does (.stageStep n cy) (stageCycle (wellCycle s n cy) n cy))
      ∧ does (.stageStreamIn n cy) (stageStreamIn (wellCycle s n cy) n) ∧ does (.stageEnd n) (stageEnd s n)
      ∧ does (.remoteWaitArrive n) (remoteWait s n) ∧ does (.rotationForward n k bad w) (rotate (wellEvents s w) n k bad)
      ∧ does (.expanderFactorLoad n w) (factorLoad (wellEvents s w) n)
      ∧ does (.expanderTile n mismatch w) (expTile (wellEvents s w) n mismatch)
      ∧ (regOpen s a (nibOffset n Reg.NIB_FRZ_CTRL) = true → v.getLsbD 0 = true →
          does (.frzClear a n v) (onNib s n clearFreezes)))
    ∧ ((∀ n', src = .nib n' → populated s n' = true) → does (.signalRelease src k) (release s src k))
    ∧ (talOk s t = true → does (.signalArrive t k ext) (signalsArrive s t k ext))
    ∧ (c < 16 → (ctxOf s c).halting = false → hungNib (atTime s time) c = some m →
        does (.hangWatchdog c time) (hang (atTime s time) c m))
    ∧ (regOpen s a Reg.FTC_TAL_WIN = true → does (.talWinRead a v) (talWindow s (v ||| 0x40000000))
        ∧ does (.talWinWrite a v) (talWindow s (v ||| 0x80000000)))
    ∧ (d < 4 → (c < 12 → does (.chainForward d c k bad ecc w) (chainStep (wellEvents s w) d c k bad ecc))
        ∧ does (.landingFrameRelease d) (releaseFrame s d) ∧ does (.meshFlitSend d f cycle) (meshSend s d f cycle)
        ∧ does (.crossingDeliver d f) (crossing s d f))

/-- R183 to R219: the commands of the ribbon complete: those of RIB_CMD at an accessor that may write it, marks and blocks on
the hops, timeouts and closures. -/
def Claims.RibbonCommandsComplete : Prop :=
  ∀ (s : State) (a : Acc) (v : BitVec 32) (policy : BitVec 2) (ready ccw joined : Bool) (pos port set m time : Nat)
    (ribbon : Nat) (dig : BitVec 128) (mark : MarkIn) (data : List (BitVec 8)) (bad : List Nat),
    let does := fun (i : Instr) (u : State) => exec i s = .next u
    (regOpen s a Reg.RIB_CMD = true →
      does (.form a) (formCmd s) ∧ does (.start a) (ribStart s) ∧ does (.stop a) (stopCmd s) ∧ does (.estop a) (estopCmd s)
      ∧ does (.resume a ready) (resumeCmd ready s) ∧ does (.switch a policy) (switchCmd policy.toNat s)
      ∧ does (.release a) (releaseCmd s))
    ∧ (regOpen s a Reg.RIB_DIR_INDEX = true → does (.dirRead a v) (dirIndexWrite (v ||| 0x40000000) s)
        ∧ does (.dirWrite a v) (dirIndexWrite (v ||| 0x80000000) s))
    ∧ (ribState s = 0 → does (.formMarkReceive ccw ribbon pos port)
        (formCheck (onRib s fun r => { r with formFrom := r.formFrom ++ [(ccw, ribbon, pos, ringHop s ccw port, s.ftc)] })))
    ∧ (∀ since, s.rib.forming = some since → 10000000000 ≤ (atTime s time).ftc - since →
        does (.formTimeout time) (formRefused (atTime s time) 0))
    ∧ (let u := onRib s fun r =>
        { r with digs := (r.digs.filter fun d => !(d.1 = set && d.2.1 = pos)) ++ [(set, pos, dig)] }
       let u := if 1 < ribN u && ribNext u (ribPos u) ccw ≠ pos then passDirchk u ccw pos set dig else u
       (u.rib.forming.isSome = true → does (.dirchkReceive ccw pos set dig) (formCheck u))
       ∧ (u.rib.forming.isSome = false → 1 ≤ ribState u → set = shadowSet u →
          does (.dirchkReceive ccw pos set dig) (judgeShadow u)))
    ∧ does .estopReceive (estop s)
    ∧ (isLead s = true → lapSent s = true → ribState s = 3 → s.rib.stopping = true →
        does .lapMarkOriginate (originateStop s))
    ∧ (isLead s = true → lapSent s = true → ribState s = 2 → s.rib.returned.contains false = true →
        s.rib.returned.contains true = true → s.rib.begun < s.rib.closed + 8 → does .lapMarkOriginate (originate s))
    ∧ does (.lapMarkReceive ccw mark) (markIn s ccw mark) ∧ does (.lapMarkReturn ccw mark) (markReturn s ccw mark)
    ∧ does (.stopMarkReceive ccw mark) (stopMarkIn s ccw mark)
    ∧ (hopsUsed s = true → does (.heartbeat ccw true) (onDir s ccw fun d => { d with heard := s.ftc })
        ∧ does (.heartbeat ccw false) (putMark s "HEARTBEAT" ccw 3 (ownMark s) (markTail (ownMark s))))
    ∧ (let u := atTime s time
       hopsUsed u = true → 1000 * Nat.max 50 (getF u Reg.RIB_HOP_TIMEOUT 15 0) ≤ u.ftc - (ribDir u ccw).heard →
        does (.hopTimeout ccw time)
          (memberFailed (ribErr (setF u Reg.RIB_ERR_INFO 24 19 (upstream u ccw)) 6) (upstream u ccw)))
    ∧ does .lapClose (lapClose s)
    ∧ (ribState s = 2 ∨ ribState s = 3 → does (.blockLaunch pos) (launchOn (launchOn s false pos) true pos)
        ∧ does (.slabLand pos) (landBlock s pos))
    ∧ does (.slabForward ccw pos data bad) (unitIn s ccw pos data bad)
    ∧ does (.memberFailed m) (memberFailed s m) ∧ does (.ribbonClosure joined) (closure s joined)

/-- R6, R9 to R11, R221 to R246, R350, R352, R434, R443: accesses to registers and memory complete, and so do the commands of
MEM_CMD, the slots of channels, what fails in the stacks and the CXL link, and the JTAG port's instructions. -/
def Claims.AccessesComplete : Prop :=
  ∀ (s : State) (a : Acc) (off r i ch st temp time p f len dpa corr lands preload : Nat) (v set : BitVec 32) (cond : Bool)
    (uncorr poison fabric : Bool) (data : List (BitVec 8)) (wr : Option (List (BitVec 8) × Bool)),
    let does := fun (i : Instr) (u : State) => exec i s = .next u
    (regOpen s a off = true → does (.registerWrite a off v set cond) (regWrite s a off v set cond)
        ∧ does (.pairLowWrite a off v) (regWrite s a off v 0 false) ∧ does (.pairHighWrite a off v) (regWrite s a off v 0 false))
    ∧ (regReadable s a off = true →
        (pairPart off = 1 → does (.pairLowRead a off)
          { s with busPoison := false, busData := (regView s off).toNat
                   latches := pairHold s.latches a off (regView s (off + 4)) })
        ∧ (pairPart off = 2 → does (.pairHighRead a off)
          { s with busPoison := false, busData := ((pairSlot s.latches a (off - 4)).getD (regView s off)).toNat
                   latches := pairClear s.latches a (off - 4) }))
    ∧ (accReady s a = true → implemented s off = false →
        does (.unmappedAccess a off true) (noteUnmapped s a true off)
        ∧ does (.unmappedAccess a off false) (noteUnmapped { s with busData := 0, busPoison := false } a false off))
    ∧ (r < 64 → i < 4 → regOpen s a (regOff Reg.MEM_REG_BASE r + 4 * i) = true →
        does (.regionWrite a r i v) (Machine.regionWrite s r i v))
    ∧ (regOpen s a Reg.MEM_CMD = true → does (.zero a r) (memCmd s 1 (r % 64)) ∧ does (.rebuild a r) (memCmd s 2 (r % 64))
        ∧ does (.refold a r) (memCmd s 3 (r % 64)))
    ∧ (r < 64 → does (.rebuildStripe r) (Machine.rebuildStripe s r))
    ∧ does (.hbmRead dpa corr uncorr) (Machine.hbmRead s dpa corr uncorr)
    ∧ does (.hbmWrite dpa data poison) (writeDpa s dpa data (List.replicate (data.length / 64 + 2) poison) false)
    ∧ (exactAdder s dpa data.length = false →
        does (.adderWrite dpa data poison) (writeDpa s dpa data (List.replicate (data.length / 64 + 2) poison) true))
    ∧ (ch < 256 → does (.refreshSlot ch time) (slotShared (atTime s time) ch)
        ∧ does (.calibrationSlot ch time) (calibrate (slotShared (atTime s time) ch) ch)
        ∧ (tableBinds s ch = false → does (.opportunisticCalibration ch time) (calibrate (atTime s time) ch))
        ∧ (chState s ch ≠ 3 → does (.channelFail ch false)
            (channelFails (raise s 0 0x04 3 none ch (3 + 256 * (Config.causeCode 10).toNat)) ch 3))
        ∧ ∃ t, exec (.channelFail ch fabric) s = .next t ∧ chState t ch = 3)
    ∧ (st < 8 → does (.stackTempReport st temp time) (stackTemp (atTime s time) st temp)
        ∧ (coldTable s st = true → 1 ≤ getF s (stkReg Reg.MEM_STK_STATUS st) 9 8 →
            does (.offScheduleRefresh st) (setBit s (stkReg Reg.MEM_STK_STATUS st) 10)))
    ∧ does .cxlLinkDown (cxlDown s)
    ∧ (accReady s (.host p f) = true → portOf s f = p →
        does (.bar4Access (.host p f) off len wr) (bar4 s f (getReg64 s (perCtx Reg.AVF_CTX_BAR4 0x1000 f) + off) len wr))
    ∧ does .bypass (Machine.bypass s) ∧ does .idcode { s with tap := { s.tap with ir := 3, dr := 0x0A10A3E9 } }
    ∧ does (.samplePreload lands preload) { s with tap := ⟨1, lands, preload⟩ }
    ∧ does (.extest true lands) (send { s with tap := { s.tap with ir := 2, dr := lands } } (.packet "BOUNDARY" 0 [s.tap.boundary]))

/-- R272 to R301, R424: the commands of the links, of the route window and of the Fabric Time Counter complete at a port that
exists, in the state that each is for. -/
def Claims.LinkCommandsComplete : Prop :=
  ∀ (s : State) (a : Acc) (p seq lane lanes ns margin time : Nat) (f : FlitIn) (errs : List Nat) (hit accepted peerFree : Bool)
    (i : IdentIn) (v : BitVec 32) (apart : List (Nat × Nat)), p < 32 →
    let does := fun (i : Instr) (u : State) => exec i s = .next u
    let u := atTime s time
    (pState s p = 6 → does (.flitSend p) (flitSlot s p)) ∧ (pState s p = 7 → does (.flitSend p) (putControl s p))
    ∧ does (.flitReceive p f errs hit) (flitIn s p f errs hit) ∧ does (.nakReceive p seq) (nakIn s p seq)
    ∧ (pState s p = 6 ∨ pState s p = 10 → lane < 4 →
        (1000 < ns → does (.fecLockLoss p lane ns) (laneLeaves (setBit s (portReg Reg.LNK_ERR p) 1) p lane 2))
        ∧ does (.laneSpare p lane peerFree) (Machine.laneSpare s p lane peerFree)
        ∧ does (.portDown p false apart) (portLeaves { s with apart := apart } p 0 3))
    ∧ (pState s p = 1 → does (.lightDetect p) (setPState s p 2 0))
    ∧ (pState s p = 2 → does (.equaliseComplete p) (setPState s p 3 0))
    ∧ (pState s p = 3 → lanes % 16 = 15 →
        does (.fecLockAcquire p lanes) (sendIdentity (setPState (setLanes s p (lanes % 16)) p 4 0) p))
    ∧ (2 ≤ pState s p → pState s p ≤ 4 → trainLimit (pState s p) ≤ u.ftc - (portOfLink s p).since →
        does (.trainingTimeout p time) (setPState u p 0 5))
    ∧ (pState s p = 5 → trainLimit 5 ≤ u.ftc - (portOfLink s p).since →
        does (.trainingTimeout p time) (setPState (setBit u (portReg Reg.LNK_ERR p) 3) p 7 4))
    ∧ (pState s p = 0 → mayTrain s p = true → 1000000000 ≤ u.ftc - (portOfLink s p).since →
        does (.trainingRetry p time) (setPState u p 1 0))
    ∧ does (.identityFlitReceive p i accepted) (identIn s p i accepted)
    ∧ (regOpen s a (portReg Reg.LNK_CTRL p) = true → does (.retrain a p v) (lnkCtrl s p (v ||| 2)))
    ∧ (lane < 4 → margin ≤ 100 → does (.linkRecalBurst p lane margin time) (recal s p lane margin time))
    ∧ (pState s p = 10 →
        does (.recalibrationBurstEnd p) (setPState (setF s (portReg Reg.LNK_CAL p) 16 16 0) p 6 0))
    ∧ (regOpen s a Reg.LNK_ROUTE_WIN = true → does (.routeWinRead a v) (routeWin (v ||| 0x40000000) s)
        ∧ does (.routeWinWrite a v) (routeWin (v ||| 0x80000000) s))
    ∧ does (.ftcExchange p) (Machine.ftcExchange s p) ∧ does .ftcParentLost (parentLost s)
    ∧ does .ftcHoldoverTick (holdoverTick s) ∧ does .ftcRefEdge (refEdgeIn s)
    ∧ (refOn s = true → 1100000000 ≤ u.ftc - s.refEdge →
        does (.ftcRefTimeout time) (setF (setBit u Reg.FTC_ERR 3) Reg.FTC_STATUS 10 10 0))

/-- R304 to R324, R327, R338 to R340: the commands of collectives, of Exact Mode and of job starts complete. -/
def Claims.CollectiveAndStartCommandsComplete : Prop :=
  ∀ (s : State) (a : Acc) (c id tag src owner seq stage mark tgt members crc ecc time res member pass layer : Nat)
    (lanes order delay : List Nat) (poison : List Bool) (lost ok : Bool) (others : List AgreeIn) (v : BitVec 32) (w : BitVec 64)
    (r : StartIn),
    let does := fun (i : Instr) (u : State) => exec i s = .next u
    let u := atTime s time
    (tagCtx s tag = some c → does (.segmentArrive tag id src owner seq mark members lanes poison crc lost ecc)
        (segArrive s c id src owner seq mark members lanes poison crc lost ecc))
    ∧ does .slabSlotGrant (slotGrant s) ∧ does (.collAgreement c id others order) (agreement s c id others order)
    ∧ does (.endpointFallback c id owner seq stage time) (Machine.endpointFallback s c id owner seq stage time)
    ∧ does (.segmentAcknowledge c id owner seq mark tgt ok) (segAck s c id owner seq mark tgt ok)
    ∧ does (.collComplete c id) (Machine.collComplete s c id)
    ∧ (c < 16 →
      (regOpen s a (perCtx Reg.FTC_CTX_MODE 0x20 c) = true → does (.exactModeWrite a c v) (modeWrite c v s))
      ∧ (regOpen s a (perCtx Reg.FTC_CTX_START_HI 0x20 c) = true →
          does (.startArm a c w) (armStart (setReg64 s (perCtx Reg.FTC_CTX_START 0x20 c) w.toNat) c))
      ∧ does (.startRecordReceive c r) (judgeStart (onStart s c fun x => { x with
          recs := (x.recs.filter fun z => z.idx ≠ r.idx) ++ [⟨r.idx, r.packages, r.image.toNat, r.exact, r.rev, r.t⟩] }) c)
      ∧ (startState s c = 1 →
          does (.goReceive c) (onStart s c fun x => { x with go := true })
          ∧ does (.refuseReceive c res member) (refuseStart s c res member)
          ∧ ((startOf s c).go = false → startTime s c ≤ u.ftc →
              does (.startVerdictTimeout c time) (refuseStart u c 6 (packageIndex s c)))
          ∧ (packageIndex s c = 0 → (startOf s c).judged = false → startTime s c ≤ u.ftc + 20000 →
              does (.startRecordTimeout c time) (refuseAll u c 6 (((List.range (ctxOf s c).packages).find? fun p =>
                p ≠ 0 && !((startOf s c).recs.any fun r => r.idx = p)).getD 0))))
      ∧ does (.jobStart c delay) (Machine.jobStart s c delay) ∧ does (.layerRecordWrite c pass layer) (layerWrite s c pass layer))

/-- R354 to R371, R198, R243, R343, R387 to R395: the commands of the host interface complete: doorbells, queues, functions,
and each opcode whose command is the pair's next, with the operands that its rule accepts. -/
def Claims.HostCommandsComplete : Prop :=
  ∀ (s : State) (a : Acc) (c q i seq k n port len : Nat) (v : BitVec 32) (w : BitVec 64) (x y : AvCmd) (ep : List Nat) (ok : Bool)
    (pos no time : Nat) (body : List (BitVec 8)) (dst : SigDst) (t : TalRef), c < 16 → q < 16 →
    let does := fun (i : Instr) (u : State) => exec i s = .next u
    let late := atTime s time
    (doorbellCtx s a = some i → does (.sqTailDoorbell a q v) (sqDoorbell s i q (fld v 15 0))
        ∧ does (.cqHeadDoorbell a q v) (cqDoorbell s i q (fld v 15 0)))
    ∧ does (.commandFetch c q) (Machine.commandFetch s c q) ∧ does (.completionWrite c q) (Machine.completionWrite s c q)
    ∧ (regOpen s a (pairReg Reg.AVF_Q_CTRL c q) = true →
        does (.queueEnable a c q v) (ctrlWrite s a c q (v ||| 1)) ∧ does (.queueDisable a c q v) (ctrlWrite s a c q (v &&& 0xFFFFFFFE))
        ∧ does (.queuePause a c q v) (ctrlWrite s a c q (v ||| 2)) ∧ does (.queueResume a c q v) (ctrlWrite s a c q (v &&& 0xFFFFFFFD)))
    ∧ does (.busMasterDisable c) (busMasterOff s c) ∧ does (.busMasterEnable c) { s with bmeOff := s.bmeOff.filter (· ≠ c) }
    ∧ does (.functionLevelReset c) (functionReset s c)
    ∧ (regOpen s a (perCtx Reg.AVF_CTX_CLUSTERS 0x1000 c) = true → does (.clustersWrite a c w) (Machine.clustersWrite s a c w))
    ∧ (regOpen s a (perCtx Reg.AVF_CTX_BIND 0x1000 c) = true → does (.contextBindWrite a c v) (bindWrite s c v))
    ∧ (readyCmd s c q = some x →
        let y := { x with started := true, since := s.ftc }
        let u := onCmd s x.no fun _ => y
        (x.f 0 1 = 0 → does (.nop c q) (complete u y 0 0 0))
        ∧ (x.f 0 1 = 2 → does (.unload c q) (complete (unloadCtx u c) y 0 0 0))
        ∧ (x.f 0 1 = 3 → xferOk y = true → (y.sigEn = true → (resolveTid u c none y.xferTid false).isSome = true) →
            (∀ k, k < y.total → (stripPlace u y k).isSome = true) → does (.hostXfer c q) u)
        ∧ (x.f 0 1 = 4 → y.f 0x14 2 ≠ 0 → resolveTid u c none (y.f 0x10 4 % 2 ^ 20) false = some dst →
            does (.tallySignal c q) (complete (hostSignal u c dst (y.f 0x14 2) (hostCovers u c dst)) y 0 0 0))
        ∧ (x.f 0 1 = 5 → resolveTid u c none (y.f 0x10 4 % 2 ^ 20) true = some (.here t) →
            does (.tallyWait c q) (enqueue u ⟨t, hostWho y, y.f 0x14 2, false⟩))
        ∧ (x.f 0 1 = 6 → c = ribCtx u → ribState u ≠ 7 →
            does (.ribReq c q) (onRib u fun r => { r with queue := queueIn (y.no, switching u) r.queue }))
        ∧ (x.f 0 1 = 7 → cxlRole u = true → portOf u c = 0 → y.f 0x10 8 % 4096 = 0 → y.f 0x18 8 % 4096 = 0 → y.len % 4096 = 0 →
            y.f 0x28 1 ≤ 1 → (resolveTid u c none (y.f 0x2C 4 % 2 ^ 20) false).isSome = true →
            y.f 0x18 8 + y.len ≤ 2 ^ 30 * getF u Reg.MEM_FAR_SIZE 12 0 → y.len ≤ Config.hbmBytes →
            farGranted u c (y.f 0x18 8) y.len = true → dpaOwned (y.len / 4096 + 1) u c (y.f 0x10 8) y.len = true →
            getF u Reg.MEM_FAR_STATUS 1 1 ≠ 0 → does (.tierCopy c q) u))
    ∧ (∀ bs ps d pl, readyCmd s c q = some x → x.f 0 1 = 1 → x.f 0x18 1 ≤ 1 → loadSource s x = some (bs, ps) →
        loadCode (refoldCtx s c) c bs = 0 → schedOf (refoldCtx s c) c bs = some d → imgPlan (refoldCtx s c) c bs = some pl →
        loadWaits s c bs d = false →
        does (.load c q) (complete (loadAccept s c bs ps d pl) x (if ps.any (fun b => b) then 0x0C else 0) 0 0))
    ∧ (runningCmd s c q seq 3 = some y →
        (stripFree y = true → ∀ pl, stripPlace s y y.count = some pl → signalDue y (y.count + 1) = false →
          does (.stripDelivered c q seq ep)
            (xferEnd (onCmd (moveStrip s y pl ep) y.no fun z => { z with count := y.count + 1 }) y.no))
        ∧ (y.fault = none → y.count ≤ k → k < y.total → does (.pageFault c q seq k true)
            (xferEnd (onCmd s y.no fun z => { z with fault := some (k, .refused) }) y.no))
        ∧ does (.pageRequestResponse c q seq ok) (pageAnswer s y ok))
    ∧ (∀ j since, runningCmd late c q seq 3 = some y → y.fault = some (j, .asked since) →
        1000000 * Nat.max 1 (getF late Reg.AVF_PRI_TIMEOUT 15 0) ≤ late.ftc - since →
        does (.priTimeout c q seq time) (pageAnswer (setBit late Reg.AVF_ERR 2) y false))
    ∧ (runningCmd late c q seq 5 = some y → y.f 0x16 2 ≠ 0 → 1000000 * y.f 0x16 2 ≤ late.ftc - y.since →
        does (.tallyWaitTimeout c q seq time) (complete (withdraw late y) y 0x0E 0 0))
    ∧ (∀ z, runningCmd s c q seq 7 = some y →
        let first := y.count / 4096
        let m := Nat.min n (y.len / 4096 - first)
        let u := onCmd ((List.range m).foldl (fun s i => tierUnit s y (first + i)) s) y.no fun z =>
          { z with count := 4096 * (first + m) }
        u.cmds.find? (fun z => z.no = y.no) = some z → z.count < z.len → does (.tierCopyComplete c q seq n) u)
    ∧ (port < 2 → (s.cmds.any fun x => portOf s x.c = port && holdsRange x i len) = false →
        does (.atsInvalidation port i len) (send s (.packet "ATS_INVALIDATION_DONE" port [i, len])))
    ∧ does (.verifyNoticeReceive pos body) (noticeIn s pos body) ∧ does (.blockHashComplete no) (blockHash s no)

/-- R343, R376 to R395, R428: the commands of the security engine complete: those of the queues where their operands are
accepted, the owner's operations once their proof has been accepted, and MCTP requests over a binding that answers. -/
def Claims.SecurityCommandsComplete : Prop :=
  ∀ (s : State) (c q b ctx eid : Nat) (x : AvCmd) (wrote : Bool) (o : OwnerOp) (nonce : BitVec 256)
    (token image : List (BitVec 8)) (m : Manifest),
    let does := fun (i : Instr) (u : State) => exec i s = .next u
    (readyCmd s c q = some x →
      let y := { x with started := true, since := s.ftc }
      let u := onCmd s x.no fun _ => y
      (x.f 0 1 = 8 → manifestOf u c (y.f 0x38 4) = some m → y.f 0x10 8 + y.f 0x18 8 ≤ Config.hbmBytes →
          y.f 0x20 8 + y.f 0x28 8 ≤ Config.hbmBytes → dpaOwned (y.f 0x18 8 / 4096 + 2) u c (y.f 0x10 8) (y.f 0x18 8) = true →
          dpaOwned (y.f 0x28 8 / 4096 + 2) u c (y.f 0x20 8) (y.f 0x28 8) = true →
          let i := readDpa (y.f 0x18 8 + 1) u (y.f 0x10 8) (y.f 0x18 8)
          let j := readDpa (y.f 0x28 8 + 1) u (y.f 0x20 8) (y.f 0x28 8)
          let bad := i.2.any (fun p => p) || j.2.any (fun p => p)
          let r := sealRecord (exactMode u c) bad m.epoch (ctxOf u c).image m.dman (digest "VX1-IN" i.1) (digest "VX1-OUT" j.1)
          does (.sealOutput c q)
            (complete { u with hostMem := writeBytes u.hostMem (y.f 0x30 8) r } y (if bad then 0x0C else 0) 0 0))
      ∧ (x.f 0 1 = 0x20 → y.f 0x10 8 + y.f 0x18 8 ≤ Config.hbmBytes →
          dpaOwned (y.f 0x18 8 / 4096 + 2) u c (y.f 0x10 8) (y.f 0x18 8) = true →
          let bs := (readDpa (y.f 0x18 8 + 1) u (y.f 0x10 8) (y.f 0x18 8)).1
          let e := field (recOf bs).body 0 4
          let w := lockRange u (.manifest c e) (y.f 0x10 8) (recOf bs).total
          does (.manifestLoad c q) (if manCode u c bs ≠ 0 then secReject u y 2 (manCode u c bs) 0
            else if (manifestOf u c e).isSome then complete u y 0 e 0
            else complete
              { w with manifests := w.manifests ++ [⟨c, e, y.f 0x10 8, (recOf bs).total, manDigest (recOf bs)⟩] } y 0 e 0))
      ∧ (x.f 0 1 = 0x21 → verifyState u c = true → y.f 0x18 1 ≤ 1 → y.f 0x10 4 + y.f 0x14 4 ≤ Config.dirEntries →
          let v : VerifyRun := ⟨y.no, c, verifyList u (y.f 0x10 4) (y.f 0x14 4) (y.f 0x18 1), 0, none⟩
          does (.verifyBlocks c q) (verifyEnd { u with verifies := u.verifies ++ [v] } v))
      ∧ (x.f 0 1 = 0x22 → y.f 0x18 1 < 16 →
          let r := report u (y.f 0x18 1) ((y.raw.drop 0x20).take 32)
          does (.attest c q) (complete { r.2 with hostMem := writeBytes r.2.hostMem (y.f 0x10 8) r.1 } y 0 0 0))
      ∧ (x.f 0 1 = 0x23 → ownerQueue u y = true →
          let bs := readBytes u.hostMem (y.f 0x10 8) (y.f 0x18 8)
          does (.recordWrite c q) (if recordCode u bs ≠ 0 then secReject u y 4 (recordCode u bs) 0
            else match writeRecord u bs with | some (k, w) => complete w y 0 k 0 | none => secReject u y 4 5 0))
      ∧ (x.f 0 1 = 0x24 → s.ownerOp = none → ownerQueue u y = true → does (.ownerCmd c q)
          (takeToken u (readBytes u.hostMem (y.f 0x10 8) (y.f 0x18 8)) (.cmd y.no)))
      ∧ (x.f 0 1 = 0x25 → y.f 0x10 4 + y.f 0x14 4 ≤ Config.dirEntries →
          let es := (dirIndices u).mergeSort.filter fun i =>
            y.f 0x10 4 ≤ i && i < y.f 0x10 4 + y.f 0x14 4 && (dirEntry u i).valid && (dirEntry u i).home = ribPos u
          let ds := (es.map fun i => digest "VX1-BLK" (readDpa (64 + (dirEntry u i).comp + 1) u (dirEntry u i).addr
            (64 + (dirEntry u i).comp)).1).flatten
          does (.blockDigest c q) (complete { u with hostMem := writeBytes u.hostMem (y.f 0x18 8) ds } y 0 es.length 0))
      ∧ (x.f 0 1 = 0x26 → manifestOf u c (y.f 0x10 4) = some m → does (.releaseManifest c q)
          (complete { u with manifests := u.manifests.filter fun m => !(m.c = c && m.epoch = y.f 0x10 4)
                             locks := u.locks.filter fun p => p.1 ≠ .manifest c (y.f 0x10 4) } y 0 0 0)))
    ∧ (s.ownerOp = some o →
        let u := { s with ownerOp := none }
        (o.op = 1 → does (.ownerSet true) (ownerReply
          (rpWrite u (if o.newOwner.all (· = 0) then [] else o.newOwner) (floors u)) o.reply 0 1))
        ∧ (o.op = 2 → does (.floorCommit true)
          (ownerReply (rpWrite u (ownerOf' u) (raisedFloors u fun r => o.arg.testBit r.ty)) o.reply 0 2))
        ∧ (o.op = 3 → does .acceptFound (ownerReply ((List.range 32).foldl (fun s p =>
            if o.arg.testBit p then acceptPort s p else s) u) o.reply 0 3))
        ∧ (o.op = 4 → does (.ownerClear true) (ownerReply (rpWrite u [] ((floors u).take 7 ++ [0, 0, 0])) o.reply 0 4))
        ∧ (wrote = false → o.op = 1 → does (.ownerSet wrote) (ownerReply u o.reply 0x0B 0)))
    ∧ (b < 3 → mctpUp s b = true →
        (ctx < 16 → let r := report s ctx (natLE 32 nonce.toNat)
          does (.getReport b ctx nonce) (send r.2 (.packet "MCTP_REPORT" b (asBody r.1))))
        ∧ does (.getCert b) (send s (.packet "MCTP_CERT" b
            (asBody (slotBytes s 7 (match runOf s 7 with | some r => r.slot | none => 0)))))
        ∧ does (.getNonce b) (send s (.packet "MCTP_NONCE" b (asBody (nonceBytes s))))
        ∧ (s.ownerOp = none → does (.mctpOwnerCmd b token) (takeToken s token (.mctp b)))
        ∧ ([1, 2, 8, 9, 10].contains (recOf image).ty = true → (s.pstep = 1 → (recOf image).ty = 1) →
            does (.pldmFirmwareUpdate b image)
              (if recordCode s image ≠ 0 then send s (.packet "PLDM_UPDATE" b [recordCode s image, 0])
               else match writeRecord s image with
                 | some (k, w) => send w (.packet "PLDM_UPDATE" b [0, k])
                 | none => send s (.packet "PLDM_UPDATE" b [5, 0])))
        ∧ does (.mctpEndpointIdAssign b eid)
            (send { s with eids := put 0 s.eids b (eid % 256) } (.packet "MCTP_EID" b [eid % 256])))

/-- R378 to R382, R397 to R411, R416 to R433, R440: what boots, powers, cools, watches and resets the package completes, in the
state that each command is for. -/
def Claims.PackageCommandsComplete : Prop :=
  ∀ (s : State) (a : Acc) (fails w0 w1 devices gib d mv ca hub k kind unit part index detail port width target : Nat)
    (readable equal peerFree pass ecc : Bool) (stackIns : List StackIn) (doms tc tw optics : List Nat) (results : List Bool)
    (hits : List ScrubHit) (rest : List (Nat × Nat)),
    let does := fun (i : Instr) (u : State) => exec i s = .next u
    (s.pstep = 1 → bootStage s = 0 → does (.bootStage0 readable fails) (Machine.bootStage0 s readable fails))
    ∧ (s.pstep = 5 → bootStage s = 1 → does .bootStage1 (Machine.bootStage1 s))
    ∧ (s.pstep = 5 → bootStage s = 2 → does (.bootStage2 w0 w1 devices gib equal) (Machine.bootStage2 s w0 w1 devices gib equal))
    ∧ (powered s = true →
        does .inputOverVoltage (shutDown (setBit s Reg.PWR_ERR 1) 0x30 1)
        ∧ does .inputUnderVoltage (shutDown (setBit s Reg.PWR_ERR 0) 0x30 2)
        ∧ does .inputCurrentLimit
            ((List.range 4).foldl (fun s d => setStopped s d 1) (setBit (setBit s Reg.PWR_STATUS 2) Reg.PWR_ERR 3))
        ∧ does (.powerSample mv ca doms) (Machine.powerSample s mv ca doms) ∧ does .capWindow (Machine.capWindow s)
        ∧ does (.thermalSample tc tw hub optics) (Machine.thermalSample s tc tw hub optics))
    ∧ does .inputBelowAonFloor { afterReset s with pstep := 0 } ∧ does (.powerUp stackIns) (Machine.powerUp s stackIns)
    ∧ (s.wakes = (k, target) :: rest → does .clusterWake
        (setDom { s with wakes := rest } (domOf k) (if rest.any fun w => w.1 = k then 3 else target)))
    ∧ (d < 4 → does (.clockStep d) (Machine.clockStep s d)
        ∧ (dieStopped s d = true → does (.clockStop d) (bumpF s Reg.PWR_CLKSTOP_COUNT 31 0 1)))
    ∧ does (.errorReport k) (reportsArrive s k)
    ∧ (regOpen s a Reg.HUB_SVC_CMD = true →
        does (.fence a peerFree) (fenceCmd peerFree s) ∧ does (.testUnit a) (testCmd s) ∧ does (.returnUnit a) (returnCmd s)
        ∧ does (.repair a results) (repairCmd results s) ∧ does (.abort a) (abortTest s))
    ∧ does (.testEnd kind unit pass part index detail) (Machine.testEnd s kind unit pass part index detail)
    ∧ (owlState s ≠ 2 → s.pstep ≠ 0 → does (.owlWatchdogTimeout ecc) (owlRestart s ecc))
    ∧ (owlState s = 1 → does .owlRestartComplete (owlBack s))
    ∧ (s.pstep ≠ 0 → does .sensorRefresh (Machine.sensorRefresh s) ∧ does (.packageReset false) (Machine.packageReset s))
    ∧ does (.hubScrub hits) (hits.foldl scrubHit s) ∧ does .aonReset (Machine.aonReset s)
    ∧ (port < 2 → does (.perstAssert port) (Machine.perstAssert s port)
        ∧ (getF s Reg.HUB_STATUS 3 3 = 1 → does (.perstRelease port width) (Machine.perstRelease s port width)))

/-! ### Statements of several parts -/

/-- R75, R77, R79, R85 to R87: the instructions of the control slot that write registers, and how what they write lands. -/
def Obligations.ControlSlotResults : Prop :=
  Claims.ScalarInstructions ∧ Claims.PredicateAndAddressInstructions ∧ Claims.ReadSystemValue ∧ Claims.WritesLand

/-- R80 to R83, R85, R88, R101 to R103: transfers of control, loops, trap and halt. -/
def Obligations.ControlTransfers : Prop :=
  Claims.TransfersAndLoops ∧ Claims.SequencingOfBranchesAndLoops ∧ Claims.TrapFaults ∧ Claims.HaltEnds

/-- R47, R74, R90, R91, R95: the rounded vector operations, and what of a result lands in its register. -/
def Obligations.VectorFloat : Prop :=
  Claims.VectorFloat ∧ Claims.PackedResultLands

/-- R64, R90, R91, R95: the INT32 vector operations, vcmp and vsel. -/
def Obligations.VectorIntegerAndSelect : Prop :=
  Claims.VectorInteger ∧ Claims.VectorCompareSelect

/-- R48, R91, R93, R96: the vector reductions, and the order of the candidates of vtopk. -/
def Obligations.VectorReductions : Prop :=
  Claims.VectorReductions ∧ Claims.TopkOrder

/-- R90, R94, R95, R344: conversions and moves of the vector slot, and vdga. -/
def Obligations.VectorMoves : Prop :=
  Claims.VectorMoves ∧ Claims.VdgaAbsorbs

/-- R23, R108, R111, R112: mld and mlda, and what a loaded tile leaves in the shadow registers. -/
def Obligations.MatrixLoads : Prop :=
  Claims.MatrixLoads ∧ Claims.TileLoadIntoShadow

/-- R115, R116: mdrain and mpop, and the order of the drain queues. -/
def Obligations.MatrixDrains : Prop :=
  Claims.MatrixDrains ∧ Claims.DrainOrder

/-- R118, R119, R133, R153: xfer, sld and sst. -/
def Obligations.StreamTransfers : Prop :=
  Claims.TransferIssue ∧ Claims.VectorLoadStore

/-- R107, R108, R118, R120, R126: rbset, rbpop, stg, stgs and xcancel, and what a ring gives back of what is appended to it. -/
def Obligations.RingsAndStages : Prop :=
  Claims.RingAndStageInstructions ∧ Claims.RingAppendReads

/-- R127 to R131, R251, R262, R304, R320: the instructions of the sync slot. -/
def Obligations.SyncInstructions : Prop :=
  Claims.SignalInstructions ∧ Claims.WaitInstructions ∧ Claims.TestInstructions ∧ Claims.CollInstruction

/-- R42, R46, R72, R76, R78, R79, R101 to R103: a bundle issues, faults, or meets the halt of its context, and a failed comparison
is reported. -/
def Obligations.BundleIssue : Prop :=
  Claims.BundleIssue ∧ Claims.BundleFaults ∧ Claims.ContextHaltArrives ∧ Claims.MismatchReported

/-- R34, R35, R37, R78, R128: bundles that a freeze or a wait holds. -/
def Obligations.HeldBundles : Prop :=
  Claims.FreezeRelease ∧ Claims.WaitSatisfied ∧ Claims.HeldCyclesCount

/-- R115, R122, R124, R153, R154: rows that stream out, and transfer tags that land. -/
def Obligations.StreamOutAndTags : Prop :=
  Claims.StreamOut ∧ Claims.TagLandsInWell

/-- R122, R126, R163 to R165: the cycles of a stage, its stream-in, and its end. -/
def Obligations.StageLife : Prop :=
  Claims.StageCycle ∧ Claims.StageSetUp ∧ Claims.StageStreamIn ∧ Claims.StageEnds

/-- R251, R262 to R266: held signals leave, signals arrive, and remote waits reach their tally. -/
def Obligations.SignalsAndRemoteWaits : Prop :=
  Claims.SignalRelease ∧ Claims.SignalArrival ∧ Claims.RemoteWaitArrival

/-- R37, R50, R256, R267 to R271: the hang watchdog, the tally window, and the clearing of freeze counters. -/
def Obligations.TallyService : Prop :=
  Claims.HangWatchdog ∧ Claims.TallyWindow ∧ Claims.FreezeCountersClear

/-- R139 to R142: the rotation engines and the cluster ports of the chain. -/
def Obligations.ChainMovement : Prop :=
  Claims.RotationForward ∧ Claims.ChainForward

/-- R135, R146, R147: frames of the landing areas, and flows of the mesh. -/
def Obligations.LandingAndMesh : Prop :=
  Claims.LandingFrameRelease ∧ Claims.MeshFlows

/-- R6, R11: register pairs, and what an unmapped access by the Owl records. -/
def Obligations.RegisterPairs : Prop :=
  Claims.RegisterPairs ∧ Claims.OwlUnmapped

/-- R223, R226, R230, R231, R238, R245, R453: the region table, and the commands of MEM_CMD. -/
def Obligations.RegionManagement : Prop :=
  Claims.RegionWrites ∧ Claims.RegionCommands

/-- R222, R224 to R227, R237, R350, R352: words of HBM, the place of a byte in its channel, and accesses through BAR4. -/
def Obligations.MemoryAccesses : Prop :=
  Claims.MemoryWords ∧ Claims.HbmCells ∧ Claims.Bar4Accesses

/-- R228 to R230, R236, R240: rebuilt stripes, and what becomes of a failing channel. -/
def Obligations.ChannelFailures : Prop :=
  Claims.RebuildStripes ∧ Claims.ChannelEvents

/-- R350, R355, R356, R368, R370: doorbells and the control of a queue pair. -/
def Obligations.QueueRegisters : Prop :=
  Claims.Doorbells ∧ Claims.QueueControl

/-- R243, R244, R362, R365, R366: host transfers and tier copies. -/
def Obligations.HostAndTierTransfers : Prop :=
  Claims.HostTransfers ∧ Claims.TierCopies

/-- R183, R191, R194, R201, R203, R204, R207, R208, R218, R219: the commands of RIB_CMD, and the switch of a resident program. -/
def Obligations.RibbonCommands : Prop :=
  Claims.RibbonCommands ∧ Claims.ResidentSwitch

/-- R185 to R191, R195, R198 to R200, R209: the layout of marks, and laps and blocks. -/
def Obligations.RibbonLaps : Prop :=
  Claims.MarkLayout ∧ Claims.RibbonLaps

/-- R193, R219, R289, R301: the windows of the weight directory and of the route table. -/
def Obligations.TableWindows : Prop :=
  Claims.DirectoryWindow ∧ Claims.RouteWindow

/-- R304, R310, R318, R321: how a collective begins its batches, and how it completes. -/
def Obligations.Collectives : Prop :=
  Claims.CollectiveAgreement ∧ Claims.CollectiveCompletion

/-- R327, R338 to R340, R403: a start is armed, judged, and takes place. -/
def Obligations.JobStarts : Prop :=
  Claims.StartArming ∧ Claims.StartVerdicts ∧ Claims.JobStart

/-- R387 to R392: manifests, and the verification of weight blocks. -/
def Obligations.VerifiedWeights : Prop :=
  Claims.Manifests ∧ Claims.BlockVerification

/-- R376, R379, R383 to R386, R392, R393, R395, R428: signed records and the owner's commands. -/
def Obligations.RecordsAndOwner : Prop :=
  Claims.RecordWrites ∧ Claims.OwnerCommands

/-- R398, R401 to R410, R418: the power input, wakes, clocks, and the samples that govern them. -/
def Obligations.PowerControl : Prop :=
  Claims.PowerInput ∧ Claims.ClocksAndWakes ∧ Claims.PowerSamples

/-- Every command answers a next state, which is that of its own effect, under conditions on the state and the operands alone: one
part for each family. (What the effects are, the statements of the families state.) -/
def Obligations.CommandsComplete : Prop :=
  Claims.SlotCommandsComplete ∧ Claims.MovementCommandsComplete ∧ Claims.RibbonCommandsComplete
  ∧ Claims.AccessesComplete ∧ Claims.LinkCommandsComplete ∧ Claims.CollectiveAndStartCommandsComplete
  ∧ Claims.HostCommandsComplete ∧ Claims.SecurityCommandsComplete ∧ Claims.PackageCommandsComplete
end

