-- ==== Sys2Proof/Laws/State.lean ====
section
/-!
SUPPORT. Each shared update changes one field of the state and no other.
-/
namespace Sys2Proof.Machine

/-! ### setReg changes regs -/

@[simp] theorem setReg_pending (s : State) (off : Nat) (v : W32) : (setReg s off v).pending = s.pending := rfl
@[simp] theorem setReg_ftc (s : State) (off : Nat) (v : W32) : (setReg s off v).ftc = s.ftc := rfl
@[simp] theorem setReg_ftcFrac (s : State) (off : Nat) (v : W32) : (setReg s off v).ftcFrac = s.ftcFrac := rfl
@[simp] theorem setReg_latches (s : State) (off : Nat) (v : W32) : (setReg s off v).latches = s.latches := rfl
@[simp] theorem setReg_heldLow (s : State) (off : Nat) (v : W32) : (setReg s off v).heldLow = s.heldLow := rfl
@[simp] theorem setReg_busData (s : State) (off : Nat) (v : W32) : (setReg s off v).busData = s.busData := rfl
@[simp] theorem setReg_out (s : State) (off : Nat) (v : W32) : (setReg s off v).out = s.out := rfl
@[simp] theorem setReg_nibs (s : State) (off : Nat) (v : W32) : (setReg s off v).nibs = s.nibs := rfl
@[simp] theorem setReg_ctxs (s : State) (off : Nat) (v : W32) : (setReg s off v).ctxs = s.ctxs := rfl
@[simp] theorem setReg_hubTal (s : State) (off : Nat) (v : W32) : (setReg s off v).hubTal = s.hubTal := rfl
@[simp] theorem setReg_waits (s : State) (off : Nat) (v : W32) : (setReg s off v).waits = s.waits := rfl
@[simp] theorem setReg_waitsOut (s : State) (off : Nat) (v : W32) : (setReg s off v).waitsOut = s.waitsOut := rfl
@[simp] theorem setReg_signals (s : State) (off : Nat) (v : W32) : (setReg s off v).signals = s.signals := rfl
@[simp] theorem setReg_heldHub (s : State) (off : Nat) (v : W32) : (setReg s off v).heldHub = s.heldHub := rfl
@[simp] theorem setReg_reports (s : State) (off : Nat) (v : W32) : (setReg s off v).reports = s.reports := rfl
@[simp] theorem setReg_landing (s : State) (off : Nat) (v : W32) : (setReg s off v).landing = s.landing := rfl
@[simp] theorem setReg_landMem (s : State) (off : Nat) (v : W32) : (setReg s off v).landMem = s.landMem := rfl
@[simp] theorem setReg_landPoison (s : State) (off : Nat) (v : W32) : (setReg s off v).landPoison = s.landPoison := rfl
@[simp] theorem setReg_cports (s : State) (off : Nat) (v : W32) : (setReg s off v).cports = s.cports := rfl
@[simp] theorem setReg_mesh (s : State) (off : Nat) (v : W32) : (setReg s off v).mesh = s.mesh := rfl
@[simp] theorem setReg_meshX (s : State) (off : Nat) (v : W32) : (setReg s off v).meshX = s.meshX := rfl
@[simp] theorem setReg_hbm (s : State) (off : Nat) (v : W32) : (setReg s off v).hbm = s.hbm := rfl
@[simp] theorem setReg_hbmPoison (s : State) (off : Nat) (v : W32) : (setReg s off v).hbmPoison = s.hbmPoison := rfl
@[simp] theorem setReg_hbmGran (s : State) (off : Nat) (v : W32) : (setReg s off v).hbmGran = s.hbmGran := rfl
@[simp] theorem setReg_regGone (s : State) (off : Nat) (v : W32) : (setReg s off v).regGone = s.regGone := rfl
@[simp] theorem setReg_regFailed (s : State) (off : Nat) (v : W32) : (setReg s off v).regFailed = s.regFailed := rfl
@[simp] theorem setReg_regBuilt (s : State) (off : Nat) (v : W32) : (setReg s off v).regBuilt = s.regBuilt := rfl
@[simp] theorem setReg_calEnd (s : State) (off : Nat) (v : W32) : (setReg s off v).calEnd = s.calEnd := rfl
@[simp] theorem setReg_deadDies (s : State) (off : Nat) (v : W32) : (setReg s off v).deadDies = s.deadDies := rfl
@[simp] theorem setReg_farGrants (s : State) (off : Nat) (v : W32) : (setReg s off v).farGrants = s.farGrants := rfl
@[simp] theorem setReg_hostMem (s : State) (off : Nat) (v : W32) : (setReg s off v).hostMem = s.hostMem := rfl
@[simp] theorem setReg_free (s : State) (off : Nat) (v : W32) : (setReg s off v).free = s.free := rfl
@[simp] theorem setReg_perCluster (s : State) (off : Nat) (v : W32) : (setReg s off v).perCluster = s.perCluster := rfl
@[simp] theorem setReg_svc (s : State) (off : Nat) (v : W32) : (setReg s off v).svc = s.svc := rfl
@[simp] theorem setReg_colls (s : State) (off : Nat) (v : W32) : (setReg s off v).colls = s.colls := rfl
@[simp] theorem setReg_lostPkgs (s : State) (off : Nat) (v : W32) : (setReg s off v).lostPkgs = s.lostPkgs := rfl
@[simp] theorem setReg_corr (s : State) (off : Nat) (v : W32) : (setReg s off v).corr = s.corr := rfl
@[simp] theorem setReg_pairs (s : State) (off : Nat) (v : W32) : (setReg s off v).pairs = s.pairs := rfl
@[simp] theorem setReg_cmds (s : State) (off : Nat) (v : W32) : (setReg s off v).cmds = s.cmds := rfl
@[simp] theorem setReg_cmdNo (s : State) (off : Nat) (v : W32) : (setReg s off v).cmdNo = s.cmdNo := rfl
@[simp] theorem setReg_comps (s : State) (off : Nat) (v : W32) : (setReg s off v).comps = s.comps := rfl
@[simp] theorem setReg_bmeOff (s : State) (off : Nat) (v : W32) : (setReg s off v).bmeOff = s.bmeOff := rfl
@[simp] theorem setReg_dir (s : State) (off : Nat) (v : W32) : (setReg s off v).dir = s.dir := rfl
@[simp] theorem setReg_rib (s : State) (off : Nat) (v : W32) : (setReg s off v).rib = s.rib := rfl
@[simp] theorem setReg_locks (s : State) (off : Nat) (v : W32) : (setReg s off v).locks = s.locks := rfl
@[simp] theorem setReg_manifests (s : State) (off : Nat) (v : W32) : (setReg s off v).manifests = s.manifests := rfl
@[simp] theorem setReg_notices (s : State) (off : Nat) (v : W32) : (setReg s off v).notices = s.notices := rfl
@[simp] theorem setReg_farMem (s : State) (off : Nat) (v : W32) : (setReg s off v).farMem = s.farMem := rfl
@[simp] theorem setReg_farPoison (s : State) (off : Nat) (v : W32) : (setReg s off v).farPoison = s.farPoison := rfl
@[simp] theorem setReg_busPoison (s : State) (off : Nat) (v : W32) : (setReg s off v).busPoison = s.busPoison := rfl
@[simp] theorem setReg_wakes (s : State) (off : Nat) (v : W32) : (setReg s off v).wakes = s.wakes := rfl
@[simp] theorem setReg_flash (s : State) (off : Nat) (v : W32) : (setReg s off v).flash = s.flash := rfl
@[simp] theorem setReg_rp (s : State) (off : Nat) (v : W32) : (setReg s off v).rp = s.rp := rfl
@[simp] theorem setReg_rpCount (s : State) (off : Nat) (v : W32) : (setReg s off v).rpCount = s.rpCount := rfl
@[simp] theorem setReg_lports (s : State) (off : Nat) (v : W32) : (setReg s off v).lports = s.lports := rfl
@[simp] theorem setReg_routed (s : State) (off : Nat) (v : W32) : (setReg s off v).routed = s.routed := rfl
@[simp] theorem setReg_orderOut (s : State) (off : Nat) (v : W32) : (setReg s off v).orderOut = s.orderOut := rfl
@[simp] theorem setReg_orderIn (s : State) (off : Nat) (v : W32) : (setReg s off v).orderIn = s.orderIn := rfl
@[simp] theorem setReg_heldRx (s : State) (off : Nat) (v : W32) : (setReg s off v).heldRx = s.heldRx := rfl
@[simp] theorem setReg_rx (s : State) (off : Nat) (v : W32) : (setReg s off v).rx = s.rx := rfl
@[simp] theorem setReg_routes (s : State) (off : Nat) (v : W32) : (setReg s off v).routes = s.routes := rfl
@[simp] theorem setReg_plan (s : State) (off : Nat) (v : W32) : (setReg s off v).plan = s.plan := rfl
@[simp] theorem setReg_apart (s : State) (off : Nat) (v : W32) : (setReg s off v).apart = s.apart := rfl
@[simp] theorem setReg_rings (s : State) (off : Nat) (v : W32) : (setReg s off v).rings = s.rings := rfl
@[simp] theorem setReg_planDigest (s : State) (off : Nat) (v : W32) : (setReg s off v).planDigest = s.planDigest := rfl
@[simp] theorem setReg_spares (s : State) (off : Nat) (v : W32) : (setReg s off v).spares = s.spares := rfl
@[simp] theorem setReg_ftcGood (s : State) (off : Nat) (v : W32) : (setReg s off v).ftcGood = s.ftcGood := rfl
@[simp] theorem setReg_refEdge (s : State) (off : Nat) (v : W32) : (setReg s off v).refEdge = s.refEdge := rfl
@[simp] theorem setReg_starts (s : State) (off : Nat) (v : W32) : (setReg s off v).starts = s.starts := rfl
@[simp] theorem setReg_running (s : State) (off : Nat) (v : W32) : (setReg s off v).running = s.running := rfl
@[simp] theorem setReg_pstep (s : State) (off : Nat) (v : W32) : (setReg s off v).pstep = s.pstep := rfl
@[simp] theorem setReg_stackIns (s : State) (off : Nat) (v : W32) : (setReg s off v).stackIns = s.stackIns := rfl
@[simp] theorem setReg_ownerOp (s : State) (off : Nat) (v : W32) : (setReg s off v).ownerOp = s.ownerOp := rfl
@[simp] theorem setReg_verifies (s : State) (off : Nat) (v : W32) : (setReg s off v).verifies = s.verifies := rfl
@[simp] theorem setReg_badPhys (s : State) (off : Nat) (v : W32) : (setReg s off v).badPhys = s.badPhys := rfl
@[simp] theorem setReg_owlTimes (s : State) (off : Nat) (v : W32) : (setReg s off v).owlTimes = s.owlTimes := rfl
@[simp] theorem setReg_eids (s : State) (off : Nat) (v : W32) : (setReg s off v).eids = s.eids := rfl
@[simp] theorem setReg_sensors (s : State) (off : Nat) (v : W32) : (setReg s off v).sensors = s.sensors := rfl
@[simp] theorem setReg_tap (s : State) (off : Nat) (v : W32) : (setReg s off v).tap = s.tap := rfl
@[simp] theorem setReg_fatalSeen (s : State) (off : Nat) (v : W32) : (setReg s off v).fatalSeen = s.fatalSeen := rfl
@[simp] theorem setReg_pwin (s : State) (off : Nat) (v : W32) : (setReg s off v).pwin = s.pwin := rfl
@[simp] theorem setReg_capClk (s : State) (off : Nat) (v : W32) : (setReg s off v).capClk = s.capClk := rfl
@[simp] theorem setReg_thermClk (s : State) (off : Nat) (v : W32) : (setReg s off v).thermClk = s.thermClk := rfl

/-! ### setNib changes nibs -/

@[simp] theorem setNib_pending (s : State) (n : Nat) (b : Nib) : (setNib s n b).pending = s.pending := rfl
@[simp] theorem setNib_ftc (s : State) (n : Nat) (b : Nib) : (setNib s n b).ftc = s.ftc := rfl
@[simp] theorem setNib_ftcFrac (s : State) (n : Nat) (b : Nib) : (setNib s n b).ftcFrac = s.ftcFrac := rfl
@[simp] theorem setNib_regs (s : State) (n : Nat) (b : Nib) : (setNib s n b).regs = s.regs := rfl
@[simp] theorem setNib_latches (s : State) (n : Nat) (b : Nib) : (setNib s n b).latches = s.latches := rfl
@[simp] theorem setNib_heldLow (s : State) (n : Nat) (b : Nib) : (setNib s n b).heldLow = s.heldLow := rfl
@[simp] theorem setNib_busData (s : State) (n : Nat) (b : Nib) : (setNib s n b).busData = s.busData := rfl
@[simp] theorem setNib_out (s : State) (n : Nat) (b : Nib) : (setNib s n b).out = s.out := rfl
@[simp] theorem setNib_ctxs (s : State) (n : Nat) (b : Nib) : (setNib s n b).ctxs = s.ctxs := rfl
@[simp] theorem setNib_hubTal (s : State) (n : Nat) (b : Nib) : (setNib s n b).hubTal = s.hubTal := rfl
@[simp] theorem setNib_waits (s : State) (n : Nat) (b : Nib) : (setNib s n b).waits = s.waits := rfl
@[simp] theorem setNib_waitsOut (s : State) (n : Nat) (b : Nib) : (setNib s n b).waitsOut = s.waitsOut := rfl
@[simp] theorem setNib_signals (s : State) (n : Nat) (b : Nib) : (setNib s n b).signals = s.signals := rfl
@[simp] theorem setNib_heldHub (s : State) (n : Nat) (b : Nib) : (setNib s n b).heldHub = s.heldHub := rfl
@[simp] theorem setNib_reports (s : State) (n : Nat) (b : Nib) : (setNib s n b).reports = s.reports := rfl
@[simp] theorem setNib_landing (s : State) (n : Nat) (b : Nib) : (setNib s n b).landing = s.landing := rfl
@[simp] theorem setNib_landMem (s : State) (n : Nat) (b : Nib) : (setNib s n b).landMem = s.landMem := rfl
@[simp] theorem setNib_landPoison (s : State) (n : Nat) (b : Nib) : (setNib s n b).landPoison = s.landPoison := rfl
@[simp] theorem setNib_cports (s : State) (n : Nat) (b : Nib) : (setNib s n b).cports = s.cports := rfl
@[simp] theorem setNib_mesh (s : State) (n : Nat) (b : Nib) : (setNib s n b).mesh = s.mesh := rfl
@[simp] theorem setNib_meshX (s : State) (n : Nat) (b : Nib) : (setNib s n b).meshX = s.meshX := rfl
@[simp] theorem setNib_hbm (s : State) (n : Nat) (b : Nib) : (setNib s n b).hbm = s.hbm := rfl
@[simp] theorem setNib_hbmPoison (s : State) (n : Nat) (b : Nib) : (setNib s n b).hbmPoison = s.hbmPoison := rfl
@[simp] theorem setNib_hbmGran (s : State) (n : Nat) (b : Nib) : (setNib s n b).hbmGran = s.hbmGran := rfl
@[simp] theorem setNib_regGone (s : State) (n : Nat) (b : Nib) : (setNib s n b).regGone = s.regGone := rfl
@[simp] theorem setNib_regFailed (s : State) (n : Nat) (b : Nib) : (setNib s n b).regFailed = s.regFailed := rfl
@[simp] theorem setNib_regBuilt (s : State) (n : Nat) (b : Nib) : (setNib s n b).regBuilt = s.regBuilt := rfl
@[simp] theorem setNib_calEnd (s : State) (n : Nat) (b : Nib) : (setNib s n b).calEnd = s.calEnd := rfl
@[simp] theorem setNib_deadDies (s : State) (n : Nat) (b : Nib) : (setNib s n b).deadDies = s.deadDies := rfl
@[simp] theorem setNib_farGrants (s : State) (n : Nat) (b : Nib) : (setNib s n b).farGrants = s.farGrants := rfl
@[simp] theorem setNib_hostMem (s : State) (n : Nat) (b : Nib) : (setNib s n b).hostMem = s.hostMem := rfl
@[simp] theorem setNib_free (s : State) (n : Nat) (b : Nib) : (setNib s n b).free = s.free := rfl
@[simp] theorem setNib_perCluster (s : State) (n : Nat) (b : Nib) : (setNib s n b).perCluster = s.perCluster := rfl
@[simp] theorem setNib_svc (s : State) (n : Nat) (b : Nib) : (setNib s n b).svc = s.svc := rfl
@[simp] theorem setNib_colls (s : State) (n : Nat) (b : Nib) : (setNib s n b).colls = s.colls := rfl
@[simp] theorem setNib_lostPkgs (s : State) (n : Nat) (b : Nib) : (setNib s n b).lostPkgs = s.lostPkgs := rfl
@[simp] theorem setNib_corr (s : State) (n : Nat) (b : Nib) : (setNib s n b).corr = s.corr := rfl
@[simp] theorem setNib_pairs (s : State) (n : Nat) (b : Nib) : (setNib s n b).pairs = s.pairs := rfl
@[simp] theorem setNib_cmds (s : State) (n : Nat) (b : Nib) : (setNib s n b).cmds = s.cmds := rfl
@[simp] theorem setNib_cmdNo (s : State) (n : Nat) (b : Nib) : (setNib s n b).cmdNo = s.cmdNo := rfl
@[simp] theorem setNib_comps (s : State) (n : Nat) (b : Nib) : (setNib s n b).comps = s.comps := rfl
@[simp] theorem setNib_bmeOff (s : State) (n : Nat) (b : Nib) : (setNib s n b).bmeOff = s.bmeOff := rfl
@[simp] theorem setNib_dir (s : State) (n : Nat) (b : Nib) : (setNib s n b).dir = s.dir := rfl
@[simp] theorem setNib_rib (s : State) (n : Nat) (b : Nib) : (setNib s n b).rib = s.rib := rfl
@[simp] theorem setNib_locks (s : State) (n : Nat) (b : Nib) : (setNib s n b).locks = s.locks := rfl
@[simp] theorem setNib_manifests (s : State) (n : Nat) (b : Nib) : (setNib s n b).manifests = s.manifests := rfl
@[simp] theorem setNib_notices (s : State) (n : Nat) (b : Nib) : (setNib s n b).notices = s.notices := rfl
@[simp] theorem setNib_farMem (s : State) (n : Nat) (b : Nib) : (setNib s n b).farMem = s.farMem := rfl
@[simp] theorem setNib_farPoison (s : State) (n : Nat) (b : Nib) : (setNib s n b).farPoison = s.farPoison := rfl
@[simp] theorem setNib_busPoison (s : State) (n : Nat) (b : Nib) : (setNib s n b).busPoison = s.busPoison := rfl
@[simp] theorem setNib_wakes (s : State) (n : Nat) (b : Nib) : (setNib s n b).wakes = s.wakes := rfl
@[simp] theorem setNib_flash (s : State) (n : Nat) (b : Nib) : (setNib s n b).flash = s.flash := rfl
@[simp] theorem setNib_rp (s : State) (n : Nat) (b : Nib) : (setNib s n b).rp = s.rp := rfl
@[simp] theorem setNib_rpCount (s : State) (n : Nat) (b : Nib) : (setNib s n b).rpCount = s.rpCount := rfl
@[simp] theorem setNib_lports (s : State) (n : Nat) (b : Nib) : (setNib s n b).lports = s.lports := rfl
@[simp] theorem setNib_routed (s : State) (n : Nat) (b : Nib) : (setNib s n b).routed = s.routed := rfl
@[simp] theorem setNib_orderOut (s : State) (n : Nat) (b : Nib) : (setNib s n b).orderOut = s.orderOut := rfl
@[simp] theorem setNib_orderIn (s : State) (n : Nat) (b : Nib) : (setNib s n b).orderIn = s.orderIn := rfl
@[simp] theorem setNib_heldRx (s : State) (n : Nat) (b : Nib) : (setNib s n b).heldRx = s.heldRx := rfl
@[simp] theorem setNib_rx (s : State) (n : Nat) (b : Nib) : (setNib s n b).rx = s.rx := rfl
@[simp] theorem setNib_routes (s : State) (n : Nat) (b : Nib) : (setNib s n b).routes = s.routes := rfl
@[simp] theorem setNib_plan (s : State) (n : Nat) (b : Nib) : (setNib s n b).plan = s.plan := rfl
@[simp] theorem setNib_apart (s : State) (n : Nat) (b : Nib) : (setNib s n b).apart = s.apart := rfl
@[simp] theorem setNib_rings (s : State) (n : Nat) (b : Nib) : (setNib s n b).rings = s.rings := rfl
@[simp] theorem setNib_planDigest (s : State) (n : Nat) (b : Nib) : (setNib s n b).planDigest = s.planDigest := rfl
@[simp] theorem setNib_spares (s : State) (n : Nat) (b : Nib) : (setNib s n b).spares = s.spares := rfl
@[simp] theorem setNib_ftcGood (s : State) (n : Nat) (b : Nib) : (setNib s n b).ftcGood = s.ftcGood := rfl
@[simp] theorem setNib_refEdge (s : State) (n : Nat) (b : Nib) : (setNib s n b).refEdge = s.refEdge := rfl
@[simp] theorem setNib_starts (s : State) (n : Nat) (b : Nib) : (setNib s n b).starts = s.starts := rfl
@[simp] theorem setNib_running (s : State) (n : Nat) (b : Nib) : (setNib s n b).running = s.running := rfl
@[simp] theorem setNib_pstep (s : State) (n : Nat) (b : Nib) : (setNib s n b).pstep = s.pstep := rfl
@[simp] theorem setNib_stackIns (s : State) (n : Nat) (b : Nib) : (setNib s n b).stackIns = s.stackIns := rfl
@[simp] theorem setNib_ownerOp (s : State) (n : Nat) (b : Nib) : (setNib s n b).ownerOp = s.ownerOp := rfl
@[simp] theorem setNib_verifies (s : State) (n : Nat) (b : Nib) : (setNib s n b).verifies = s.verifies := rfl
@[simp] theorem setNib_badPhys (s : State) (n : Nat) (b : Nib) : (setNib s n b).badPhys = s.badPhys := rfl
@[simp] theorem setNib_owlTimes (s : State) (n : Nat) (b : Nib) : (setNib s n b).owlTimes = s.owlTimes := rfl
@[simp] theorem setNib_eids (s : State) (n : Nat) (b : Nib) : (setNib s n b).eids = s.eids := rfl
@[simp] theorem setNib_sensors (s : State) (n : Nat) (b : Nib) : (setNib s n b).sensors = s.sensors := rfl
@[simp] theorem setNib_tap (s : State) (n : Nat) (b : Nib) : (setNib s n b).tap = s.tap := rfl
@[simp] theorem setNib_fatalSeen (s : State) (n : Nat) (b : Nib) : (setNib s n b).fatalSeen = s.fatalSeen := rfl
@[simp] theorem setNib_pwin (s : State) (n : Nat) (b : Nib) : (setNib s n b).pwin = s.pwin := rfl
@[simp] theorem setNib_capClk (s : State) (n : Nat) (b : Nib) : (setNib s n b).capClk = s.capClk := rfl
@[simp] theorem setNib_thermClk (s : State) (n : Nat) (b : Nib) : (setNib s n b).thermClk = s.thermClk := rfl

/-! ### setCtx changes ctxs -/

@[simp] theorem setCtx_pending (s : State) (c : Nat) (x : Ctx) : (setCtx s c x).pending = s.pending := rfl
@[simp] theorem setCtx_ftc (s : State) (c : Nat) (x : Ctx) : (setCtx s c x).ftc = s.ftc := rfl
@[simp] theorem setCtx_ftcFrac (s : State) (c : Nat) (x : Ctx) : (setCtx s c x).ftcFrac = s.ftcFrac := rfl
@[simp] theorem setCtx_regs (s : State) (c : Nat) (x : Ctx) : (setCtx s c x).regs = s.regs := rfl
@[simp] theorem setCtx_latches (s : State) (c : Nat) (x : Ctx) : (setCtx s c x).latches = s.latches := rfl
@[simp] theorem setCtx_heldLow (s : State) (c : Nat) (x : Ctx) : (setCtx s c x).heldLow = s.heldLow := rfl
@[simp] theorem setCtx_busData (s : State) (c : Nat) (x : Ctx) : (setCtx s c x).busData = s.busData := rfl
@[simp] theorem setCtx_out (s : State) (c : Nat) (x : Ctx) : (setCtx s c x).out = s.out := rfl
@[simp] theorem setCtx_nibs (s : State) (c : Nat) (x : Ctx) : (setCtx s c x).nibs = s.nibs := rfl
@[simp] theorem setCtx_hubTal (s : State) (c : Nat) (x : Ctx) : (setCtx s c x).hubTal = s.hubTal := rfl
@[simp] theorem setCtx_waits (s : State) (c : Nat) (x : Ctx) : (setCtx s c x).waits = s.waits := rfl
@[simp] theorem setCtx_waitsOut (s : State) (c : Nat) (x : Ctx) : (setCtx s c x).waitsOut = s.waitsOut := rfl
@[simp] theorem setCtx_signals (s : State) (c : Nat) (x : Ctx) : (setCtx s c x).signals = s.signals := rfl
@[simp] theorem setCtx_heldHub (s : State) (c : Nat) (x : Ctx) : (setCtx s c x).heldHub = s.heldHub := rfl
@[simp] theorem setCtx_reports (s : State) (c : Nat) (x : Ctx) : (setCtx s c x).reports = s.reports := rfl
@[simp] theorem setCtx_landing (s : State) (c : Nat) (x : Ctx) : (setCtx s c x).landing = s.landing := rfl
@[simp] theorem setCtx_landMem (s : State) (c : Nat) (x : Ctx) : (setCtx s c x).landMem = s.landMem := rfl
@[simp] theorem setCtx_landPoison (s : State) (c : Nat) (x : Ctx) : (setCtx s c x).landPoison = s.landPoison := rfl
@[simp] theorem setCtx_cports (s : State) (c : Nat) (x : Ctx) : (setCtx s c x).cports = s.cports := rfl
@[simp] theorem setCtx_mesh (s : State) (c : Nat) (x : Ctx) : (setCtx s c x).mesh = s.mesh := rfl
@[simp] theorem setCtx_meshX (s : State) (c : Nat) (x : Ctx) : (setCtx s c x).meshX = s.meshX := rfl
@[simp] theorem setCtx_hbm (s : State) (c : Nat) (x : Ctx) : (setCtx s c x).hbm = s.hbm := rfl
@[simp] theorem setCtx_hbmPoison (s : State) (c : Nat) (x : Ctx) : (setCtx s c x).hbmPoison = s.hbmPoison := rfl
@[simp] theorem setCtx_hbmGran (s : State) (c : Nat) (x : Ctx) : (setCtx s c x).hbmGran = s.hbmGran := rfl
@[simp] theorem setCtx_regGone (s : State) (c : Nat) (x : Ctx) : (setCtx s c x).regGone = s.regGone := rfl
@[simp] theorem setCtx_regFailed (s : State) (c : Nat) (x : Ctx) : (setCtx s c x).regFailed = s.regFailed := rfl
@[simp] theorem setCtx_regBuilt (s : State) (c : Nat) (x : Ctx) : (setCtx s c x).regBuilt = s.regBuilt := rfl
@[simp] theorem setCtx_calEnd (s : State) (c : Nat) (x : Ctx) : (setCtx s c x).calEnd = s.calEnd := rfl
@[simp] theorem setCtx_deadDies (s : State) (c : Nat) (x : Ctx) : (setCtx s c x).deadDies = s.deadDies := rfl
@[simp] theorem setCtx_farGrants (s : State) (c : Nat) (x : Ctx) : (setCtx s c x).farGrants = s.farGrants := rfl
@[simp] theorem setCtx_hostMem (s : State) (c : Nat) (x : Ctx) : (setCtx s c x).hostMem = s.hostMem := rfl
@[simp] theorem setCtx_free (s : State) (c : Nat) (x : Ctx) : (setCtx s c x).free = s.free := rfl
@[simp] theorem setCtx_perCluster (s : State) (c : Nat) (x : Ctx) : (setCtx s c x).perCluster = s.perCluster := rfl
@[simp] theorem setCtx_svc (s : State) (c : Nat) (x : Ctx) : (setCtx s c x).svc = s.svc := rfl
@[simp] theorem setCtx_colls (s : State) (c : Nat) (x : Ctx) : (setCtx s c x).colls = s.colls := rfl
@[simp] theorem setCtx_lostPkgs (s : State) (c : Nat) (x : Ctx) : (setCtx s c x).lostPkgs = s.lostPkgs := rfl
@[simp] theorem setCtx_corr (s : State) (c : Nat) (x : Ctx) : (setCtx s c x).corr = s.corr := rfl
@[simp] theorem setCtx_pairs (s : State) (c : Nat) (x : Ctx) : (setCtx s c x).pairs = s.pairs := rfl
@[simp] theorem setCtx_cmds (s : State) (c : Nat) (x : Ctx) : (setCtx s c x).cmds = s.cmds := rfl
@[simp] theorem setCtx_cmdNo (s : State) (c : Nat) (x : Ctx) : (setCtx s c x).cmdNo = s.cmdNo := rfl
@[simp] theorem setCtx_comps (s : State) (c : Nat) (x : Ctx) : (setCtx s c x).comps = s.comps := rfl
@[simp] theorem setCtx_bmeOff (s : State) (c : Nat) (x : Ctx) : (setCtx s c x).bmeOff = s.bmeOff := rfl
@[simp] theorem setCtx_dir (s : State) (c : Nat) (x : Ctx) : (setCtx s c x).dir = s.dir := rfl
@[simp] theorem setCtx_rib (s : State) (c : Nat) (x : Ctx) : (setCtx s c x).rib = s.rib := rfl
@[simp] theorem setCtx_locks (s : State) (c : Nat) (x : Ctx) : (setCtx s c x).locks = s.locks := rfl
@[simp] theorem setCtx_manifests (s : State) (c : Nat) (x : Ctx) : (setCtx s c x).manifests = s.manifests := rfl
@[simp] theorem setCtx_notices (s : State) (c : Nat) (x : Ctx) : (setCtx s c x).notices = s.notices := rfl
@[simp] theorem setCtx_farMem (s : State) (c : Nat) (x : Ctx) : (setCtx s c x).farMem = s.farMem := rfl
@[simp] theorem setCtx_farPoison (s : State) (c : Nat) (x : Ctx) : (setCtx s c x).farPoison = s.farPoison := rfl
@[simp] theorem setCtx_busPoison (s : State) (c : Nat) (x : Ctx) : (setCtx s c x).busPoison = s.busPoison := rfl
@[simp] theorem setCtx_wakes (s : State) (c : Nat) (x : Ctx) : (setCtx s c x).wakes = s.wakes := rfl
@[simp] theorem setCtx_flash (s : State) (c : Nat) (x : Ctx) : (setCtx s c x).flash = s.flash := rfl
@[simp] theorem setCtx_rp (s : State) (c : Nat) (x : Ctx) : (setCtx s c x).rp = s.rp := rfl
@[simp] theorem setCtx_rpCount (s : State) (c : Nat) (x : Ctx) : (setCtx s c x).rpCount = s.rpCount := rfl
@[simp] theorem setCtx_lports (s : State) (c : Nat) (x : Ctx) : (setCtx s c x).lports = s.lports := rfl
@[simp] theorem setCtx_routed (s : State) (c : Nat) (x : Ctx) : (setCtx s c x).routed = s.routed := rfl
@[simp] theorem setCtx_orderOut (s : State) (c : Nat) (x : Ctx) : (setCtx s c x).orderOut = s.orderOut := rfl
@[simp] theorem setCtx_orderIn (s : State) (c : Nat) (x : Ctx) : (setCtx s c x).orderIn = s.orderIn := rfl
@[simp] theorem setCtx_heldRx (s : State) (c : Nat) (x : Ctx) : (setCtx s c x).heldRx = s.heldRx := rfl
@[simp] theorem setCtx_rx (s : State) (c : Nat) (x : Ctx) : (setCtx s c x).rx = s.rx := rfl
@[simp] theorem setCtx_routes (s : State) (c : Nat) (x : Ctx) : (setCtx s c x).routes = s.routes := rfl
@[simp] theorem setCtx_plan (s : State) (c : Nat) (x : Ctx) : (setCtx s c x).plan = s.plan := rfl
@[simp] theorem setCtx_apart (s : State) (c : Nat) (x : Ctx) : (setCtx s c x).apart = s.apart := rfl
@[simp] theorem setCtx_rings (s : State) (c : Nat) (x : Ctx) : (setCtx s c x).rings = s.rings := rfl
@[simp] theorem setCtx_planDigest (s : State) (c : Nat) (x : Ctx) : (setCtx s c x).planDigest = s.planDigest := rfl
@[simp] theorem setCtx_spares (s : State) (c : Nat) (x : Ctx) : (setCtx s c x).spares = s.spares := rfl
@[simp] theorem setCtx_ftcGood (s : State) (c : Nat) (x : Ctx) : (setCtx s c x).ftcGood = s.ftcGood := rfl
@[simp] theorem setCtx_refEdge (s : State) (c : Nat) (x : Ctx) : (setCtx s c x).refEdge = s.refEdge := rfl
@[simp] theorem setCtx_starts (s : State) (c : Nat) (x : Ctx) : (setCtx s c x).starts = s.starts := rfl
@[simp] theorem setCtx_running (s : State) (c : Nat) (x : Ctx) : (setCtx s c x).running = s.running := rfl
@[simp] theorem setCtx_pstep (s : State) (c : Nat) (x : Ctx) : (setCtx s c x).pstep = s.pstep := rfl
@[simp] theorem setCtx_stackIns (s : State) (c : Nat) (x : Ctx) : (setCtx s c x).stackIns = s.stackIns := rfl
@[simp] theorem setCtx_ownerOp (s : State) (c : Nat) (x : Ctx) : (setCtx s c x).ownerOp = s.ownerOp := rfl
@[simp] theorem setCtx_verifies (s : State) (c : Nat) (x : Ctx) : (setCtx s c x).verifies = s.verifies := rfl
@[simp] theorem setCtx_badPhys (s : State) (c : Nat) (x : Ctx) : (setCtx s c x).badPhys = s.badPhys := rfl
@[simp] theorem setCtx_owlTimes (s : State) (c : Nat) (x : Ctx) : (setCtx s c x).owlTimes = s.owlTimes := rfl
@[simp] theorem setCtx_eids (s : State) (c : Nat) (x : Ctx) : (setCtx s c x).eids = s.eids := rfl
@[simp] theorem setCtx_sensors (s : State) (c : Nat) (x : Ctx) : (setCtx s c x).sensors = s.sensors := rfl
@[simp] theorem setCtx_tap (s : State) (c : Nat) (x : Ctx) : (setCtx s c x).tap = s.tap := rfl
@[simp] theorem setCtx_fatalSeen (s : State) (c : Nat) (x : Ctx) : (setCtx s c x).fatalSeen = s.fatalSeen := rfl
@[simp] theorem setCtx_pwin (s : State) (c : Nat) (x : Ctx) : (setCtx s c x).pwin = s.pwin := rfl
@[simp] theorem setCtx_capClk (s : State) (c : Nat) (x : Ctx) : (setCtx s c x).capClk = s.capClk := rfl
@[simp] theorem setCtx_thermClk (s : State) (c : Nat) (x : Ctx) : (setCtx s c x).thermClk = s.thermClk := rfl

/-! ### send changes out -/

@[simp] theorem send_pending (s : State) (m : OutMsg) : (send s m).pending = s.pending := rfl
@[simp] theorem send_ftc (s : State) (m : OutMsg) : (send s m).ftc = s.ftc := rfl
@[simp] theorem send_ftcFrac (s : State) (m : OutMsg) : (send s m).ftcFrac = s.ftcFrac := rfl
@[simp] theorem send_regs (s : State) (m : OutMsg) : (send s m).regs = s.regs := rfl
@[simp] theorem send_latches (s : State) (m : OutMsg) : (send s m).latches = s.latches := rfl
@[simp] theorem send_heldLow (s : State) (m : OutMsg) : (send s m).heldLow = s.heldLow := rfl
@[simp] theorem send_busData (s : State) (m : OutMsg) : (send s m).busData = s.busData := rfl
@[simp] theorem send_nibs (s : State) (m : OutMsg) : (send s m).nibs = s.nibs := rfl
@[simp] theorem send_ctxs (s : State) (m : OutMsg) : (send s m).ctxs = s.ctxs := rfl
@[simp] theorem send_hubTal (s : State) (m : OutMsg) : (send s m).hubTal = s.hubTal := rfl
@[simp] theorem send_waits (s : State) (m : OutMsg) : (send s m).waits = s.waits := rfl
@[simp] theorem send_waitsOut (s : State) (m : OutMsg) : (send s m).waitsOut = s.waitsOut := rfl
@[simp] theorem send_signals (s : State) (m : OutMsg) : (send s m).signals = s.signals := rfl
@[simp] theorem send_heldHub (s : State) (m : OutMsg) : (send s m).heldHub = s.heldHub := rfl
@[simp] theorem send_reports (s : State) (m : OutMsg) : (send s m).reports = s.reports := rfl
@[simp] theorem send_landing (s : State) (m : OutMsg) : (send s m).landing = s.landing := rfl
@[simp] theorem send_landMem (s : State) (m : OutMsg) : (send s m).landMem = s.landMem := rfl
@[simp] theorem send_landPoison (s : State) (m : OutMsg) : (send s m).landPoison = s.landPoison := rfl
@[simp] theorem send_cports (s : State) (m : OutMsg) : (send s m).cports = s.cports := rfl
@[simp] theorem send_mesh (s : State) (m : OutMsg) : (send s m).mesh = s.mesh := rfl
@[simp] theorem send_meshX (s : State) (m : OutMsg) : (send s m).meshX = s.meshX := rfl
@[simp] theorem send_hbm (s : State) (m : OutMsg) : (send s m).hbm = s.hbm := rfl
@[simp] theorem send_hbmPoison (s : State) (m : OutMsg) : (send s m).hbmPoison = s.hbmPoison := rfl
@[simp] theorem send_hbmGran (s : State) (m : OutMsg) : (send s m).hbmGran = s.hbmGran := rfl
@[simp] theorem send_regGone (s : State) (m : OutMsg) : (send s m).regGone = s.regGone := rfl
@[simp] theorem send_regFailed (s : State) (m : OutMsg) : (send s m).regFailed = s.regFailed := rfl
@[simp] theorem send_regBuilt (s : State) (m : OutMsg) : (send s m).regBuilt = s.regBuilt := rfl
@[simp] theorem send_calEnd (s : State) (m : OutMsg) : (send s m).calEnd = s.calEnd := rfl
@[simp] theorem send_deadDies (s : State) (m : OutMsg) : (send s m).deadDies = s.deadDies := rfl
@[simp] theorem send_farGrants (s : State) (m : OutMsg) : (send s m).farGrants = s.farGrants := rfl
@[simp] theorem send_hostMem (s : State) (m : OutMsg) : (send s m).hostMem = s.hostMem := rfl
@[simp] theorem send_free (s : State) (m : OutMsg) : (send s m).free = s.free := rfl
@[simp] theorem send_perCluster (s : State) (m : OutMsg) : (send s m).perCluster = s.perCluster := rfl
@[simp] theorem send_svc (s : State) (m : OutMsg) : (send s m).svc = s.svc := rfl
@[simp] theorem send_colls (s : State) (m : OutMsg) : (send s m).colls = s.colls := rfl
@[simp] theorem send_lostPkgs (s : State) (m : OutMsg) : (send s m).lostPkgs = s.lostPkgs := rfl
@[simp] theorem send_corr (s : State) (m : OutMsg) : (send s m).corr = s.corr := rfl
@[simp] theorem send_pairs (s : State) (m : OutMsg) : (send s m).pairs = s.pairs := rfl
@[simp] theorem send_cmds (s : State) (m : OutMsg) : (send s m).cmds = s.cmds := rfl
@[simp] theorem send_cmdNo (s : State) (m : OutMsg) : (send s m).cmdNo = s.cmdNo := rfl
@[simp] theorem send_comps (s : State) (m : OutMsg) : (send s m).comps = s.comps := rfl
@[simp] theorem send_bmeOff (s : State) (m : OutMsg) : (send s m).bmeOff = s.bmeOff := rfl
@[simp] theorem send_dir (s : State) (m : OutMsg) : (send s m).dir = s.dir := rfl
@[simp] theorem send_rib (s : State) (m : OutMsg) : (send s m).rib = s.rib := rfl
@[simp] theorem send_locks (s : State) (m : OutMsg) : (send s m).locks = s.locks := rfl
@[simp] theorem send_manifests (s : State) (m : OutMsg) : (send s m).manifests = s.manifests := rfl
@[simp] theorem send_notices (s : State) (m : OutMsg) : (send s m).notices = s.notices := rfl
@[simp] theorem send_farMem (s : State) (m : OutMsg) : (send s m).farMem = s.farMem := rfl
@[simp] theorem send_farPoison (s : State) (m : OutMsg) : (send s m).farPoison = s.farPoison := rfl
@[simp] theorem send_busPoison (s : State) (m : OutMsg) : (send s m).busPoison = s.busPoison := rfl
@[simp] theorem send_wakes (s : State) (m : OutMsg) : (send s m).wakes = s.wakes := rfl
@[simp] theorem send_flash (s : State) (m : OutMsg) : (send s m).flash = s.flash := rfl
@[simp] theorem send_rp (s : State) (m : OutMsg) : (send s m).rp = s.rp := rfl
@[simp] theorem send_rpCount (s : State) (m : OutMsg) : (send s m).rpCount = s.rpCount := rfl
@[simp] theorem send_lports (s : State) (m : OutMsg) : (send s m).lports = s.lports := rfl
@[simp] theorem send_routed (s : State) (m : OutMsg) : (send s m).routed = s.routed := rfl
@[simp] theorem send_orderOut (s : State) (m : OutMsg) : (send s m).orderOut = s.orderOut := rfl
@[simp] theorem send_orderIn (s : State) (m : OutMsg) : (send s m).orderIn = s.orderIn := rfl
@[simp] theorem send_heldRx (s : State) (m : OutMsg) : (send s m).heldRx = s.heldRx := rfl
@[simp] theorem send_rx (s : State) (m : OutMsg) : (send s m).rx = s.rx := rfl
@[simp] theorem send_routes (s : State) (m : OutMsg) : (send s m).routes = s.routes := rfl
@[simp] theorem send_plan (s : State) (m : OutMsg) : (send s m).plan = s.plan := rfl
@[simp] theorem send_apart (s : State) (m : OutMsg) : (send s m).apart = s.apart := rfl
@[simp] theorem send_rings (s : State) (m : OutMsg) : (send s m).rings = s.rings := rfl
@[simp] theorem send_planDigest (s : State) (m : OutMsg) : (send s m).planDigest = s.planDigest := rfl
@[simp] theorem send_spares (s : State) (m : OutMsg) : (send s m).spares = s.spares := rfl
@[simp] theorem send_ftcGood (s : State) (m : OutMsg) : (send s m).ftcGood = s.ftcGood := rfl
@[simp] theorem send_refEdge (s : State) (m : OutMsg) : (send s m).refEdge = s.refEdge := rfl
@[simp] theorem send_starts (s : State) (m : OutMsg) : (send s m).starts = s.starts := rfl
@[simp] theorem send_running (s : State) (m : OutMsg) : (send s m).running = s.running := rfl
@[simp] theorem send_pstep (s : State) (m : OutMsg) : (send s m).pstep = s.pstep := rfl
@[simp] theorem send_stackIns (s : State) (m : OutMsg) : (send s m).stackIns = s.stackIns := rfl
@[simp] theorem send_ownerOp (s : State) (m : OutMsg) : (send s m).ownerOp = s.ownerOp := rfl
@[simp] theorem send_verifies (s : State) (m : OutMsg) : (send s m).verifies = s.verifies := rfl
@[simp] theorem send_badPhys (s : State) (m : OutMsg) : (send s m).badPhys = s.badPhys := rfl
@[simp] theorem send_owlTimes (s : State) (m : OutMsg) : (send s m).owlTimes = s.owlTimes := rfl
@[simp] theorem send_eids (s : State) (m : OutMsg) : (send s m).eids = s.eids := rfl
@[simp] theorem send_sensors (s : State) (m : OutMsg) : (send s m).sensors = s.sensors := rfl
@[simp] theorem send_tap (s : State) (m : OutMsg) : (send s m).tap = s.tap := rfl
@[simp] theorem send_fatalSeen (s : State) (m : OutMsg) : (send s m).fatalSeen = s.fatalSeen := rfl
@[simp] theorem send_pwin (s : State) (m : OutMsg) : (send s m).pwin = s.pwin := rfl
@[simp] theorem send_capClk (s : State) (m : OutMsg) : (send s m).capClk = s.capClk := rfl
@[simp] theorem send_thermClk (s : State) (m : OutMsg) : (send s m).thermClk = s.thermClk := rfl

/-! ### raise changes reports -/

@[simp] theorem raise_pending (s : State) (cls code kind : Nat) (ctx : Option Nat) (unit info : Nat) : (raise s cls code kind ctx unit info).pending = s.pending := rfl
@[simp] theorem raise_ftc (s : State) (cls code kind : Nat) (ctx : Option Nat) (unit info : Nat) : (raise s cls code kind ctx unit info).ftc = s.ftc := rfl
@[simp] theorem raise_ftcFrac (s : State) (cls code kind : Nat) (ctx : Option Nat) (unit info : Nat) : (raise s cls code kind ctx unit info).ftcFrac = s.ftcFrac := rfl
@[simp] theorem raise_regs (s : State) (cls code kind : Nat) (ctx : Option Nat) (unit info : Nat) : (raise s cls code kind ctx unit info).regs = s.regs := rfl
@[simp] theorem raise_latches (s : State) (cls code kind : Nat) (ctx : Option Nat) (unit info : Nat) : (raise s cls code kind ctx unit info).latches = s.latches := rfl
@[simp] theorem raise_heldLow (s : State) (cls code kind : Nat) (ctx : Option Nat) (unit info : Nat) : (raise s cls code kind ctx unit info).heldLow = s.heldLow := rfl
@[simp] theorem raise_busData (s : State) (cls code kind : Nat) (ctx : Option Nat) (unit info : Nat) : (raise s cls code kind ctx unit info).busData = s.busData := rfl
@[simp] theorem raise_out (s : State) (cls code kind : Nat) (ctx : Option Nat) (unit info : Nat) : (raise s cls code kind ctx unit info).out = s.out := rfl
@[simp] theorem raise_nibs (s : State) (cls code kind : Nat) (ctx : Option Nat) (unit info : Nat) : (raise s cls code kind ctx unit info).nibs = s.nibs := rfl
@[simp] theorem raise_ctxs (s : State) (cls code kind : Nat) (ctx : Option Nat) (unit info : Nat) : (raise s cls code kind ctx unit info).ctxs = s.ctxs := rfl
@[simp] theorem raise_hubTal (s : State) (cls code kind : Nat) (ctx : Option Nat) (unit info : Nat) : (raise s cls code kind ctx unit info).hubTal = s.hubTal := rfl
@[simp] theorem raise_waits (s : State) (cls code kind : Nat) (ctx : Option Nat) (unit info : Nat) : (raise s cls code kind ctx unit info).waits = s.waits := rfl
@[simp] theorem raise_waitsOut (s : State) (cls code kind : Nat) (ctx : Option Nat) (unit info : Nat) : (raise s cls code kind ctx unit info).waitsOut = s.waitsOut := rfl
@[simp] theorem raise_signals (s : State) (cls code kind : Nat) (ctx : Option Nat) (unit info : Nat) : (raise s cls code kind ctx unit info).signals = s.signals := rfl
@[simp] theorem raise_heldHub (s : State) (cls code kind : Nat) (ctx : Option Nat) (unit info : Nat) : (raise s cls code kind ctx unit info).heldHub = s.heldHub := rfl
@[simp] theorem raise_landing (s : State) (cls code kind : Nat) (ctx : Option Nat) (unit info : Nat) : (raise s cls code kind ctx unit info).landing = s.landing := rfl
@[simp] theorem raise_landMem (s : State) (cls code kind : Nat) (ctx : Option Nat) (unit info : Nat) : (raise s cls code kind ctx unit info).landMem = s.landMem := rfl
@[simp] theorem raise_landPoison (s : State) (cls code kind : Nat) (ctx : Option Nat) (unit info : Nat) : (raise s cls code kind ctx unit info).landPoison = s.landPoison := rfl
@[simp] theorem raise_cports (s : State) (cls code kind : Nat) (ctx : Option Nat) (unit info : Nat) : (raise s cls code kind ctx unit info).cports = s.cports := rfl
@[simp] theorem raise_mesh (s : State) (cls code kind : Nat) (ctx : Option Nat) (unit info : Nat) : (raise s cls code kind ctx unit info).mesh = s.mesh := rfl
@[simp] theorem raise_meshX (s : State) (cls code kind : Nat) (ctx : Option Nat) (unit info : Nat) : (raise s cls code kind ctx unit info).meshX = s.meshX := rfl
@[simp] theorem raise_hbm (s : State) (cls code kind : Nat) (ctx : Option Nat) (unit info : Nat) : (raise s cls code kind ctx unit info).hbm = s.hbm := rfl
@[simp] theorem raise_hbmPoison (s : State) (cls code kind : Nat) (ctx : Option Nat) (unit info : Nat) : (raise s cls code kind ctx unit info).hbmPoison = s.hbmPoison := rfl
@[simp] theorem raise_hbmGran (s : State) (cls code kind : Nat) (ctx : Option Nat) (unit info : Nat) : (raise s cls code kind ctx unit info).hbmGran = s.hbmGran := rfl
@[simp] theorem raise_regGone (s : State) (cls code kind : Nat) (ctx : Option Nat) (unit info : Nat) : (raise s cls code kind ctx unit info).regGone = s.regGone := rfl
@[simp] theorem raise_regFailed (s : State) (cls code kind : Nat) (ctx : Option Nat) (unit info : Nat) : (raise s cls code kind ctx unit info).regFailed = s.regFailed := rfl
@[simp] theorem raise_regBuilt (s : State) (cls code kind : Nat) (ctx : Option Nat) (unit info : Nat) : (raise s cls code kind ctx unit info).regBuilt = s.regBuilt := rfl
@[simp] theorem raise_calEnd (s : State) (cls code kind : Nat) (ctx : Option Nat) (unit info : Nat) : (raise s cls code kind ctx unit info).calEnd = s.calEnd := rfl
@[simp] theorem raise_deadDies (s : State) (cls code kind : Nat) (ctx : Option Nat) (unit info : Nat) : (raise s cls code kind ctx unit info).deadDies = s.deadDies := rfl
@[simp] theorem raise_farGrants (s : State) (cls code kind : Nat) (ctx : Option Nat) (unit info : Nat) : (raise s cls code kind ctx unit info).farGrants = s.farGrants := rfl
@[simp] theorem raise_hostMem (s : State) (cls code kind : Nat) (ctx : Option Nat) (unit info : Nat) : (raise s cls code kind ctx unit info).hostMem = s.hostMem := rfl
@[simp] theorem raise_free (s : State) (cls code kind : Nat) (ctx : Option Nat) (unit info : Nat) : (raise s cls code kind ctx unit info).free = s.free := rfl
@[simp] theorem raise_perCluster (s : State) (cls code kind : Nat) (ctx : Option Nat) (unit info : Nat) : (raise s cls code kind ctx unit info).perCluster = s.perCluster := rfl
@[simp] theorem raise_svc (s : State) (cls code kind : Nat) (ctx : Option Nat) (unit info : Nat) : (raise s cls code kind ctx unit info).svc = s.svc := rfl
@[simp] theorem raise_colls (s : State) (cls code kind : Nat) (ctx : Option Nat) (unit info : Nat) : (raise s cls code kind ctx unit info).colls = s.colls := rfl
@[simp] theorem raise_lostPkgs (s : State) (cls code kind : Nat) (ctx : Option Nat) (unit info : Nat) : (raise s cls code kind ctx unit info).lostPkgs = s.lostPkgs := rfl
@[simp] theorem raise_corr (s : State) (cls code kind : Nat) (ctx : Option Nat) (unit info : Nat) : (raise s cls code kind ctx unit info).corr = s.corr := rfl
@[simp] theorem raise_pairs (s : State) (cls code kind : Nat) (ctx : Option Nat) (unit info : Nat) : (raise s cls code kind ctx unit info).pairs = s.pairs := rfl
@[simp] theorem raise_cmds (s : State) (cls code kind : Nat) (ctx : Option Nat) (unit info : Nat) : (raise s cls code kind ctx unit info).cmds = s.cmds := rfl
@[simp] theorem raise_cmdNo (s : State) (cls code kind : Nat) (ctx : Option Nat) (unit info : Nat) : (raise s cls code kind ctx unit info).cmdNo = s.cmdNo := rfl
@[simp] theorem raise_comps (s : State) (cls code kind : Nat) (ctx : Option Nat) (unit info : Nat) : (raise s cls code kind ctx unit info).comps = s.comps := rfl
@[simp] theorem raise_bmeOff (s : State) (cls code kind : Nat) (ctx : Option Nat) (unit info : Nat) : (raise s cls code kind ctx unit info).bmeOff = s.bmeOff := rfl
@[simp] theorem raise_dir (s : State) (cls code kind : Nat) (ctx : Option Nat) (unit info : Nat) : (raise s cls code kind ctx unit info).dir = s.dir := rfl
@[simp] theorem raise_rib (s : State) (cls code kind : Nat) (ctx : Option Nat) (unit info : Nat) : (raise s cls code kind ctx unit info).rib = s.rib := rfl
@[simp] theorem raise_locks (s : State) (cls code kind : Nat) (ctx : Option Nat) (unit info : Nat) : (raise s cls code kind ctx unit info).locks = s.locks := rfl
@[simp] theorem raise_manifests (s : State) (cls code kind : Nat) (ctx : Option Nat) (unit info : Nat) : (raise s cls code kind ctx unit info).manifests = s.manifests := rfl
@[simp] theorem raise_notices (s : State) (cls code kind : Nat) (ctx : Option Nat) (unit info : Nat) : (raise s cls code kind ctx unit info).notices = s.notices := rfl
@[simp] theorem raise_farMem (s : State) (cls code kind : Nat) (ctx : Option Nat) (unit info : Nat) : (raise s cls code kind ctx unit info).farMem = s.farMem := rfl
@[simp] theorem raise_farPoison (s : State) (cls code kind : Nat) (ctx : Option Nat) (unit info : Nat) : (raise s cls code kind ctx unit info).farPoison = s.farPoison := rfl
@[simp] theorem raise_busPoison (s : State) (cls code kind : Nat) (ctx : Option Nat) (unit info : Nat) : (raise s cls code kind ctx unit info).busPoison = s.busPoison := rfl
@[simp] theorem raise_wakes (s : State) (cls code kind : Nat) (ctx : Option Nat) (unit info : Nat) : (raise s cls code kind ctx unit info).wakes = s.wakes := rfl
@[simp] theorem raise_flash (s : State) (cls code kind : Nat) (ctx : Option Nat) (unit info : Nat) : (raise s cls code kind ctx unit info).flash = s.flash := rfl
@[simp] theorem raise_rp (s : State) (cls code kind : Nat) (ctx : Option Nat) (unit info : Nat) : (raise s cls code kind ctx unit info).rp = s.rp := rfl
@[simp] theorem raise_rpCount (s : State) (cls code kind : Nat) (ctx : Option Nat) (unit info : Nat) : (raise s cls code kind ctx unit info).rpCount = s.rpCount := rfl
@[simp] theorem raise_lports (s : State) (cls code kind : Nat) (ctx : Option Nat) (unit info : Nat) : (raise s cls code kind ctx unit info).lports = s.lports := rfl
@[simp] theorem raise_routed (s : State) (cls code kind : Nat) (ctx : Option Nat) (unit info : Nat) : (raise s cls code kind ctx unit info).routed = s.routed := rfl
@[simp] theorem raise_orderOut (s : State) (cls code kind : Nat) (ctx : Option Nat) (unit info : Nat) : (raise s cls code kind ctx unit info).orderOut = s.orderOut := rfl
@[simp] theorem raise_orderIn (s : State) (cls code kind : Nat) (ctx : Option Nat) (unit info : Nat) : (raise s cls code kind ctx unit info).orderIn = s.orderIn := rfl
@[simp] theorem raise_heldRx (s : State) (cls code kind : Nat) (ctx : Option Nat) (unit info : Nat) : (raise s cls code kind ctx unit info).heldRx = s.heldRx := rfl
@[simp] theorem raise_rx (s : State) (cls code kind : Nat) (ctx : Option Nat) (unit info : Nat) : (raise s cls code kind ctx unit info).rx = s.rx := rfl
@[simp] theorem raise_routes (s : State) (cls code kind : Nat) (ctx : Option Nat) (unit info : Nat) : (raise s cls code kind ctx unit info).routes = s.routes := rfl
@[simp] theorem raise_plan (s : State) (cls code kind : Nat) (ctx : Option Nat) (unit info : Nat) : (raise s cls code kind ctx unit info).plan = s.plan := rfl
@[simp] theorem raise_apart (s : State) (cls code kind : Nat) (ctx : Option Nat) (unit info : Nat) : (raise s cls code kind ctx unit info).apart = s.apart := rfl
@[simp] theorem raise_rings (s : State) (cls code kind : Nat) (ctx : Option Nat) (unit info : Nat) : (raise s cls code kind ctx unit info).rings = s.rings := rfl
@[simp] theorem raise_planDigest (s : State) (cls code kind : Nat) (ctx : Option Nat) (unit info : Nat) : (raise s cls code kind ctx unit info).planDigest = s.planDigest := rfl
@[simp] theorem raise_spares (s : State) (cls code kind : Nat) (ctx : Option Nat) (unit info : Nat) : (raise s cls code kind ctx unit info).spares = s.spares := rfl
@[simp] theorem raise_ftcGood (s : State) (cls code kind : Nat) (ctx : Option Nat) (unit info : Nat) : (raise s cls code kind ctx unit info).ftcGood = s.ftcGood := rfl
@[simp] theorem raise_refEdge (s : State) (cls code kind : Nat) (ctx : Option Nat) (unit info : Nat) : (raise s cls code kind ctx unit info).refEdge = s.refEdge := rfl
@[simp] theorem raise_starts (s : State) (cls code kind : Nat) (ctx : Option Nat) (unit info : Nat) : (raise s cls code kind ctx unit info).starts = s.starts := rfl
@[simp] theorem raise_running (s : State) (cls code kind : Nat) (ctx : Option Nat) (unit info : Nat) : (raise s cls code kind ctx unit info).running = s.running := rfl
@[simp] theorem raise_pstep (s : State) (cls code kind : Nat) (ctx : Option Nat) (unit info : Nat) : (raise s cls code kind ctx unit info).pstep = s.pstep := rfl
@[simp] theorem raise_stackIns (s : State) (cls code kind : Nat) (ctx : Option Nat) (unit info : Nat) : (raise s cls code kind ctx unit info).stackIns = s.stackIns := rfl
@[simp] theorem raise_ownerOp (s : State) (cls code kind : Nat) (ctx : Option Nat) (unit info : Nat) : (raise s cls code kind ctx unit info).ownerOp = s.ownerOp := rfl
@[simp] theorem raise_verifies (s : State) (cls code kind : Nat) (ctx : Option Nat) (unit info : Nat) : (raise s cls code kind ctx unit info).verifies = s.verifies := rfl
@[simp] theorem raise_badPhys (s : State) (cls code kind : Nat) (ctx : Option Nat) (unit info : Nat) : (raise s cls code kind ctx unit info).badPhys = s.badPhys := rfl
@[simp] theorem raise_owlTimes (s : State) (cls code kind : Nat) (ctx : Option Nat) (unit info : Nat) : (raise s cls code kind ctx unit info).owlTimes = s.owlTimes := rfl
@[simp] theorem raise_eids (s : State) (cls code kind : Nat) (ctx : Option Nat) (unit info : Nat) : (raise s cls code kind ctx unit info).eids = s.eids := rfl
@[simp] theorem raise_sensors (s : State) (cls code kind : Nat) (ctx : Option Nat) (unit info : Nat) : (raise s cls code kind ctx unit info).sensors = s.sensors := rfl
@[simp] theorem raise_tap (s : State) (cls code kind : Nat) (ctx : Option Nat) (unit info : Nat) : (raise s cls code kind ctx unit info).tap = s.tap := rfl
@[simp] theorem raise_fatalSeen (s : State) (cls code kind : Nat) (ctx : Option Nat) (unit info : Nat) : (raise s cls code kind ctx unit info).fatalSeen = s.fatalSeen := rfl
@[simp] theorem raise_pwin (s : State) (cls code kind : Nat) (ctx : Option Nat) (unit info : Nat) : (raise s cls code kind ctx unit info).pwin = s.pwin := rfl
@[simp] theorem raise_capClk (s : State) (cls code kind : Nat) (ctx : Option Nat) (unit info : Nat) : (raise s cls code kind ctx unit info).capClk = s.capClk := rfl
@[simp] theorem raise_thermClk (s : State) (cls code kind : Nat) (ctx : Option Nat) (unit info : Nat) : (raise s cls code kind ctx unit info).thermClk = s.thermClk := rfl

/-! ### atTime changes ftc -/

@[simp] theorem atTime_pending (s : State) (t : Nat) : (atTime s t).pending = s.pending := rfl
@[simp] theorem atTime_ftcFrac (s : State) (t : Nat) : (atTime s t).ftcFrac = s.ftcFrac := rfl
@[simp] theorem atTime_regs (s : State) (t : Nat) : (atTime s t).regs = s.regs := rfl
@[simp] theorem atTime_latches (s : State) (t : Nat) : (atTime s t).latches = s.latches := rfl
@[simp] theorem atTime_heldLow (s : State) (t : Nat) : (atTime s t).heldLow = s.heldLow := rfl
@[simp] theorem atTime_busData (s : State) (t : Nat) : (atTime s t).busData = s.busData := rfl
@[simp] theorem atTime_out (s : State) (t : Nat) : (atTime s t).out = s.out := rfl
@[simp] theorem atTime_nibs (s : State) (t : Nat) : (atTime s t).nibs = s.nibs := rfl
@[simp] theorem atTime_ctxs (s : State) (t : Nat) : (atTime s t).ctxs = s.ctxs := rfl
@[simp] theorem atTime_hubTal (s : State) (t : Nat) : (atTime s t).hubTal = s.hubTal := rfl
@[simp] theorem atTime_waits (s : State) (t : Nat) : (atTime s t).waits = s.waits := rfl
@[simp] theorem atTime_waitsOut (s : State) (t : Nat) : (atTime s t).waitsOut = s.waitsOut := rfl
@[simp] theorem atTime_signals (s : State) (t : Nat) : (atTime s t).signals = s.signals := rfl
@[simp] theorem atTime_heldHub (s : State) (t : Nat) : (atTime s t).heldHub = s.heldHub := rfl
@[simp] theorem atTime_reports (s : State) (t : Nat) : (atTime s t).reports = s.reports := rfl
@[simp] theorem atTime_landing (s : State) (t : Nat) : (atTime s t).landing = s.landing := rfl
@[simp] theorem atTime_landMem (s : State) (t : Nat) : (atTime s t).landMem = s.landMem := rfl
@[simp] theorem atTime_landPoison (s : State) (t : Nat) : (atTime s t).landPoison = s.landPoison := rfl
@[simp] theorem atTime_cports (s : State) (t : Nat) : (atTime s t).cports = s.cports := rfl
@[simp] theorem atTime_mesh (s : State) (t : Nat) : (atTime s t).mesh = s.mesh := rfl
@[simp] theorem atTime_meshX (s : State) (t : Nat) : (atTime s t).meshX = s.meshX := rfl
@[simp] theorem atTime_hbm (s : State) (t : Nat) : (atTime s t).hbm = s.hbm := rfl
@[simp] theorem atTime_hbmPoison (s : State) (t : Nat) : (atTime s t).hbmPoison = s.hbmPoison := rfl
@[simp] theorem atTime_hbmGran (s : State) (t : Nat) : (atTime s t).hbmGran = s.hbmGran := rfl
@[simp] theorem atTime_regGone (s : State) (t : Nat) : (atTime s t).regGone = s.regGone := rfl
@[simp] theorem atTime_regFailed (s : State) (t : Nat) : (atTime s t).regFailed = s.regFailed := rfl
@[simp] theorem atTime_regBuilt (s : State) (t : Nat) : (atTime s t).regBuilt = s.regBuilt := rfl
@[simp] theorem atTime_calEnd (s : State) (t : Nat) : (atTime s t).calEnd = s.calEnd := rfl
@[simp] theorem atTime_deadDies (s : State) (t : Nat) : (atTime s t).deadDies = s.deadDies := rfl
@[simp] theorem atTime_farGrants (s : State) (t : Nat) : (atTime s t).farGrants = s.farGrants := rfl
@[simp] theorem atTime_hostMem (s : State) (t : Nat) : (atTime s t).hostMem = s.hostMem := rfl
@[simp] theorem atTime_free (s : State) (t : Nat) : (atTime s t).free = s.free := rfl
@[simp] theorem atTime_perCluster (s : State) (t : Nat) : (atTime s t).perCluster = s.perCluster := rfl
@[simp] theorem atTime_svc (s : State) (t : Nat) : (atTime s t).svc = s.svc := rfl
@[simp] theorem atTime_colls (s : State) (t : Nat) : (atTime s t).colls = s.colls := rfl
@[simp] theorem atTime_lostPkgs (s : State) (t : Nat) : (atTime s t).lostPkgs = s.lostPkgs := rfl
@[simp] theorem atTime_corr (s : State) (t : Nat) : (atTime s t).corr = s.corr := rfl
@[simp] theorem atTime_pairs (s : State) (t : Nat) : (atTime s t).pairs = s.pairs := rfl
@[simp] theorem atTime_cmds (s : State) (t : Nat) : (atTime s t).cmds = s.cmds := rfl
@[simp] theorem atTime_cmdNo (s : State) (t : Nat) : (atTime s t).cmdNo = s.cmdNo := rfl
@[simp] theorem atTime_comps (s : State) (t : Nat) : (atTime s t).comps = s.comps := rfl
@[simp] theorem atTime_bmeOff (s : State) (t : Nat) : (atTime s t).bmeOff = s.bmeOff := rfl
@[simp] theorem atTime_dir (s : State) (t : Nat) : (atTime s t).dir = s.dir := rfl
@[simp] theorem atTime_rib (s : State) (t : Nat) : (atTime s t).rib = s.rib := rfl
@[simp] theorem atTime_locks (s : State) (t : Nat) : (atTime s t).locks = s.locks := rfl
@[simp] theorem atTime_manifests (s : State) (t : Nat) : (atTime s t).manifests = s.manifests := rfl
@[simp] theorem atTime_notices (s : State) (t : Nat) : (atTime s t).notices = s.notices := rfl
@[simp] theorem atTime_farMem (s : State) (t : Nat) : (atTime s t).farMem = s.farMem := rfl
@[simp] theorem atTime_farPoison (s : State) (t : Nat) : (atTime s t).farPoison = s.farPoison := rfl
@[simp] theorem atTime_busPoison (s : State) (t : Nat) : (atTime s t).busPoison = s.busPoison := rfl
@[simp] theorem atTime_wakes (s : State) (t : Nat) : (atTime s t).wakes = s.wakes := rfl
@[simp] theorem atTime_flash (s : State) (t : Nat) : (atTime s t).flash = s.flash := rfl
@[simp] theorem atTime_rp (s : State) (t : Nat) : (atTime s t).rp = s.rp := rfl
@[simp] theorem atTime_rpCount (s : State) (t : Nat) : (atTime s t).rpCount = s.rpCount := rfl
@[simp] theorem atTime_lports (s : State) (t : Nat) : (atTime s t).lports = s.lports := rfl
@[simp] theorem atTime_routed (s : State) (t : Nat) : (atTime s t).routed = s.routed := rfl
@[simp] theorem atTime_orderOut (s : State) (t : Nat) : (atTime s t).orderOut = s.orderOut := rfl
@[simp] theorem atTime_orderIn (s : State) (t : Nat) : (atTime s t).orderIn = s.orderIn := rfl
@[simp] theorem atTime_heldRx (s : State) (t : Nat) : (atTime s t).heldRx = s.heldRx := rfl
@[simp] theorem atTime_rx (s : State) (t : Nat) : (atTime s t).rx = s.rx := rfl
@[simp] theorem atTime_routes (s : State) (t : Nat) : (atTime s t).routes = s.routes := rfl
@[simp] theorem atTime_plan (s : State) (t : Nat) : (atTime s t).plan = s.plan := rfl
@[simp] theorem atTime_apart (s : State) (t : Nat) : (atTime s t).apart = s.apart := rfl
@[simp] theorem atTime_rings (s : State) (t : Nat) : (atTime s t).rings = s.rings := rfl
@[simp] theorem atTime_planDigest (s : State) (t : Nat) : (atTime s t).planDigest = s.planDigest := rfl
@[simp] theorem atTime_spares (s : State) (t : Nat) : (atTime s t).spares = s.spares := rfl
@[simp] theorem atTime_ftcGood (s : State) (t : Nat) : (atTime s t).ftcGood = s.ftcGood := rfl
@[simp] theorem atTime_refEdge (s : State) (t : Nat) : (atTime s t).refEdge = s.refEdge := rfl
@[simp] theorem atTime_starts (s : State) (t : Nat) : (atTime s t).starts = s.starts := rfl
@[simp] theorem atTime_running (s : State) (t : Nat) : (atTime s t).running = s.running := rfl
@[simp] theorem atTime_pstep (s : State) (t : Nat) : (atTime s t).pstep = s.pstep := rfl
@[simp] theorem atTime_stackIns (s : State) (t : Nat) : (atTime s t).stackIns = s.stackIns := rfl
@[simp] theorem atTime_ownerOp (s : State) (t : Nat) : (atTime s t).ownerOp = s.ownerOp := rfl
@[simp] theorem atTime_verifies (s : State) (t : Nat) : (atTime s t).verifies = s.verifies := rfl
@[simp] theorem atTime_badPhys (s : State) (t : Nat) : (atTime s t).badPhys = s.badPhys := rfl
@[simp] theorem atTime_owlTimes (s : State) (t : Nat) : (atTime s t).owlTimes = s.owlTimes := rfl
@[simp] theorem atTime_eids (s : State) (t : Nat) : (atTime s t).eids = s.eids := rfl
@[simp] theorem atTime_sensors (s : State) (t : Nat) : (atTime s t).sensors = s.sensors := rfl
@[simp] theorem atTime_tap (s : State) (t : Nat) : (atTime s t).tap = s.tap := rfl
@[simp] theorem atTime_fatalSeen (s : State) (t : Nat) : (atTime s t).fatalSeen = s.fatalSeen := rfl
@[simp] theorem atTime_pwin (s : State) (t : Nat) : (atTime s t).pwin = s.pwin := rfl
@[simp] theorem atTime_capClk (s : State) (t : Nat) : (atTime s t).capClk = s.capClk := rfl
@[simp] theorem atTime_thermClk (s : State) (t : Nat) : (atTime s t).thermClk = s.thermClk := rfl

end Sys2Proof.Machine
end

