-- ==== Sys2Proof/Laws/Store.lean ====
section
/-!
SUPPORT. Laws of the sparse maps and byte memories: reading after writing, and the canonical form that every operation
keeps.
-/
namespace Sys2Proof.Machine

variable {α : Type}

/-! ### Reading after writing -/

@[simp] theorem look_nil (d : α) (k : Nat) : look d [] k = d := rfl

theorem look_cons (d v : α) (m : NMap α) (j k : Nat) :
    look d ((j, v) :: m) k = if k = j then v else look d m k := rfl

@[simp] theorem look_drop_same (d : α) (m : NMap α) (k : Nat) : look d (drop m k) k = d := by
  induction m with
  | nil => rfl
  | cons p m ih =>
    obtain ⟨j, v⟩ := p
    by_cases h : k = j
    · subst h; simpa [drop] using ih
    · simpa [drop, h, look_cons] using ih

theorem look_drop_other (d : α) (m : NMap α) {j k : Nat} (h : j ≠ k) : look d (drop m k) j = look d m j := by
  induction m with
  | nil => rfl
  | cons p m ih =>
    obtain ⟨i, v⟩ := p
    by_cases hk : k = i
    · subst hk; simpa [drop, look_cons, h] using ih
    · simp [drop, hk, look_cons, ih]

@[simp] theorem look_insert_same (d : α) (m : NMap α) (k : Nat) (v : α) : look d (insert m k v) k = v := by
  induction m with
  | nil => simp [insert, look_cons]
  | cons p m ih =>
    obtain ⟨j, w⟩ := p
    unfold insert
    split
    · simp [look_cons]
    · split
      · simp [look_cons]
      · rename_i h; simp [look_cons, h, ih]

theorem look_insert_other (d : α) (m : NMap α) {j k : Nat} (v : α) (h : j ≠ k) :
    look d (insert m k v) j = look d m j := by
  induction m with
  | nil => simp [insert, look_cons, h]
  | cons p m ih =>
    obtain ⟨i, w⟩ := p
    unfold insert
    split
    · simp [look_cons, h]
    · split
      · rename_i hk; subst hk; simp [look_cons, h]
      · simp [look_cons, ih]

@[simp] theorem look_put_same [DecidableEq α] (d : α) (m : NMap α) (k : Nat) (v : α) : look d (put d m k v) k = v := by
  unfold put
  split
  · rename_i h; subst h; simp
  · simp

theorem look_put_other [DecidableEq α] (d : α) (m : NMap α) {j k : Nat} (v : α) (h : j ≠ k) :
    look d (put d m k v) j = look d m j := by
  unfold put
  split
  · exact look_drop_other d m h
  · exact look_insert_other d m v h

theorem look_put [DecidableEq α] (d : α) (m : NMap α) (j k : Nat) (v : α) :
    look d (put d m k v) j = if j = k then v else look d m j := by
  split
  · rename_i h; subst h; simp
  · rename_i h; exact look_put_other d m v h

/-- A byte reads as it was written. -/
@[simp] theorem readByte_writeByte (m : Mem) (a : Nat) (b : Byte) : readByte (writeByte m a b) a = b :=
  look_put_same 0 m a b

/-- A byte elsewhere reads as before a write. -/
theorem readByte_writeByte_other (m : Mem) {a i : Nat} (b : Byte) (h : i ≠ a) :
    readByte (writeByte m a b) i = readByte m i := look_put_other 0 m b h

/-- Bytes below a run of writes read as before. -/
theorem readByte_writeBytes_below (bs : List Byte) : ∀ (m : Mem) (a i : Nat), i < a →
    readByte (writeBytes m a bs) i = readByte m i := by
  induction bs with
  | nil => intros; rfl
  | cons b bs ih =>
    intro m a i h
    rw [writeBytes, ih _ _ _ (by omega), readByte_writeByte_other _ _ (by omega)]

/-- Bytes above a run of writes read as before. -/
theorem readByte_writeBytes_above (bs : List Byte) : ∀ (m : Mem) (a i : Nat), a + bs.length ≤ i →
    readByte (writeBytes m a bs) i = readByte m i := by
  induction bs with
  | nil => intros; rfl
  | cons b bs ih =>
    intro m a i h
    simp only [List.length_cons] at h
    rw [writeBytes, ih _ _ _ (by omega), readByte_writeByte_other _ _ (by omega)]

/-- Byte `k` of a run of writes reads as written. -/
theorem readByte_writeBytes (bs : List Byte) : ∀ (m : Mem) (a k : Nat) (h : k < bs.length),
    readByte (writeBytes m a bs) (a + k) = bs[k] := by
  induction bs with
  | nil => intro m a k h; simp at h
  | cons b bs ih =>
    intro m a k h
    cases k with
    | zero => rw [writeBytes, readByte_writeBytes_below _ _ _ _ (by omega)]; simp
    | succ k =>
      have := ih (writeByte m a b) (a + 1) k (by simpa using h)
      rw [writeBytes, show a + (k + 1) = a + 1 + k by omega, this]; simp

/-- What has been written is read back. -/
theorem readBytes_writeBytes (bs : List Byte) : ∀ (m : Mem) (a : Nat),
    readBytes (writeBytes m a bs) a bs.length = bs := by
  induction bs with
  | nil => intros; rfl
  | cons b bs ih =>
    intro m a
    simp only [List.length_cons, readBytes, writeBytes, ih]
    rw [readByte_writeBytes_below _ _ _ _ (by omega), readByte_writeByte]

@[simp] theorem readBytes_length (m : Mem) (a n : Nat) : (readBytes m a n).length = n := by
  induction n generalizing a with
  | zero => rfl
  | succ n ih => simp [readBytes, ih]

/-! ### Canonical form -/

theorem wfBy_mono [DecidableEq α] (d : Nat → α) (m : NMap α) {lo lo' : Nat} (h : lo' ≤ lo) (hm : wfBy d lo m = true) :
    wfBy d lo' m = true := by
  cases m with
  | nil => rfl
  | cons p m =>
    simp only [wfBy, Bool.and_eq_true, decide_eq_true_eq] at hm ⊢
    exact ⟨⟨by omega, hm.1.2⟩, hm.2⟩

theorem wfBy_drop [DecidableEq α] (d : Nat → α) (m : NMap α) (k : Nat) : ∀ lo, wfBy d lo m = true →
    wfBy d lo (drop m k) = true := by
  induction m with
  | nil => intros; rfl
  | cons p m ih =>
    obtain ⟨j, v⟩ := p
    intro lo h
    simp only [wfBy, Bool.and_eq_true, decide_eq_true_eq] at h
    by_cases hk : k = j
    · simp only [drop, hk, if_true]
      subst hk
      exact wfBy_mono d _ (by omega) (ih _ h.2)
    · simp only [drop, hk, if_false, wfBy, Bool.and_eq_true, decide_eq_true_eq]
      exact ⟨h.1, ih _ h.2⟩

theorem wfBy_insert [DecidableEq α] (d : Nat → α) (m : NMap α) (k : Nat) (v : α) (hv : v ≠ d k) : ∀ lo, lo ≤ k →
    wfBy d lo m = true → wfBy d lo (insert m k v) = true := by
  induction m with
  | nil => intro lo h _; simp [insert, wfBy, h, hv]
  | cons p m ih =>
    obtain ⟨j, w⟩ := p
    intro lo hlo h
    simp only [wfBy, Bool.and_eq_true, decide_eq_true_eq] at h
    unfold insert
    split
    · simp only [wfBy, Bool.and_eq_true, decide_eq_true_eq]; exact ⟨⟨hlo, hv⟩, ⟨by omega, h.1.2⟩, h.2⟩
    · split
      · rename_i hk; subst hk
        simp only [wfBy, Bool.and_eq_true, decide_eq_true_eq]; exact ⟨⟨hlo, hv⟩, h.2⟩
      · simp only [wfBy, Bool.and_eq_true, decide_eq_true_eq]; exact ⟨h.1, ih _ (by omega) h.2⟩

/-- A write keeps the canonical form. -/
theorem wf_put [DecidableEq α] (d : α) (m : NMap α) (k : Nat) (v : α) (h : wf d m = true) : wf d (put d m k v) = true := by
  unfold put
  split
  · exact wfBy_drop _ m k 0 h
  · rename_i hv; exact wfBy_insert _ m k v hv 0 (Nat.zero_le k) h

theorem wfBy_filter [DecidableEq α] (d : Nat → α) (f : Nat × α → Bool) (m : NMap α) : ∀ lo, wfBy d lo m = true →
    wfBy d lo (m.filter f) = true := by
  induction m with
  | nil => intros; rfl
  | cons p m ih =>
    obtain ⟨j, v⟩ := p
    intro lo h
    simp only [wfBy, Bool.and_eq_true, decide_eq_true_eq] at h
    rw [List.filter_cons]
    split
    · simp only [wfBy, Bool.and_eq_true, decide_eq_true_eq]; exact ⟨h.1, ih _ h.2⟩
    · exact wfBy_mono d _ (by omega) (ih _ h.2)

/-- Unlisting a range keeps the canonical form. -/
theorem wf_dropRange [DecidableEq α] (d : α) (m : NMap α) (lo n : Nat) (h : wf d m = true) :
    wf d (dropRange m lo n) = true := wfBy_filter _ _ m 0 h

/-- Keeping a range keeps the canonical form. -/
theorem wf_keepRange [DecidableEq α] (d : α) (m : NMap α) (lo n : Nat) (h : wf d m = true) :
    wf d (keepRange m lo n) = true := wfBy_filter _ _ m 0 h

/-- A byte write keeps a memory's canonical form. -/
theorem wf_writeByte (m : Mem) (a : Nat) (b : Byte) (h : Memory.wf m = true) : Memory.wf (writeByte m a b) = true :=
  wf_put 0 m a b h

/-- A run of byte writes keeps a memory's canonical form. -/
theorem wf_writeBytes (bs : List Byte) : ∀ (m : Mem) (a : Nat), Memory.wf m = true →
    Memory.wf (writeBytes m a bs) = true := by
  induction bs with
  | nil => intro m a h; exact h
  | cons b bs ih => intro m a h; exact ih _ _ (wf_writeByte m a b h)

/-- Zeroing a range keeps a memory's canonical form. -/
theorem wf_zeroBytes (m : Mem) (a n : Nat) (h : Memory.wf m = true) : Memory.wf (zeroBytes m a n) = true :=
  wf_dropRange 0 m a n h

end Sys2Proof.Machine
end

