-- ==== Sys2Proof/Laws/Registers.lean ====
section
/-!
SUPPORT. Reading back what the named operations write: hub registers, nibs, contexts, register files of a nib.
-/
namespace Sys2Proof.Machine

/-! ### Hub registers -/

@[simp] theorem getReg_setReg_same (s : State) (off : Nat) (v : W32) : getReg (setReg s off v) off = v := by
  simp [getReg, setReg]

theorem getReg_setReg_other (s : State) {a b : Nat} (v : W32) (h : a ≠ b) :
    getReg (setReg s b v) a = getReg s a := by
  unfold getReg setReg put
  have hd : ∀ (d e : W32) (m : NMap W32), look d (drop m b) a = look d m a := fun d _ m => look_drop_other d m h
  split
  · exact hd _ 0 _
  · exact look_insert_other _ _ _ h

@[simp] theorem getReg_setNib (s : State) (n : Nat) (b : Nib) (off : Nat) : getReg (setNib s n b) off = getReg s off := rfl
@[simp] theorem getReg_onNib (s : State) (n : Nat) (f : Nib → Nib) (off : Nat) :
    getReg (onNib s n f) off = getReg s off := rfl
@[simp] theorem getReg_setCtx (s : State) (c : Nat) (x : Ctx) (off : Nat) : getReg (setCtx s c x) off = getReg s off := rfl
@[simp] theorem getReg_send (s : State) (m : OutMsg) (off : Nat) : getReg (send s m) off = getReg s off := rfl
@[simp] theorem getReg_raise (s : State) (a b c : Nat) (x : Option Nat) (u i off : Nat) :
    getReg (raise s a b c x u i) off = getReg s off := rfl
@[simp] theorem getReg_atTime (s : State) (t off : Nat) : getReg (atTime s t) off = getReg s off := rfl

/-! ### Nibs -/

@[simp] theorem nibOf_setNib_same (s : State) (n : Nat) (b : Nib) : nibOf (setNib s n b) n = b := by
  simp [nibOf, setNib]

theorem nibOf_setNib_other (s : State) {n m : Nat} (b : Nib) (h : m ≠ n) : nibOf (setNib s n b) m = nibOf s m :=
  look_put_other _ _ _ h

@[simp] theorem nibOf_onNib_same (s : State) (n : Nat) (f : Nib → Nib) : nibOf (onNib s n f) n = f (nibOf s n) :=
  nibOf_setNib_same s n _

theorem nibOf_onNib_other (s : State) {n m : Nat} (f : Nib → Nib) (h : m ≠ n) : nibOf (onNib s n f) m = nibOf s m :=
  nibOf_setNib_other s _ h

@[simp] theorem nibOf_setReg (s : State) (off : Nat) (v : W32) (n : Nat) : nibOf (setReg s off v) n = nibOf s n := rfl
@[simp] theorem nibOf_setCtx (s : State) (c : Nat) (x : Ctx) (n : Nat) : nibOf (setCtx s c x) n = nibOf s n := rfl
@[simp] theorem nibOf_send (s : State) (m : OutMsg) (n : Nat) : nibOf (send s m) n = nibOf s n := rfl
@[simp] theorem nibOf_raise (s : State) (a b c : Nat) (x : Option Nat) (u i n : Nat) :
    nibOf (raise s a b c x u i) n = nibOf s n := rfl
@[simp] theorem nibOf_atTime (s : State) (t n : Nat) : nibOf (atTime s t) n = nibOf s n := rfl

/-- `onNib` changes the list of nibs and no other field. -/
theorem onNib_fields (s : State) (n : Nat) (f : Nib → Nib) : onNib s n f = { s with nibs := (onNib s n f).nibs } := rfl

/-! ### Contexts -/

@[simp] theorem ctxOf_setCtx_same (s : State) (c : Nat) (x : Ctx) : ctxOf (setCtx s c x) c = x := by simp [ctxOf, setCtx]

theorem ctxOf_setCtx_other (s : State) {c e : Nat} (x : Ctx) (h : e ≠ c) : ctxOf (setCtx s c x) e = ctxOf s e :=
  look_put_other _ _ _ h

@[simp] theorem ctxOf_onNib (s : State) (n : Nat) (f : Nib → Nib) (c : Nat) : ctxOf (onNib s n f) c = ctxOf s c := rfl
@[simp] theorem ctxOf_setReg (s : State) (off : Nat) (v : W32) (c : Nat) : ctxOf (setReg s off v) c = ctxOf s c := rfl

@[simp] theorem ctxOfNib_onNib (s : State) (n : Nat) (f : Nib → Nib) (m : Nat) :
    ctxOfNib (onNib s n f) m = ctxOfNib s m := rfl
@[simp] theorem ctxOfNib_setNib (s : State) (n : Nat) (b : Nib) (m : Nat) : ctxOfNib (setNib s n b) m = ctxOfNib s m := rfl

/-! ### Register files of a nib (R75) -/

@[simp] theorem sreg_zero (b : Nib) : sreg b 0 = 0 := rfl

/-- A scalar register but s0 reads as it was written. -/
theorem sreg_setS_same (b : Nib) {i : Nat} (v : W32) (h : i ≠ 0) : sreg (setS b i v) i = v := by
  simp [sreg, setS, h]

/-- A write of s0 is discarded. -/
@[simp] theorem setS_zero (b : Nib) (v : W32) : setS b 0 v = b := rfl

theorem sreg_setS_other (b : Nib) {i j : Nat} (v : W32) (h : j ≠ i) : sreg (setS b i v) j = sreg b j := by
  unfold setS
  split
  · rfl
  · simp [sreg, look_put_other, h]

@[simp] theorem areg_setA_same (b : Nib) (i : Nat) (v : W64) : areg (setA b i v) i = v := by simp [areg, setA]

theorem areg_setA_other (b : Nib) {i j : Nat} (v : W64) (h : j ≠ i) : areg (setA b i v) j = areg b j := by
  simp [areg, setA, look_put_other, h]

/-- p0 reads as all ones. -/
@[simp] theorem preg_zero (b : Nib) : preg b 0 = BitVec.allOnes 64 := rfl

/-- A write of p0 is discarded. -/
@[simp] theorem setP_zero (b : Nib) (m v : W64) : setP b 0 m v = b := rfl

theorem preg_setP_all (b : Nib) {i : Nat} (v : W64) (h : i ≠ 0) : preg (setP b i (BitVec.allOnes 64) v) i = v := by
  unfold preg setP
  rw [if_neg h, if_neg h, look_put_same, BitVec.not_allOnes, BitVec.and_zero, BitVec.zero_or, BitVec.and_allOnes]

theorem preg_setP_other (b : Nib) {i j : Nat} (m v : W64) (h : j ≠ i) : preg (setP b i m v) j = preg b j := by
  unfold setP
  split
  · rfl
  · simp [preg, look_put_other, h]

end Sys2Proof.Machine
end

