-- ==== Sys2Proof/Laws/Issue.lean ====
section
/-!
SUPPORT. What the issue of a bundle can do: the shape of the next state where it does not freeze, wait or fault.
-/
namespace Sys2Proof.Machine

/-! ### Idle slots -/

@[simp] theorem firstFault_nil : firstFault [] = none := rfl
@[simp] theorem firstFault_none (fs : List SlotFault) : firstFault (none :: fs) = firstFault fs := rfl
@[simp] theorem firstFault_some (f : Nat × Nat) (fs : List SlotFault) : firstFault (some f :: fs) = some f := rfl

/-- The matrix operation of an idle slot is valid. -/
theorem matOk_idle : matOk 0 ⟨0#4, 0#4, 0#4, 0#3, 0#2, false, false, false, 0#4, 0#4, 0#4, 0#2, false, 0#4, 0#3, false, 0#4, 0#4, false, 0#4⟩ = true := by decide

/-- The vector operation of an idle slot is valid. -/
theorem vecOk_idle : vecOk 0 ⟨0#4, 0#4, 0#4, 0#4, 0#4, 0#4, false, false, 0#3, 0#5, 0#6, 0#2, 0#2, 0#3⟩ = true := by decide

/-- The stream operation of an idle slot is valid. -/
theorem stmOk_idle : stmOk 0 ⟨0#4, 0#4, 0#5, 0#5, 0#4, 0#32⟩ = true := by decide

@[simp] theorem predHolds_always (b : Nib) : predHolds b Pred.always = true := by
  simp [predHolds, predLane, preg, Pred.always]

@[simp] theorem slotOn_idle {α : Type} (b : Nib) (op : α) : slotOn b (Slot.idle op) = true := predHolds_always b

@[simp] theorem matFault_idle (b : Nib) : matFault b (Slot.idle (0, {})) = none := by
  simp [matFault, Slot.idle, slotOn, faultIf, matOk_idle, matOwned, matRings, matWeight, matDrains]
  cases b.stage <;> simp

@[simp] theorem vecFault_idle (b : Nib) : vecFault b (Slot.idle (0, {})) = none := by
  unfold vecFault
  split
  · rfl
  · simp [Slot.idle, faultIf, vecOk_idle]
    cases b.stage <;> cases b.topk <;> simp

@[simp] theorem stmFault_idle (s : State) (n c : Nat) : stmFault s n c (Slot.idle (0, {})) = none := by
  simp [stmFault, Slot.idle, slotOn, stmOk_idle]

@[simp] theorem synFault_idle (s : State) (n c : Nat) : synFault s n c (Slot.idle .nop) = none := by
  simp [synFault, Slot.idle, slotOn, isTest, synTid]

@[simp] theorem ctlFault_idle (b : Nib) (h : (b.branch.isSome && atLoopEnd b) = false) :
    ctlFault b (Slot.idle .nop) = none := by
  simp [ctlFault, Slot.idle, slotOn, faultIf, ctlOk, isTransfer, branchTarget, loopSetup] at *
  cases hb : b.branch <;> simp_all

@[simp] theorem matFrz_idle (s : State) (n : Nat) (cy : Cyc) : matFrz s n (Slot.idle (0, {})) cy = none := by
  simp [matFrz, Slot.idle, slotOn, matOk_idle, matOwned, matRings, matWeight, matAct, matDrains, frzOf]

@[simp] theorem waitOf_idle (s : State) (n c : Nat) : waitOf s n c (Slot.idle .nop) = .none := by
  simp [waitOf, Slot.idle, slotOn, synTid]

/-! ### Fencing and sequencing -/

@[simp] theorem sequence_checks (b : Nib) (o : Option Ctl) : (sequence b o).checks = b.checks := by
  unfold sequence; split <;> (try rfl); split <;> rfl

@[simp] theorem sequence_cycle (b : Nib) (o : Option Ctl) : (sequence b o).cycle = b.cycle := by
  unfold sequence; split <;> (try rfl); split <;> rfl

@[simp] theorem sequence_regs (b : Nib) (o : Option Ctl) : (sequence b o).regs = b.regs := by
  unfold sequence; split <;> (try rfl); split <;> rfl

/-- Nothing is reported before a cycle in which no failed comparison is due. -/
theorem raiseChecks_none (s : State) (n lim : Nat) (h : ∀ k ∈ (nibOf s n).checks, lim ≤ k.due) : raiseChecks s n lim = s := by
  simp [raiseChecks]
  exact fun x hx hlt => absurd (h x hx) (Nat.not_le.mpr hlt)

/-- The end of a bundle without a failed comparison due and below the fencing threshold. -/
theorem fenceCheck_quiet (s : State) (n : Nat)
    (h : fld (nibReg (nibOf s n) Reg.NIB_ABFT_FENCE_COUNT) 7 0 < fenceThr (nibOf s n))
    (hk : ∀ k ∈ (nibOf s n).checks, (nibOf s n).cycle ≤ k.due) : fenceCheck s n = s := by
  unfold fenceCheck
  rw [raiseChecks_none s n _ hk]
  simp [fenceDue, Nat.not_le.mpr h]

/-- A held cycle in which no failed comparison is due. -/
theorem heldCheck_quiet (s : State) (n : Nat) (hk : ∀ k ∈ (nibOf s n).checks, (nibOf s n).cycle ≤ k.due) :
    heldCheck s n = s := by
  unfold heldCheck
  rw [if_pos]
  simpa using hk

/-! ### The issue of a bundle -/

/-- An event that brings nothing. -/
@[simp] theorem wellEvent_none (s : State) (n : Nat) : wellEvent s ⟨n, 0, [], 0⟩ = s := by
  simp [wellEvent]

/-- A cycle without lost banks and well errors. -/
theorem wellCycle_calm (s : State) (n : Nat) {cy : Cyc} (h : calm cy = true) : wellCycle s n cy = s := by
  obtain ⟨_, _, _, _, _, _, _, _, _⟩ := cy
  simp [calm] at h
  obtain ⟨⟨⟨⟨rfl, rfl⟩, rfl⟩, rfl⟩, rfl⟩ := h
  simp [wellCycle, wellEvents]

/-- A cycle without lost banks and well errors. -/
@[simp] theorem wellCycle_clean (s : State) (n : Nat) : wellCycle s n {} = s := wellCycle_calm s n rfl

/-- A slot command of a nib that is ready, whose bundle neither freezes nor waits, issues the bundle. -/
theorem slotCmd_issue {s : State} {n c : Nat} {x : Bundle} {cy : Cyc} (h : slotReady s n c cy = true)
    (hy : wellCycle s n cy = s)
    (hz : matFrz (commit s n) n x.mat cy = none) (hw : waitOf (commit s n) n c x.syn = .none) :
    slotCmd s n x cy = .next (issue (commit s n) n c x cy .none) := by
  simp only [slotReady, Bool.and_eq_true] at h
  obtain ⟨⟨⟨⟨hp, hr⟩, hh⟩, hc⟩, ⟨⟨⟨⟨hs, -⟩, -⟩, -⟩, -⟩⟩ := h
  have hc : ctxOfNib s n = some c := by simpa using hc
  have hh : (nibOf s n).hold = none := by simpa using hh
  have hs : stageFrz (commit s n) n cy = none := by simpa using hs
  simp [slotCmd, onNibCmd, nibOk, hp, slotCycle, hh, nibCycle, hr, hc, cycleOf, hy, hz, hs, Frz.join, hw,
    grantNow, waitStep]

/-- A bundle without faults that does not halt: its slots take effect and the nib moves on. -/
theorem issue_runs {s : State} {n c : Nat} {x : Bundle} {cy : Cyc} {w : Wait} (hf : bundleFaults s n c x = [])
    (ho : ctlOn (nibOf s n) x ≠ some .halt) :
    issue s n c x cy w = fenceCheck (finishIssue (runSlots s n c x cy) n (ctlOn (nibOf s n) x)) n := by
  simp [issue, hf, ho]

/-! ### Bundles that hold one control operation -/

/-- A vector slot that does nothing. -/
@[simp] theorem vecDest_idle (b : Nib) : (if vecOn b (Slot.idle (0, {})) = true then vecDest 0 {} else []) = [] := by
  split <;> rfl

/-- A bundle of one control operation faults where that operation does. -/
theorem bundleFaults_ctl (s : State) (n c : Nat) (p : Pred) (o : Ctl)
    (h : ctlFault (nibOf s n) ⟨p, some o, word32 p (ctlBits o)⟩ = none) : bundleFaults s n c (ctlBundle p o) = [] := by
  have h1 := matFault_idle (nibOf s n)
  have h2 := vecFault_idle (nibOf s n)
  have h3 := stmFault_idle s n c
  have h4 := synFault_idle s n c
  unfold bundleFaults ctlBundle Bundle.idle
  simp only [h, h1, h2, h3, h4, List.filterMap_eq_nil_iff]
  intro i hi
  have hi : i < 5 := by simpa using hi
  have hd : dests (nibOf s n) ⟨⟨p, some o, word32 p (ctlBits o)⟩, Slot.idle (0, {}), Slot.idle (0, {}), Slot.idle (0, {}),
      Slot.idle .nop⟩ = [if slotOn (nibOf s n) ⟨p, some o, word32 p (ctlBits o)⟩ then ctlDest o else [], [], [], [], []] := by
    have := vecDest_idle (nibOf s n)
    simp only [dests, Slot.idle] at this ⊢
    simp [synDest, vecDest, slotOn, ite_self]
  rw [hd]
  obtain rfl | rfl | rfl | rfl | rfl : i = 0 ∨ i = 1 ∨ i = 2 ∨ i = 3 ∨ i = 4 := by omega
  all_goals simp [conflictAt]

theorem doMat_idle (s : State) (n : Nat) (b : Nib) (f : MatF) (cy : Cyc) : doMat s n b 0 f cy = s := by simp [doMat]
theorem doVec_idle (s : State) (n : Nat) (b : Nib) (f : VecF) (l : List Bool) : doVec s n b 0 f l = s := by simp [doVec]
theorem doStm_idle (s : State) (n c : Nat) (b : Nib) (f : StmF) : doStm s n c b 0 f = s := by simp [doStm]
theorem doSyn_idle (s : State) (n c : Nat) (b : Nib) : doSyn s n c b .nop = s := by simp [doSyn, synTid]

/-- The slots of a bundle of one control operation take the effect of that operation. -/
theorem runSlots_ctl (s : State) (n c : Nat) (p : Pred) (o : Ctl) (cy : Cyc) :
    runSlots s n c (ctlBundle p o) cy = if predHolds (nibOf s n) p then doCtl s n c (nibOf s n) o else s := by
  unfold runSlots ctlBundle Bundle.idle
  simp only [Slot.idle, slotOn, predHolds_always, doMat_idle, doVec_idle, doStm_idle, doSyn_idle, ite_self]

/-- The control operation that executes in such a bundle. -/
theorem ctlOn_ctl (b : Nib) (p : Pred) (o : Ctl) : ctlOn b (ctlBundle p o) = if predHolds b p then some o else none := rfl

/-! ### The next state -/

/-- What has issued leaves the rest of the package alone: `finishIssue` changes one nib. -/
theorem finishIssue_onlyNib (s : State) (n : Nat) (o : Option Ctl) : OnlyNib s (finishIssue s n o) n :=
  ⟨rfl, fun _ hm => nibOf_onNib_other s _ hm⟩

theorem OnlyNib.refl (s : State) (n : Nat) : OnlyNib s s n := ⟨rfl, fun _ _ => rfl⟩

theorem OnlyNib.trans {s t u : State} {n : Nat} (h : OnlyNib s t n) (k : OnlyNib t u n) : OnlyNib s u n := by
  refine ⟨?_, fun m hm => (k.2 m hm).trans (h.2 m hm)⟩
  have h1 := h.1; have k1 := k.1
  rw [h1] at k1
  exact k1

theorem onNib_onlyNib (s : State) (n : Nat) (f : Nib → Nib) : OnlyNib s (onNib s n f) n :=
  ⟨rfl, fun _ hm => nibOf_onNib_other s f hm⟩

/-- The nib after `finishIssue`, where no bundle was held. -/
theorem nibOf_finishIssue (s : State) (n : Nat) (o : Option Ctl) (h : (nibOf s n).hold = none) :
    nibOf (finishIssue s n o) n = issuedNib (nibOf s n) s.ftc o := by
  have hb : nibOf s n = { nibOf s n with hold := none } := by rw [← h]
  rw [hb]
  simp [finishIssue, issuedNib, newLate, h]

/-- What a change of a nib keeps, if the issue of a bundle is to end without fencing. -/
def Quiet (g : Nib → Nib) : Prop :=
  ∀ b, (g b).hold = b.hold ∧ nibReg (g b) Reg.NIB_ABFT_FENCE_COUNT = nibReg b Reg.NIB_ABFT_FENCE_COUNT
    ∧ nibReg (g b) Reg.NIB_ABFT_CTRL = nibReg b Reg.NIB_ABFT_CTRL ∧ (g b).checks = b.checks ∧ (g b).cycle = b.cycle

theorem quiet_withWrites (ws : Nib → List (Nat × Wr)) : Quiet fun b => withWrites b (ws b) := fun _ => ⟨rfl, rfl, rfl, rfl, rfl⟩

@[simp] theorem nibReg_issuedNib (b : Nib) (now : Nat) (o : Option Ctl) (off : Nat) :
    nibReg (issuedNib b now o) off = nibReg b off := by simp [issuedNib, nibReg]

/-- A slot command of a ready nib whose bundle neither freezes, waits, faults nor halts, and whose operations change only the
nib, by `g`. -/
theorem slotCmd_issues {s : State} {n c : Nat} {x : Bundle} {cy : Cyc} {g : Nib → Nib}
    (h : slotReady s n c cy = true) (hy : wellCycle s n cy = s)
    (hz : matFrz (commit s n) n x.mat cy = none) (hw : waitOf (commit s n) n c x.syn = .none)
    (hf : bundleFaults (commit s n) n c x = []) (hh : ctlOn (atIssue s n) x ≠ some .halt)
    (ho : OnlyNib (commit s n) (runSlots (commit s n) n c x cy) n)
    (hr : nibOf (runSlots (commit s n) n c x cy) n = g (atIssue s n)) (hg : Quiet g) :
    ∃ t, slotCmd s n x cy = .next t ∧ OnlyNib (commit s n) t n
      ∧ nibOf t n = issuedNib (g (atIssue s n)) (commit s n).ftc (ctlOn (atIssue s n) x) := by
  have h' := h
  simp only [slotReady, Bool.and_eq_true] at h'
  obtain ⟨-, ⟨⟨⟨-, hb⟩, hq⟩, hk⟩⟩ := h'
  have hb : (nibOf (commit s n) n).hold = none := by simpa using hb
  have hq : fld (nibReg (nibOf (commit s n) n) Reg.NIB_ABFT_FENCE_COUNT) 7 0 < fenceThr (nibOf (commit s n) n) := by
    simpa using hq
  have hk : ∀ k ∈ (nibOf (commit s n) n).checks, (nibOf (commit s n) n).cycle < k.due := by simpa using hk
  rw [slotCmd_issue h hy hz hw, issue_runs hf hh]
  unfold atIssue at *
  generalize commit s n = u at *
  generalize runSlots u n c x cy = v at *
  have hg := hg (nibOf u n)
  have hn := nibOf_finishIssue v n (ctlOn (nibOf u n) x) (by rw [hr, hg.1, hb])
  have ht : v.ftc = u.ftc := by rw [ho.1]
  rw [hr, ht] at hn
  rw [fenceCheck_quiet]
  · exact ⟨_, rfl, ho.trans (finishIssue_onlyNib _ n _), hn⟩
  · rw [hn]
    simpa [fenceThr, hg.2.1, hg.2.2.1] using hq
  · rw [hn]
    intro k hk'
    have h1 : (issuedNib (g (nibOf u n)) u.ftc (ctlOn (nibOf u n) x)).checks = (nibOf u n).checks := by
      simp [issuedNib, hg.2.2.2.1]
    have h2 : (issuedNib (g (nibOf u n)) u.ftc (ctlOn (nibOf u n) x)).cycle ≤ (nibOf u n).cycle + 1 := by
      simp only [issuedNib, sequence_cycle, hg.2.2.2.2, satAdd]
      split <;> omega
    rw [h1] at hk'
    exact Nat.le_trans h2 (hk k hk')

/-- Writes scheduled where a predicate holds. -/
theorem withWrites_if (b : Nib) (q : Prop) [Decidable q] (ws : List (Nat × Wr)) :
    withWrites b (if q then ws else []) = if q then withWrites b ws else b := by
  split
  · rfl
  · simp [withWrites]

/-- A slot command of a ready nib that holds one control operation, which does not fault or halt and changes only the nib. -/
theorem ctl_issues {s : State} {n c : Nat} {p : Pred} {o : Ctl} {g : Nib → Nib} (h : slotReady s n c = true)
    (hf : ctlFault (atIssue s n) ⟨p, some o, word32 p (ctlBits o)⟩ = none) (hh : o ≠ .halt)
    (ho : OnlyNib (commit s n) (doCtl (commit s n) n c (atIssue s n) o) n)
    (hr : nibOf (doCtl (commit s n) n c (atIssue s n) o) n = g (atIssue s n)) (hg : Quiet g) :
    ∃ t, slotCmd s n (ctlBundle p o) {} = .next t ∧ OnlyNib (commit s n) t n
      ∧ nibOf t n = issuedNib (if predHolds (atIssue s n) p then g (atIssue s n) else atIssue s n) (commit s n).ftc
          (if predHolds (atIssue s n) p then some o else none) := by
  have hx := runSlots_ctl (commit s n) n c p o {}
  have hm : (ctlBundle p o).mat = Slot.idle (0, {}) := rfl
  have hw : waitOf (commit s n) n c (ctlBundle p o).syn = .none := waitOf_idle _ _ _
  have hb : bundleFaults (commit s n) n c (ctlBundle p o) = [] := bundleFaults_ctl _ _ _ _ _ hf
  have hz : matFrz (commit s n) n (ctlBundle p o).mat {} = none := by rw [hm]; exact matFrz_idle _ _ _
  have hc : ctlOn (atIssue s n) (ctlBundle p o) = if predHolds (atIssue s n) p then some o else none := rfl
  by_cases hp : predHolds (atIssue s n) p = true
  · rw [if_pos hp] at hc ⊢
    rw [if_pos hp]
    have hx : runSlots (commit s n) n c (ctlBundle p o) {} = doCtl (commit s n) n c (atIssue s n) o :=
      hx.trans (if_pos hp)
    have ho : OnlyNib (commit s n) (runSlots (commit s n) n c (ctlBundle p o) {}) n := by rw [hx]; exact ho
    have hv : nibOf (runSlots (commit s n) n c (ctlBundle p o) {}) n = g (atIssue s n) := by rw [hx]; exact hr
    have hh' : ctlOn (atIssue s n) (ctlBundle p o) ≠ some .halt := by rw [hc]; simpa using hh
    rw [← hc]
    exact slotCmd_issues h (wellCycle_clean s n) hz hw hb hh' ho hv hg
  · rw [if_neg hp] at hc ⊢
    rw [if_neg hp]
    have hx : runSlots (commit s n) n c (ctlBundle p o) {} = commit s n := hx.trans (if_neg hp)
    have ho : OnlyNib (commit s n) (runSlots (commit s n) n c (ctlBundle p o) {}) n := by
      rw [hx]; exact OnlyNib.refl _ _
    have hv : nibOf (runSlots (commit s n) n c (ctlBundle p o) {}) n = id (atIssue s n) := by rw [hx]; rfl
    have hh' : ctlOn (atIssue s n) (ctlBundle p o) ≠ some .halt := by rw [hc]; simp
    rw [← hc]
    exact slotCmd_issues h (wellCycle_clean s n) hz hw hb hh' ho hv (fun _ => ⟨rfl, rfl, rfl, rfl, rfl⟩)

end Sys2Proof.Machine
end

