-- ==== Sys2Proof/Tests/Slice0.lean ====
section
/-!
SUPPORT. Tests of the model: the checks of WellFormed, slot words written out from the manual's encodings, one small step
here and there, and for every statement with hypotheses a state and operands that meet them.
-/
namespace Sys2Proof.Tests
open Sys2Proof Sys2Proof.Machine
set_option Elab.async false

/-! ### States -/

/-- Context 0 holds cluster 0 with a job of one nib, from reset. -/
def loaded (b : Nib) : State :=
  { State.reset with
    regs := [(Reg.AVF_CTX_CLUSTERS, 1)], nibs := [(0, b)]
    ctxs := [(0, { Ctx.empty with loaded := true, locked := true, geom := 1, packages := 1, spanNibs := 64 })] }

/-- Nib 0 runs, with a code section of `n` bundles of no-operations. -/
def idleNib (n : Nat) : Nib := { Nib.reset with st := 2, code := List.replicate n 0 }

/-- A running nib in a loaded context. -/
def runs : State := loaded (idleNib 8)

/-- A predicate that always holds, and one that never does. -/
def yes : Pred := ⟨false, 0⟩
/-- The negation of p0. -/
def no : Pred := ⟨true, 0⟩

/-! ### WellFormed: a term for each check, which the check refuses -/

/-- A stage-free field set that no vector row uses in full. -/
def allVec : VecF := ⟨15, 15, 15, 15, 12, 15, true, true, 7, 31, 63, 3, 3, 7⟩
/-- Matrix fields with everything set. -/
def allMat : MatF := ⟨15, 15, 15, 7, 3, true, true, true, 15, 15, 15, 3, true, 15, 7, true, 15, 15, true, 15⟩
/-- Stream fields with everything set. -/
def allStm : StmF := ⟨15, 15, 31, 31, 15, 0xFFFFFFFF⟩

theorem test_wf_nib : (([fun n => .bundleIssue n {}, fun n => .freezeReleaseIssue n 0 {}, fun n => .contextHaltArrival n false, fun n => .streamOutWrite n [],
   fun n => .stageStep n {}, fun n => .stageStreamIn n {}, .stageEnd, fun n => .twaitSatisfied n 0 {}, .remoteWaitArrive,
   fun n => .rotationForward n 0 [] [], fun n => .expanderFactorLoad n [], fun n => .expanderTile n false [], fun n => .tagLand n 0 0 [] [],
   fun n => .frzClear .owl n 0, fun n => .alu n yes 1 2 3 0, fun n => .addiS n yes 1 2 0, fun n => .andiS n yes 1 2 0,
   fun n => .oriS n yes 1 2 0, fun n => .xoriS n yes 1 2 0, fun n => .shliS n yes 1 2 0, fun n => .shriS n yes 1 2 0,
   fun n => .sraiS n yes 1 2 0, fun n => .moviS n yes 1 0, fun n => .movhS n yes 1 0, fun n => .pset n yes 1 2 3 0,
   fun n => .plog n yes 1 2 3 0, fun n => .aaddA n yes 1 2 3 0, fun n => .aaddiA n yes 1 2 0, fun n => .asetA n yes 1 2 false,
   fun n => .amvS n yes 1 2 false, fun n => .bra n yes 0, fun n => .jal n yes 0, fun n => .jr n yes 0]
  ++ [fun n => .loopS n yes 0 0, fun n => .loopi n yes 0 0, fun n => .rdsys n yes 0 0, fun n => .halt n yes,
   fun n => .trap n yes 0, fun n => .tsig n yes 0 0, fun n => .twait n yes 0 0, fun n => .ttest n yes 0 0,
   fun n => .tsigR n yes 0 0, fun n => .twaitR n yes 0 0, fun n => .ttestR n yes 0 0 0, fun n => .coll n yes 0 0 {},
   fun n => .signalRelease (.nib n) 0, fun n => .signalArrive (.nib n 15) 0 []] : List (Nat → Instr))).all (fun f => (f 3071).wf && !(f 3072).wf) = true := by decide +kernel

/-- Fields that an opcode uses, in FP32, or in INT32 where it requires that. -/
def vecFields (op : Nat) : VecF :=
  match vecRow op with
  | some (m, fs, _) =>
    { keepVec m { allVec with fmt := if fs = .int32 then 13 else if fs = .none then 0 else 12, fmt2 := if op = 0x30 then 10 else 5,
                              va := 3, passes := 0, sb := if op = 0x30 then 0 else 31 } with sat := false }
  | none => {}

theorem test_wf_vec : (([(1, .vadd), (2, .vsub), (3, .vmul), (4, .vfma), (8, .vmin), (9, .vmax), (10, .vcmp), (11, .vsel), (16, .viadd), (17, .visub),
   (18, .viand), (19, .vior), (20, .vixor), (21, .vishl), (22, .vishr), (23, .visra)]
  ++ [(0x20, .vexp2), (0x21, .vlog2), (0x22, .vexp), (0x23, .vlog), (0x24, .vrcp), (0x25, .vrsqrt), (0x28, .vsmx), (0x29, .vrsum),
   (0x2A, .vrmax), (0x2C, .vtopk), (0x30, .vcvt), (0x38, .vbcast), (0x39, .vget), (0x3A, .vmov), (0x3C, .vdga)] : List (BitVec 8 × (Nat → Pred → VecF → Instr)))).all (fun f => (f.2 3071 yes (vecFields f.1.toNat)).wf && !(f.2 3072 yes (vecFields f.1.toNat)).wf
    && !(f.2 0 yes allVec).wf) = true := by decide +kernel

theorem test_wf_mat :
    (Instr.mld 0 yes { tm := 1, wf := 10 } {}).wf = true ∧ (Instr.mld 0 yes allMat {}).wf = false
    ∧ (Instr.mlda 0 yes { tm := 1, af := 10 } {}).wf = true ∧ (Instr.mlda 0 yes allMat {}).wf = false
    ∧ (Instr.mmul 0 yes { tm := 1, wf := 10, af := 10 } {}).wf = true ∧ (Instr.mmul 0 yes allMat {}).wf = false
    ∧ (Instr.mdrain 0 yes { tm := 1, fo := 10 }).wf = true ∧ (Instr.mdrain 0 yes allMat).wf = false
    ∧ (Instr.mpop 0 yes { tm := 1 }).wf = true ∧ (Instr.mpop 0 yes allMat).wf = false
    ∧ (Instr.mpop 3072 yes { tm := 1 }).wf = false := by decide +kernel

theorem test_wf_stm :
    (Instr.xfer 0 yes { imm := 0x10F } {}).wf = true ∧ (Instr.xfer 0 yes allStm {}).wf = false
    ∧ (Instr.sld 0 yes { rv := 1 } {}).wf = true ∧ (Instr.sld 0 yes allStm {}).wf = false
    ∧ (Instr.sst 0 yes { rv := 1 } {}).wf = true ∧ (Instr.sst 0 yes allStm {}).wf = false
    ∧ (Instr.rbset 0 yes { imm := 11 }).wf = true ∧ (Instr.rbset 0 yes { imm := 10 }).wf = false
    ∧ (Instr.rbpop 0 yes { rv := 1 }).wf = true ∧ (Instr.rbpop 0 yes allStm).wf = false
    ∧ (Instr.stg 0 yes { aa := 1 } {}).wf = true ∧ (Instr.stg 0 yes allStm {}).wf = false
    ∧ (Instr.stgs 0 yes {}).wf = true ∧ (Instr.stgs 0 yes allStm).wf = false
    ∧ (Instr.xcancel 0 yes { imm := 15 }).wf = true ∧ (Instr.xcancel 0 yes allStm).wf = false := by decide +kernel

theorem test_wf_ctl :
    (Instr.alu 0 yes 1 2 3 14).wf = true ∧ (Instr.alu 0 yes 1 2 3 15).wf = false
    ∧ (Instr.shliS 0 yes 1 2 31).wf = true ∧ (Instr.shliS 0 yes 1 2 32).wf = false
    ∧ (Instr.shriS 0 yes 1 2 32).wf = false ∧ (Instr.sraiS 0 yes 1 2 32).wf = false
    ∧ (Instr.pset 0 yes 1 2 3 5).wf = true ∧ (Instr.pset 0 yes 1 2 3 6).wf = false
    ∧ (Instr.rdsys 0 yes 1 6).wf = true ∧ (Instr.rdsys 0 yes 1 7).wf = false
    ∧ (Instr.tagLand 0 0 32 [] []).wf = false := by decide +kernel

theorem test_wf_acc : (([fun a => .registerWrite a 0 0 0 true, fun a => .pairLowRead a 0, fun a => .pairHighRead a 0, fun a => .pairLowWrite a 0 0,
   fun a => .pairHighWrite a 0 0, fun a => .unmappedAccess a 0 false, fun a => .talWinRead a 0, fun a => .talWinWrite a 0,
   fun a => .frzClear a 0 0, .form, .start, .stop, .estop, fun a => .resume a true, fun a => .switch a 0, .release,
   fun a => .dirRead a 0, fun a => .dirWrite a 0, fun a => .regionWrite a 0 0 0, fun a => .zero a 0, fun a => .rebuild a 0]
  ++ [fun a => .refold a 0, fun a => .bar4Access a 0 1 none, fun a => .retrain a 0 0, fun a => .routeWinRead a 0,
   fun a => .routeWinWrite a 0, fun a => .exactModeWrite a 0 0, fun a => .startArm a 0 0, fun a => .sqTailDoorbell a 0 0,
   fun a => .cqHeadDoorbell a 0 0, fun a => .queueEnable a 0 0 0, fun a => .queueDisable a 0 0 0, fun a => .queuePause a 0 0 0,
   fun a => .queueResume a 0 0 0, fun a => .clustersWrite a 0 0, fun a => .contextBindWrite a 0 0, fun a => .fence a true,
   .testUnit, .returnUnit, fun a => .repair a [], .abort] : List (Acc → Instr))).all (fun f => (f (.host 1 15)).wf && (f .owl).wf && !(f (.host 2 0)).wf && !(f (.host 0 16)).wf)
    = true := by decide +kernel

theorem test_wf_pair : (([.nop, .load, .unload, .hostXfer, .tallySignal, .tallyWait, .ribReq, .tierCopy, .sealOutput, .manifestLoad, .verifyBlocks, .attest,
   .recordWrite, .ownerCmd, .blockDigest, .releaseManifest, .commandFetch, .completionWrite, fun c q => .stripDelivered c q 0 [],
   fun c q => .pageFault c q 0 0 true, fun c q => .pageRequestResponse c q 0 true, fun c q => .priTimeout c q 0 0,
   fun c q => .tallyWaitTimeout c q 0 0, fun c q => .tierCopyComplete c q 0 0, fun c q => .queueEnable .owl c q 0,
   fun c q => .queueDisable .owl c q 0, fun c q => .queuePause .owl c q 0, fun c q => .queueResume .owl c q 0,
   fun c q => .sqTailDoorbell (.host 0 c) q 0, fun c q => .cqHeadDoorbell (.host 0 c) q 0] : List (Nat → Nat → Instr))).all (fun f => (f 15 15).wf && !(f 16 0).wf && !(f 0 16).wf) = true := by decide +kernel

theorem test_wf_ctx : (([fun c => .hangWatchdog c 0, fun c => .signalRelease (.host c) 0, fun c => .collAgreement c 0 [] [],
   fun c => .endpointFallback c 0 0 0 0 0, fun c => .collComplete c 0, fun c => .exactModeWrite .owl c 0, fun c => .startArm .owl c 0,
   fun c => .startRecordReceive c ⟨0, 0, 0, false, 1, 0⟩, fun c => .startRecordTimeout c 0, .goReceive,
   fun c => .refuseReceive c 0 0, fun c => .startVerdictTimeout c 0, fun c => .jobStart c [], fun c => .layerRecordWrite c 0 0,
   .busMasterDisable, .busMasterEnable, .functionLevelReset, fun c => .clustersWrite .owl c 0,
   fun c => .contextBindWrite .owl c 0, fun c => .getReport 0 c 0, fun c => .segmentAcknowledge c 0 0 0 0 0 true] : List (Nat → Instr))).all (fun f => (f 15).wf && !(f 16).wf) = true := by decide +kernel

theorem test_wf_port : (([.flitSend, fun p => .flitReceive p ⟨0, 0, 0, 0, 0, 0, 0, 0, 0, 0, [], 0, [], none, none, none⟩ [] false, fun p => .nakReceive p 0,
   fun p => .fecLockLoss p 3 0, fun p => .portDown p true [], fun p => .trainingTimeout p 0, fun p => .trainingRetry p 0,
   fun p => .identityFlitReceive p ⟨0, 0, 0, 0, 0, 0, 0⟩ true, fun p => .retrain .owl p 0, fun p => .linkRecalBurst p 3 0 0,
   fun p => .laneSpare p 3 true, fun p => .formMarkReceive false 0 0 p, .ftcExchange, .lightDetect, .equaliseComplete, fun p => .fecLockAcquire p 15,
   .recalibrationBurstEnd] : List (Nat → Instr))).all (fun f => (f 31).wf && !(f 32).wf) = true := by decide +kernel

theorem test_wf_bounds : (([(4, fun d => .chainForward d 0 0 [] [] []), (12, fun k => .chainForward 0 k 0 [] [] []), (4, .landingFrameRelease),
   (4, fun d => .meshFlitSend d 0 0), (4, fun d => .crossingDeliver d 0), (4, .clockStep), (4, .clockStop),
   (128, fun p => .formMarkReceive false 0 p 0), (128, fun p => .dirchkReceive false p 0 0), (128, .memberFailed),
   (64, fun r => .regionWrite .owl r 0 0), (16, fun i => .regionWrite .owl 0 i 0), (64, fun r => .zero .owl r),
   (64, fun r => .rebuild .owl r), (64, fun r => .refold .owl r), (64, .rebuildStripe), (256, fun h => .refreshSlot h 0),
   (256, fun h => .calibrationSlot h 0), (256, fun h => .opportunisticCalibration h 0), (256, fun h => .channelFail h false),
   (8, .offScheduleRefresh), (8, fun n => .stackTempReport n 0 0), (2, .perstAssert), (2, fun p => .perstRelease p 0),
   (2, fun p => .atsInvalidation p 0 0), (65536, fun t => .segmentArrive t 0 0 0 0 0 0 [] [] 0 false 0),
   (16, .fecLockAcquire 0)]
  ++ [(3, fun b => .getReport b 0 0), (3, .getCert), (3, .getNonce), (3, fun b => .mctpOwnerCmd b []),
   (3, fun b => .pldmFirmwareUpdate b []), (3, fun b => .mctpEndpointIdAssign b 0), (16, fun k => .testEnd k 0 true 0 0 0),
   (65536, fun u => .testEnd 1 u true 0 0 0), (4, fun l => .fecLockLoss 0 l 0), (4, fun l => .linkRecalBurst 0 l 0 0),
   (4, fun l => .laneSpare 0 l true), (16384, fun h => .signalArrive (.hub h) 0 []), (16, fun i => .signalArrive (.nib 0 i) 0 [])] : List (Nat × (Nat → Instr)))).all (fun f => (f.2 (f.1 - 1)).wf && !(f.2 f.1).wf) = true := by decide +kernel

theorem test_wf_memory :
    (Instr.hbmRead (Config.hbmBytes - 64) 0 false).wf = true ∧ (Instr.hbmRead Config.hbmBytes 0 false).wf = false
    ∧ (Instr.hbmRead 32 0 false).wf = false ∧ (Instr.hbmWrite Config.hbmBytes [0] false).wf = false
    ∧ (Instr.adderWrite Config.hbmBytes [0] false).wf = false ∧ (Instr.bar4Access .owl 0 0 none).wf = false
    ∧ (Instr.verifyNoticeReceive 128 (List.replicate 28 0)).wf = false ∧ (Instr.verifyNoticeReceive 0 []).wf = false
    ∧ (Instr.verifyNoticeReceive 127 (List.replicate 28 0)).wf = true := by decide +kernel


/-! ### Slot words written out from the manual's tables: control (R84 to R88), sync (R127), stream (R117, R118), matrix
(R109, R110), vector (R89, R90); where the manual gives the word as an example, that word -/

/-- A bundle with a control word. -/
def ctlAt (w : BitVec 32) : Option Ctl := (bundleOf (0#224 ++ w)).ctl.op
/-- A bundle with a sync word. -/
def synAt (w : BitVec 32) : Option Syn := (bundleOf (w ++ 0#224)).syn.op

theorem test_word_alu : ctlAt 0x00422180 = some (.alu 1 2 3 0) := by decide +kernel
theorem test_word_addi : ctlAt 0x008A3FF4 = some (.immS 0 5 3 (-12)) := by decide +kernel
theorem test_word_movi : ctlAt 0x0249FFFF = some (.movi 4 (-1)) := by decide +kernel
theorem test_word_loopi : ctlAt 0x05400C01 = some (.loopi 3 1) := by decide +kernel
theorem test_word_bra :
    ctlAt 0x1441FFFD = some (.bra (-3)) ∧ (bundleOf (0#224 ++ 0x1441FFFD#32)).ctl.pred = ⟨false, 1⟩ := by decide +kernel
theorem test_word_halt :
    ctlAt 0x95C00000 = some .halt ∧ (bundleOf (0#224 ++ 0x95C00000#32)).ctl.pred = ⟨true, 1⟩ := by decide +kernel
theorem test_word_trap : ctlAt 0x0600BEEF = some (.trap 0xBEEF) := by decide +kernel
theorem test_word_reserved :
    ctlAt 0x06400000 = none ∧ ctlAt 0x00000001 = none ∧ ctlAt 0x02810000 = none ∧ ctlAt 0x05C00001 = none
    ∧ synAt 0x08000000 = none ∧ synAt 0x03000001 = none ∧ synAt 0x00000001 = none := by decide +kernel
theorem test_word_twait : synAt 0x02ABCDE7 = some (.twait 0xABCDE 7) := by decide +kernel
theorem test_word_coll : synAt 0x07300012 = some (.coll 3 0x12) := by decide +kernel

theorem test_word_sld :
    (bundleOf (0#32 ++ 0x0080C00500000100#64 ++ 0#160)).stm.op = some (2, { rv := 5, aa := 3, imm := 0x100 }) := by decide +kernel
theorem test_word_mmul :
    (bundleOf (0#160 ++ 0x031AAA1234000000#64 ++ 0#32)).mat.op
      = some (3, { tm := 1, wf := 10, af := 10, bank := 5, init := true, wrb := 2, arb := 3, row := 4 }) := by decide +kernel
theorem test_word_vfma :
    (bundleOf (0#96 ++ 0x0041234C00000000#64 ++ 0#96)).vec.op
      = some (4, { vd := 1, va := 2, vb := 3, vc := 4, fmt := 12 }) := by decide +kernel
theorem test_word_vec_reserved : (bundleOf (0#96 ++ 0x0041234C00000001#64 ++ 0#96)).vec.op = none := by decide +kernel

/-! ### Nibs: witnesses of the statements of the control and vector slots -/

theorem test_wit_control :
    slotReady runs 0 0 = true ∧ (14#7).toNat < 15 ∧ (31#12).toNat < 32 ∧ (5#4).toNat < 6 ∧ (6#4).toNat < 7 := by decide +kernel

/-- A nib in a loop of one iteration that ends at bundle 7, its loop stack three deep. -/
def looping : State :=
  loaded { idleNib 8 with pc := 1, loops := [⟨0, 7, 2⟩, ⟨0, 7, 1⟩, ⟨0, 7, 1⟩], sregs := [(1, 7), (2, 1)] }

theorem test_wit_transfers :
    slotReady looping 0 0 = true ∧ (atIssue looping 0).branch = none ∧ atLoopEnd (atIssue looping 0) = false
    ∧ inCode (atIssue looping 0) (branchTo (atIssue looping 0) 6) = true
    ∧ inCode (atIssue looping 0) (branchTo (atIssue looping 0) (-1)) = true
    ∧ inCode (atIssue looping 0) (sreg (atIssue looping 0) 1).toNat = true := by decide +kernel

/-- The widest body inside the outer loop, for a count of one from a register and from the immediate; a count of zero. -/
theorem test_wit_loops :
    (sreg (atIssue looping 0) 2).toNat = 1 ∧ (0#12).toNat = 0 ∧ (atIssue looping 0).loops.length < 4
    ∧ ∀ l ∈ (atIssue looping 0).loops.head?, (atIssue looping 0).pc + ((5#10).toNat + 1) ≤ l.stop := by decide +kernel

theorem test_wit_sequencing :
    (let b := { idleNib 16 with pc := 12 }
     b.branch = none ∧ b.loops = [] ∧ inCode b (branchTo b 3) = true ∧ b.pc + 3 < 8192 ∧ (1#12) ≠ 0)
    ∧ (let b := { idleNib 8 with pc := 7, loops := [⟨0, 7, 2⟩] }
       b.branch = none ∧ b.loops = [⟨0, 7, 2⟩] ∧ b.pc = 7 ∧ (0 : Nat) < 8192 ∧ 1 < 2) := by decide +kernel

theorem test_wit_trap : slotReady runs 0 0 = true ∧ predHolds (atIssue runs 0) yes = true := by decide +kernel
theorem test_wit_halt : predHolds (atIssue runs 0) no = false ∧ predHolds (atIssue runs 0) yes = true := by decide +kernel

theorem test_wit_vector :
    ([1, 2, 3, 4, 8, 9, 10, 11, 16, 17, 18, 19, 20, 21, 22, 23, 0x20, 0x21, 0x22, 0x23, 0x24, 0x25, 0x28, 0x29, 0x2A, 0x2C, 0x30,
      0x38, 0x39, 0x3A, 0x3C].all fun op => vecOk op (vecFields op) && vecReady runs 0 0 op) = true := by decide +kernel
/-- The other formats: BF16 for the float operations, INT32 for those of the integer statement, which vcmp and vsel share. -/
theorem test_wit_formats :
    ([1, 2, 3, 4, 8, 9, 10, 11].all fun op => vecOk op { va := 2, vb := 3, fmt := 10 }) = true
    ∧ ([8, 9, 10, 11, 16].all fun op => vecOk op { va := 2, vb := 3, fmt := 13 }) = true
    ∧ (vecFields 16).fmt.toNat = 13 ∧ (vecFields 8).fmt.toNat ≠ 13 := by decide +kernel

theorem test_wit_vdga :
    (ctxOf (commit runs 0) 0).plan = none ∧ ctxOfNib (commit runs 0) 0 = some 0 := by decide +kernel
theorem test_wit_topk : (([(0, f32 1), (3, f32 2)] : List (Nat × Val)).map (·.1)).Nodup ∧
    (topOf 2 [(0, f32 1), (3, f32 2)]).head?.isSome = true := by decide +kernel
theorem test_wit_lanes :
    (List.replicate 64 true).length = 64 ∧ (List.replicate 64 (2 ^ 32 - 1)).length = 64
    ∧ (∀ k ∈ List.replicate 64 (2 ^ 32 - 1), k < 2 ^ 32) ∧ 63 < 64 := by decide +kernel

/-! ### Nibs: witnesses of the statements of the matrix, stream and sync slots -/

/-- A configured ring of 4 KiB at a well offset, with `fill` bytes. -/
def ringAt (base fill : Nat) : Ring := { Ring.empty with valid := true, log2 := 12, base := base, fill := fill }

/-- A nib with 4 KiB in rings 2 and 3, ring 4 empty, and a stage descriptor at 0x100 of its well (OS, BF16, 16 steps). -/
def matNib : Nib :=
  { idleNib 8 with
    rings := [(2, ringAt 4096 4096), (3, ringAt 8192 4096), (4, ringAt 12288 0)],
    aregs := [(1, 0x100), (2, 0x4000000000000004), (3, 16384), (4, 0x400)], sregs := [(1, 64), (2, 65536)],
    drains := [(0, [⟨List.replicate 16 1, 12, false, true, 0, 0, false, 0, false⟩])]
    well := writeBytes [] 0x100 ([1, 4, 1, 0, 16, 0, 0, 0] ++ natLE 8 0x031AA01230000000) }

/-- Context 0 with a map entry of kind 1 (the nib's own tallies) at identifier 0. -/
def mapped (b : Nib) : State :=
  { loaded b with ctxs := (loaded b).ctxs.map fun x =>
      (x.1, { x.2 with tmap := [(0, 0x00100000), (1, 16), (3, 0x80000000)] }) }

/-- What an stg of that descriptor has asked for. -/
def theReq : StgReq := ⟨0x100, 0, 0, List.replicate 16 0, none, false⟩
/-- The fields of a matrix step in BF16. -/
def mmulF : MatF := { tm := 1, wf := 10, af := 10, wrb := 2, arb := 3, init := true }

theorem test_wit_matrix :
    matReady (loaded matNib) 0 0 yes 1 { tm := 1, wf := 10, wrb := 2 } {} = true
    ∧ matReady (loaded matNib) 0 0 yes 2 { tm := 1, af := 10, arb := 3, row := 15 } {} = true
    ∧ matReady (loaded matNib) 0 0 yes 3 mmulF {} = true ∧ predHolds (atIssue (loaded matNib) 0) yes = true
    ∧ tolOn (atIssue (loaded { matNib with regs := [(Reg.NIB_ABFT_CTRL, 0x00030C00)] }) 0) = false
    ∧ matReady (loaded { matNib with regs := [(Reg.NIB_ABFT_CTRL, 0x00030C00)] }) 0 0 yes 3 mmulF {} = true
    ∧ matReady (loaded matNib) 0 0 yes 4 { tm := 1, dest := true } {} = true
    ∧ matReady (loaded matNib) 0 0 yes 5 { tm := 1 } {} = true := by decide +kernel
/-- With the comparison on, a step on zeros does not fail it. -/
theorem test_wit_tol :
    ((stepOuts (atIssue (loaded matNib) 0) mmulF 0 0 (weightSlice (atIssue (loaded matNib) 0) false 2)
      (fun t => actVec (atIssue (loaded matNib) 0) (arbOf mmulF t) 10 (ringOf (atIssue (loaded matNib) 0) (arbOf mmulF t)).rd)
      ⟨0, 127, 127, false⟩ []).all fun o => o.2.1.tol != some true) = true := by decide +kernel
theorem test_wit_tile : macs 10 = 1 ∧ (List.replicate 16 (⟨2 ^ 256 - 1, 127, 127, false⟩ : OpVec)).length = 16
    ∧ ∀ v ∈ List.replicate 16 (⟨2 ^ 256 - 1, 127, 127, false⟩ : OpVec), v.data < 2 ^ 256 := by decide +kernel

theorem test_wit_transfer :
    stmReady (loaded matNib) 0 0 yes 1 { aa := 1, ad := 3, sb := 1, imm := 0x00F } = true
    ∧ stmReady (loaded matNib) 0 0 yes 1 { aa := 1, ad := 3, sb := 2 } = true
    ∧ stmReady (mapped matNib) 0 0 yes 1 { aa := 1, ad := 3, sb := 1, sc := 3, imm := 0x100 } = true
    ∧ predHolds (atIssue (loaded matNib) 0) yes = true := by decide +kernel
/-- Store to a well and append to a ring; load from a well. -/
theorem test_wit_load_store :
    stmReady (loaded matNib) 0 0 yes 2 { aa := 1, imm := 0x100 } = true
    ∧ stmReady (loaded matNib) 0 0 yes 3 { aa := 1, imm := 0x100 } = true
    ∧ stmReady (loaded matNib) 0 0 yes 3 { aa := 2 } = true := by decide +kernel
/-- The stage of the witness runs in a state with stgs. -/
theorem test_wit_rings :
    stmReady (loaded matNib) 0 0 yes 4 { rv := 5, aa := 3, imm := 0x2B } = true
    ∧ stmReady (loaded matNib) 0 0 yes 5 { rv := 2, sb := 1 } = true
    ∧ stmReady (loaded matNib) 0 0 yes 6 { aa := 1 } = true
    ∧ stmReady (loaded (stageStart matNib theReq (readBytes matNib.well 0x100 64))) 0 0 yes 7 {} = true
    ∧ stmReady (loaded matNib) 0 0 yes 8 { imm := 15 } = true := by decide +kernel
/-- A ring that the bytes fill to the last. -/
theorem test_wit_append :
    (ringOf matNib 4).fill + (List.replicate 4096 (0 : Byte)).length ≤ (ringOf matNib 4).size
    ∧ (ringOf matNib 4).base % 64 = 0 ∧ 6 ≤ (ringOf matNib 4).log2 := by
  refine ⟨?_, by decide, by decide⟩
  rw [List.length_replicate]; decide

theorem test_wit_signal :
    synReady (mapped matNib) 0 0 yes (.tsig 15 0) = true
    ∧ resolveTid (commit (mapped matNib) 0) 0 (some 0) 15 false = some (.here (.nib 0 15))
    ∧ synReady (mapped matNib) 0 0 yes (.tsigR 3 1) = true
    ∧ resolveTid (commit (mapped matNib) 0) 0 (some 0) 0 false = some (.here (.nib 0 0))
    ∧ (sreg (atIssue (mapped matNib) 0) 3).toNat % 2 ^ 20 = 0 ∧ 0 < (sreg (atIssue (mapped matNib) 0) 1).toNat % 2 ^ 16
    ∧ predHolds (atIssue (mapped matNib) 0) yes = true ∧ (atIssue (mapped matNib) 0).held.length < 16 := by decide +kernel

/-- The same nib with a count of 1 in its tally 0: enough for K 1, too few for K 16. -/
def counted : State := mapped { matNib with tallies := [(0, ⟨1, false, 0, false⟩)] }

theorem test_wit_wait :
    synReady counted 0 0 yes (.twait 0 0) = true ∧ synReady counted 0 0 yes (.twait 0 15) = true
    ∧ synReady counted 0 0 yes (.twaitR 3 1) = true
    ∧ resolveTid (commit counted 0) 0 (some 0) 0 true = some (.here (.nib 0 0))
    ∧ ((commit counted 0).waits.all fun w => w.tal != TalRef.nib 0 0) = true
    ∧ (talOf (commit counted 0) (.nib 0 0)).count = 1 := by decide +kernel
theorem test_wait_granted :
    (match exec (.twait 0 yes 0 0) counted with
     | .next t => (talOf t (.nib 0 0)).count == 0 && (nibOf t 0).clk == 1
     | _ => false) = true := by decide +kernel
theorem test_wit_test :
    exactMode (commit counted 0) 0 = false ∧ synReady counted 0 0 yes (.ttest 15 3) = true
    ∧ synReady counted 0 0 yes (.ttestR 3 1 3) = true := by decide +kernel

/-- A group descriptor of a barrier over span 1, with the status at 0x400. -/
def barrier : List Byte :=
  [1, 4, 0, 13, 13, 0, 0, 1, 1, 1, 1, 1, 0, 0, 0, 0] ++ zeros 32 ++ [7, 0, 0, 0, 0, 0, 0, 0] ++ [0, 4, 0, 0, 0, 0, 0, 0]
theorem test_wit_coll :
    synReady (mapped { matNib with well := writeBytes [] 0x400 barrier }) 0 0 yes (.coll 4 15) = true := by decide +kernel

/-! ### Nibs: witnesses of the statements of the sequencer, stream-out, tags and stages -/

/-- A nib whose bundle at the PC adds one to s5. -/
def adder : Nib := { idleNib 8 with code := [0#224 ++ 0x008A5001#32, 0] }
theorem test_wit_bundle :
    slotReady (loaded adder) 0 0 = true
    ∧ issueOk (commit (loaded adder) 0) 0 0 (bundleOf (adder.code.getD adder.pc 0)) {} = true := by decide +kernel
theorem test_bundle_adds :
    (match exec (.bundleIssue 0 {}) (loaded adder) with
     | .next t => sreg (atIssue t 0) 5 == 1 && (nibOf t 0).pc == 1
     | _ => false) = true := by decide +kernel

/-- A bundle with a reserved control opcode and an invalid sync operation. -/
def faulty : State := loaded { idleNib 8 with code := [0x08000000#32 ++ 0#192 ++ 0x06400000#32] }
theorem test_wit_faults :
    slotReady faulty 0 0 = true
    ∧ (matFrz (commit faulty 0) 0 (bundleOf ((nibOf faulty 0).code.getD 0 0)).mat {}).isNone = true
    ∧ waitOf (commit faulty 0) 0 0 (bundleOf ((nibOf faulty 0).code.getD 0 0)).syn = .none
    ∧ bundleFaults (commit faulty 0) 0 0 (bundleOf ((nibOf faulty 0).code.getD 0 0))
        = [(0, 1, 0x06400000), (4, 1, 0x08000000)] := by decide +kernel

/-- A step held until ring 2 had bytes; it has them now. -/
def frozen : Hold := ⟨matBundle yes 3 mmulF, 3, [2], false, 0, some ⟨true, false, false, false⟩, false, none⟩
def frozenAt : State := loaded { matNib with hold := some frozen }
theorem test_wit_freeze :
    populated frozenAt 0 = true ∧ running (nibOf frozenAt 0) = true ∧ ctxOfNib frozenAt 0 = some 0
    ∧ (nibOf frozenAt 0).checks = [] ∧ (nibOf frozenAt 0).hold = some frozen ∧ frozen.frz = some ⟨true, false, false, false⟩
    ∧ issueOk (commit (onNib frozenAt 0 fun b => countFrz b ⟨true, false, false, false⟩ 2) 0) 0 0 frozen.b {} = true := by
  decide +kernel

/-- A twait held at the nib's own tally 0, which has been granted. -/
def waiting : Hold := ⟨synBundle yes (.twait 0 0), 3, [], false, 0, none, true, none⟩
def hasGrant : State := mapped { idleNib 8 with hold := some waiting, wait := ⟨true, false, 0, 0, true, some true⟩ }
theorem test_wit_satisfied :
    populated hasGrant 0 = true ∧ running (nibOf hasGrant 0) = true ∧ ctxOfNib hasGrant 0 = some 0
    ∧ (nibOf hasGrant 0).checks = [] ∧ (nibOf hasGrant 0).hold = some waiting ∧ waiting.waited = true ∧ waiting.frz = none
    ∧ (let v := commit (onNib hasGrant 0 fun b => countWait b 4) 0
       waitOf v 0 0 waiting.b.syn = .own (.nib 0 0) 1 ∧ (nibOf v 0).wait.queued = true
       ∧ (nibOf v 0).wait.reply = some true ∧ matFrz v 0 waiting.b.mat {} = none ∧ stageFrz v 0 {} = none
       ∧ bundleFaults v 0 0 waiting.b = [] ∧ ctlOn (nibOf v 0) waiting.b ≠ some .halt) := by decide +kernel

def halting (b : Nib) : State :=
  { loaded b with ctxs := (loaded b).ctxs.map fun x => (x.1, { x.2 with halting := true }) }
theorem test_wit_context_halt :
    populated (halting (idleNib 8)) 0 = true ∧ ctxOfNib (halting (idleNib 8)) 0 = some 0
    ∧ (ctxOf (halting (idleNib 8)) 0).loaded = true ∧ (ctxOf (halting (idleNib 8)) 0).halting = true
    ∧ (nibOf (halting (idleNib 8)) 0).checks = [] ∧ (nibOf (halting (idleNib 8)) 0).st = 2 ∧ (nibOf (halting Nib.reset) 0).st ≠ 2
    ∧ (nibOf (halting { idleNib 8 with st := 1 }) 0).st = 1 := by decide +kernel

/-- A nib with a failed comparison due in the cycle before, and none counted. -/
def mismatched : State := loaded { idleNib 8 with cycle := 9, checks := [⟨8, 0x00010203, 7⟩] }
theorem test_wit_mismatch :
    populated mismatched 0 = true ∧ (nibOf mismatched 0).checks = [⟨8, 0x00010203, 7⟩] ∧ 8 < (nibOf mismatched 0).cycle
    ∧ fld (nibReg (nibOf mismatched 0) Reg.NIB_ABFT_FENCE_COUNT) 7 0 + 1 < fenceThr (nibOf mismatched 0) := by decide +kernel

/-- A row of tine 3 on its way to ring 4, which has just the room for it. -/
def drainRow : DrainRow := ⟨List.replicate 16 0x3F800000, 12, false, false, 4, 12, false, 0, false⟩
def drainNib : Nib := { matNib with drains := [(3, [drainRow])], rings := [(4, ringAt 12288 4032)] }
theorem test_wit_stream_out :
    populated (loaded drainNib) 0 = true ∧ drainNib.stage = none ∧ queueOf drainNib 3 = [drainRow] ∧ drainRow.toVec = false
    ∧ (∀ j, j < 4 → j ≠ 3 → queueOf drainNib j = []) ∧ (ringOf drainNib drainRow.drb).valid = true
    ∧ (natLE (2 * elemBits drainRow.fo) (packNat (elemBits drainRow.fo)
        (((drainRow.vals.map (·.toNat)).map fun v => convert 12 false (decodeElem drainRow.src v)).map (·.1)))).length
        ≤ ringFree (loaded drainNib) 0 4 := by decide +kernel

/-- A transfer from the nib to nib 1's well, with its last tag short. -/
def wellXfer : Xfer :=
  ⟨5, 0, false, false, .well 1 512, [⟨0, zeros 64, [false], .done⟩, ⟨64, List.replicate 64 7, [false], .flight⟩], 0⟩
theorem test_wit_tag :
    populated (loaded { matNib with xfers := [wellXfer] }) 0 = true
    ∧ (nibOf (loaded { matNib with xfers := [wellXfer] }) 0).xfers.find? (fun y => y.id = wellXfer.id) = some wellXfer
    ∧ wellXfer.cancelled = false ∧ wellXfer.dst = .well 1 512
    ∧ wellXfer.tags[1]? = some ⟨64, List.replicate 64 7, [false], .flight⟩
    ∧ arrivedAll (loaded { matNib with xfers := [wellXfer] }) 0 5 64 64 = true := by decide +kernel

/-- The stage of matNib's descriptor. -/
def theStage : Stage := stageOf theReq (readBytes matNib.well 0x100 64)
def staged (g : Stage) : State := loaded { matNib with stage := some g }
theorem test_wit_stage :
    populated (staged theStage) 0 = true ∧ running (nibOf (staged theStage) 0) = true
    ∧ stageFrz (staged theStage) 0 {} = none
    ∧ stageFrz (loaded { matNib with stage := some { theStage with tau := 3 }, rings := [(2, ringAt 4096 0)] }) 0 {} ≠ none := by
  decide +kernel
/-- Stream-in of 64 B from the nib's own well. -/
def inStage : Stage := { theStage with streamIn := true, inSrc := 0, inLen := 64 }
theorem test_wit_stream_in :
    populated (staged inStage) 0 = true ∧ ctxOfNib (staged inStage) 0 = some 0 ∧ inStage.streamIn = true
    ∧ inStage.stopping = false
    ∧ Nat.min (Nat.min (16 - stageTags (nibOf (staged inStage) 0)) (tagsFree (nibOf (staged inStage) 0)) * 2048)
        (inStage.inLen - inStage.inDone) = 64
    ∧ (resolveAddr (staged inStage) 0 0 (inStage.inSrc + BitVec.ofNat 64 inStage.inDone) 64 false false).2 = some (.well 0 0) := by
  decide +kernel
theorem test_wit_stage_end :
    stageOver (nibOf (staged { theStage with step := 16, drained := 16 }) 0) { theStage with step := 16, drained := 16 } = true
    ∧ theStage.done = none := by decide +kernel

/-! ### Witnesses: signals, tallies, waits, movement inside the package -/

/-- A signal of context 0 for tally 3 of nib 0, and one held behind tag 0 of transfer 5. -/
def sig3 : Signal := ⟨.here (.nib 0 3), 2, 0, 0, 0⟩
def heldSig : Held := ⟨sig3, [(5, 0)], none⟩
theorem test_wit_release :
    populated (loaded { idleNib 8 with held := [heldSig] }) 0 = true
    ∧ (nibOf (loaded { idleNib 8 with held := [heldSig] }) 0).held[0]? = some heldSig
    ∧ heldSig.covers.all (tagLanded (nibOf (loaded { idleNib 8 with held := [heldSig] }) 0)) = true
    ∧ firstOnChannel [] heldSig = true
    ∧ heldSig.covers.all (tagLanded { matNib with xfers := [{ wellXfer with tags := [⟨0, [], [], .flight⟩] }] }) = false
    ∧ (({ runs with heldHub := [(.host 1, heldSig)] } : State).heldHub.filter fun p => p.1 = .host 1)[0]?
        = some (SigSrc.host 1, heldSig)
    ∧ (∀ m, SigSrc.host 1 ≠ .nib m) := by
  refine ⟨by decide, by decide, by decide, by decide, by decide, by decide, fun m h => by cases h⟩

/-- Two signals on their way, context tag 9 bound to context 0. -/
def signalled : State :=
  { mapped (idleNib 8) with
    signals := [sig3, { sig3 with dst := .here (.hub 0) }, sig3],
    regs := [(Reg.AVF_CTX_CLUSTERS, 1), (Reg.LNK_CTX_TAG, 0x80000009)] }
theorem test_wit_arrival :
    talOk signalled (.nib 0 3) = true
    ∧ (∀ g ∈ (takeSignals (.nib 0 3) 2 signalled.signals).1, liveSignal signalled (.nib 0 3) g = true)
    ∧ (takeSignals (.nib 0 3) 2 signalled.signals).1 = [sig3, sig3]
    ∧ tagCtx signalled 9 = some 0 ∧ (ctxOf signalled 0).loaded = true ∧ talCtx signalled (.nib 0 3) = some 0
    ∧ (signalled.waits.all fun w => w.tal != TalRef.nib 0 3) = true := by decide +kernel
theorem test_signal_saturates :
    (match exec (.signalArrive (.nib 0 3) 2 [⟨9, 0xFFFD, some 0, 3⟩]) signalled with
     | .next t => (talOf t (.nib 0 3)).count == 0xFFFF && (talOf t (.nib 0 3)).ovf
     | _ => false) = true := by decide +kernel

/-- A twait of K 2 on hub tally 0 that is on its way to it. -/
def hubWaiter : Hold := ⟨synBundle yes (.twait 0 1), 3, [], false, 0, none, true, none⟩
def waitsHub (k : Nat) : State :=
  { loaded { idleNib 8 with hold := some hubWaiter } with
    ctxs := [(0, { Ctx.empty with loaded := true, locked := true, geom := 1, packages := 1, spanNibs := 64,
                                  tmap := [(0, 0x00300000), (1, 16), (3, 0x80000000)] })],
    regs := [(Reg.AVF_CTX_CLUSTERS, 1), (Reg.FTC_TALC_HUB, 0x00100000)], waitsOut := [0],
    hubTal := [(0, ⟨k, false, 0, false⟩)] }
theorem test_wit_remote_wait :
    populated (waitsHub 2) 0 = true ∧ 0 ∈ (waitsHub 2).waitsOut ∧ (nibOf (waitsHub 2) 0).hold = some hubWaiter
    ∧ ctxOfNib (waitsHub 2) 0 = some 0
    ∧ waitOf { waitsHub 2 with waitsOut := (waitsHub 2).waitsOut.erase 0 } 0 0 hubWaiter.b.syn = .remote (.hub 0) 2 false
    ∧ waitOf { waitsHub 1 with waitsOut := (waitsHub 1).waitsOut.erase 0 } 0 0 hubWaiter.b.syn = .remote (.hub 0) 2 false
    ∧ ((waitsHub 2).waits.all fun w => w.tal != TalRef.hub 0) = true ∧ (talOf (waitsHub 2) (.hub 0)).count = 2
    ∧ (talOf (waitsHub 1) (.hub 0)).count = 1 := by decide +kernel

/-- Nib 0 has issued nothing for the limit at 10 s; a context that halts already. -/
theorem test_wit_hang :
    (ctxOf (atTime runs 10000000000) 0).halting = false ∧ hungNib (atTime runs 10000000000) 0 = some 0
    ∧ (ctxOf (atTime (halting (idleNib 8)) 10) 0).halting = true := by
  refine ⟨by decide, by decide +kernel, by decide⟩

theorem test_wit_window :
    regOpen State.reset .owl Reg.FTC_TAL_WIN = true
    ∧ (0x400007E0#32).getLsbD 31 = false ∧ fld 0x400007E0#32 4 4 = 0 ∧ fld 0x400007E0#32 12 5 = 63
    ∧ (0x800007E0#32).getLsbD 30 = false ∧ (ctxOf State.reset 0).loaded = false := by decide +kernel
theorem test_wit_clear :
    populated runs 0 = true ∧ regOpen runs .owl (nibOffset 0 Reg.NIB_FRZ_CTRL) = true
    ∧ (0#32).getLsbD 0 = false ∧ (1#32).getLsbD 0 = true := by decide +kernel

/-- A chain over one cluster: ROT is ring 4, NXT ring 3, COM ring 2. -/
def plan : ChainPlan := ⟨1, 4, 3, 2, 4096, 64, 12, 12, 12, 12288, 8192, 4096⟩
def chained (b : Nib) : State :=
  { loaded b with ctxs := (loaded b).ctxs.map fun x => (x.1, { x.2 with chain := some plan }) }
theorem test_wit_rotation :
    populated (chained { matNib with rotBytes := 64 }) 0 = true
    ∧ chainNib (chained { matNib with rotBytes := 64 }) 0 = some ⟨0, plan, 64, 0⟩
    ∧ engineOn (nibOf (chained { matNib with rotBytes := 64 }) 0) = true
    ∧ (ringOf matNib plan.rot).valid = true ∧ plan.piece ≠ 0 ∧ 64 / plan.piece % 64 = 0 ∧ 64 % plan.piece ≠ 0
    ∧ plan.nxt ≠ plan.rot ∧ 128 ≤ (ringOf matNib plan.rot).room ∧ 128 ≤ (ringOf matNib plan.nxt).avail
    ∧ 128 ≤ plan.piece - 64 % plan.piece := by decide +kernel
theorem test_wit_chain :
    ctxOfCluster (chained matNib) (12 * 0 + 0) = some 0 ∧ (ctxOf (chained matNib) 0).chain = some plan
    ∧ (ctxOf (chained matNib) 0).loaded = true ∧ 0 < plan.clusters := by decide +kernel

/-- A landing area with one slab of two frames. -/
def slab2 : LandSlab := ⟨0, 0, 0, 2, 0, 65536, 0, 0⟩
def landed : State :=
  { State.reset with regs := [(Reg.RIB_LAYOUT, 0x00000001)], landing := [(0, ⟨2, 2, [slab2]⟩)] }
theorem test_wit_landing :
    (look Landing.reset landed.landing 0).slabs = [slab2] ∧ 0 < slab2.frames := by decide +kernel

/-- A mesh table of two cycles that grants cycle 1 to flow 5, and a part with a flit ready and bytes in the crossing. -/
def tab5 : MeshTab := ⟨1, [⟨5, 12, 0, 0, 0, []⟩], [(1, 1, 5)]⟩
def legs5 : MeshXfer := ⟨0, 0, 0, 512, [⟨0, 5, 512, 256, 300⟩], 0⟩
def meshed : State := { State.reset with mesh := [(0, some tab5)], meshX := [legs5] }
theorem test_wit_mesh :
    look none meshed.mesh 0 = some tab5 ∧ granted tab5 5 2 = false ∧ granted tab5 5 1 = true
    ∧ meshed.meshX = [legs5] ∧ legs5.legs = [⟨0, 5, 512, 256, 300⟩] := by decide +kernel

/-- A header of a raw block of 64 by 16 BF16 elements in one band, at the head of ring 2. -/
def rawHdr : List Byte :=
  [0x51, 0x55, 0x4C, 0x4C, 1, 0, 10, 0, 0, 0, 1, 0, 0, 0, 0, 0] ++ natLE 4 64 ++ natLE 4 16 ++ natLE 4 2048 ++ natLE 4 2048
    ++ natLE 4 0 ++ natLE 4 2048
/-- A stage with EXPAND that has not read anything, or holds the block with its piece. -/
def expNib (e : Expander) : Nib :=
  { matNib with well := writeBytes [] 4096 rawHdr, stage := some { theStage with expand := true }, exp := e }
def rawBlock : ExpBlock := ⟨hdrOf (readBytes (expNib Expander.idle).well 4096 64), [], false, 0, false⟩
def pieceExp : Expander := { Expander.idle with blocks := [rawBlock], piece := some (0, 0, 0), left := 2048 }
theorem test_wit_expander :
    populated (loaded (expNib Expander.idle)) 0 = true ∧ ctxOfNib (loaded (expNib Expander.idle)) 0 = some 0
    ∧ expChain (loaded (expNib Expander.idle)) 0 = none ∧ 64 ≤ (ringOf (expNib Expander.idle) 2).avail
    ∧ (ringOf (expNib Expander.idle) 2).rd = 0 ∧ ringPois (expNib Expander.idle) 2 0 64 = false
    ∧ (let v : ExpEnv := ⟨10, 2, geomNibs (ctxOf (loaded (expNib Expander.idle)) 0).geom, none⟩
       hdrUsable v (hdrOf (ringBytes (expNib Expander.idle) 2 0 64)) = true
       ∧ hdrUsable v (hdrOf (ringBytes matNib 2 0 64)) = false) := by decide +kernel
theorem test_wit_expander_tile :
    rawBlock.bad = false ∧ rawBlock.hdr.kind = 0 ∧ rawBlock.hdr.outFmt = 10 ∧ rawBlock.hdr.commonSize ≤ rawBlock.u.length
    ∧ pieceExp.piece.isSome = true ∧ wgBytes 10 ≤ pieceExp.left ∧ pieceExp.out = [] ∧ pieceExp.skip = 0
    ∧ wgBytes 10 ≤ (ringOf (expNib pieceExp) 2).avail := by decide +kernel

/-! ### Witnesses: registers, memory, the host interface -/

/-- Registers set one after another. -/
def regsAt (s : State) (l : List (Nat × W32)) : State := l.foldl (fun s p => setReg s p.1 p.2) s

/-- A register row with RW bits, one with W1C bits, one with RWL bits, unsealed and sealed. -/
theorem test_wit_register :
    ([(Reg.HUB_CORR_THR, false), (Reg.AVF_ERR, false), (Reg.RIB_HOP_TIMEOUT, false), (Reg.SEC_SEAL_LOGCFG, true)].all fun p =>
      let s := if p.2 then runs else State.reset
      regOpen s .owl p.1 && (rowAt p.1).isSome && plainReg s .owl p.1 1 1 true) = true
    ∧ ((rowAt Reg.SEC_SEAL_LOGCFG).bind fun x => lockHolder runs x.1 Reg.SEC_SEAL_LOGCFG x.2.1) = some 0
    ∧ regOpen runs .owl (nibOffset 0 Reg.NIB_ABFT_CTRL) = true
    ∧ plainReg runs .owl (nibOffset 0 Reg.NIB_ABFT_CTRL) 1 0 true = true := by decide +kernel

/-- The pair of BAR4 of context 0, the journal address of an enabled queue pair, and the pair FTC_NOW. -/
theorem test_wit_pair :
    regOpen State.reset .owl Reg.AVF_CTX_BAR4 = true ∧ nibAt Reg.AVF_CTX_BAR4 = none
    ∧ ((findRow hubRows Reg.AVF_CTX_BAR4).map fun x => (x.1.pair, x.2)) = some (1, 0, 0)
    ∧ regOpen State.reset .owl (Reg.AVF_CTX_BAR4 + 4) = true
    ∧ ((findRow hubRows (Reg.AVF_CTX_BAR4 + 4)).map fun x => (x.1.pair, x.2)) = some (2, 0, 0)
    ∧ ((findRow hubRows (Reg.AVF_CTX_BAR4 + 4)).map fun x => (lockHolder State.reset x.1 (Reg.AVF_CTX_BAR4 + 4) 0, x.1.base))
        = some (none, Reg.AVF_CTX_BAR4 + 4)
    ∧ (Reg.AVF_CTX_BAR4 + 4) ∉ [Reg.AVF_CTX_CLUSTERS_HI, Reg.FTC_CTX_START_HI, Reg.AVF_Q_SQ_BASE_HI, Reg.AVF_Q_CQ_BASE_HI]
    ∧ ((findRow hubRows (Reg.AVF_CTX_BAR4 + 4)).map fun x => baseOpen State.reset x.1.base 0 0) = some true
    ∧ ((findRow hubRows (pairReg Reg.AVF_Q_JRNL 0 0 + 4)).map fun x =>
        (x.1.pair, x.2, baseOpen (regsAt State.reset [(pairReg Reg.AVF_Q_CTRL 0 0, 3)]) x.1.base 0 0)) = some (2, (0, 0), false)
    ∧ regReadable State.reset .owl Reg.FTC_NOW = true ∧ pairPart Reg.FTC_NOW = 1
    ∧ regReadable State.reset .owl (Reg.FTC_NOW + 4) = true ∧ pairPart (Reg.FTC_NOW + 4) = 2 := by decide +kernel

/-- An offset that no register has; a register of another context's page, to a virtual function after READY. -/
def ready : State := regsAt State.reset [(Reg.HUB_STATUS, 8)]
theorem test_wit_unmapped :
    accReady State.reset .owl = true ∧ implemented State.reset 0x3FFFFFC = false ∧ 0x3FFFFFC < 2 ^ 26
    ∧ accReady ready (.host 1 15) = true ∧ mayWrite (.host 1 15) Reg.HUB_CORR_THR = false
    ∧ mayRead ready (.host 1 15) Reg.AVF_CTX_BAR4 = false := by decide +kernel

/-- Region 0: channels 0 to 15, 16 stripes from DPA 0, of a kind, owned by context 0. -/
def regional (kind : Nat) (s : State) : State :=
  regsAt s [(regOff Reg.MEM_REG_BASE 0, 0), (regOff Reg.MEM_REG_EXTENT 0, 16), (regOff Reg.MEM_REG_CHBASE 0, 0),
            (regOff Reg.MEM_REG_CFG 0, BitVec.ofNat 32 (0x80000003 + 64 * kind))]

theorem test_wit_region :
    ((List.range 4).all fun i => regOpen State.reset .owl (regOff Reg.MEM_REG_BASE 63 + 4 * i)
      && (rowAt (regOff Reg.MEM_REG_BASE 63 + 4 * i)).isSome) = true
    ∧ (regionOf (regional 1 State.reset) 0).valid = true ∧ (ctxOf (regional 1 State.reset) 0).loaded = false
    ∧ (regionOf (regional 1 runs) 0).valid = true ∧ (ctxOf (regional 1 runs) 0).loaded = true
    ∧ regOpen State.reset .owl Reg.MEM_CMD = true ∧ (regional 1 State.reset).locks = []
    ∧ 15 ∈ regChannels (regional 1 State.reset) 0 := by decide +kernel

/-- A word in a region of each kind; a DPA outside every region. -/
theorem test_wit_word :
    plainAt (regional 1 State.reset) (4096 * 17 + 64) = true
    ∧ ((locate (regional 1 State.reset) 64).map fun l => (l.ch, l.parity)) = some (1, some 0)
    ∧ locate (regional 1 State.reset) (4096 * 240) = none ∧ (List.replicate 64 (0 : Byte)).length = 64
    ∧ (regionOf (regional 2 State.reset) 0).kind = 2 := by decide +kernel
theorem test_hbm_reads_back :
    (match exec (.hbmWrite 64 ((List.range 64).map (BitVec.ofNat 8)) false) (regional 0 State.reset) with
     | .next t => (readDpa 65 t 64 64).1 == (List.range 64).map (BitVec.ofNat 8)
     | _ => false) = true := by decide +kernel

/-- The manual's example of an address: DPA 0x586B_59C0 in a weight region of 65,536 stripes from DPA 1 GiB. -/
theorem test_hbm_example :
    (let s := regsAt State.reset [(regOff Reg.MEM_REG_BASE 0, 0x40000), (regOff Reg.MEM_REG_EXTENT 0, 65536),
        (regOff Reg.MEM_REG_CHBASE 0, 0), (regOff Reg.MEM_REG_CFG 0, 0x80000040)]
     (locate s 0x586B59C0).map fun l => (l.ch, l.gran, l.parity)) = some (92, 416, some 80)
    ∧ hbmCell 416 0x9C0 = ⟨1, 1, 0, 0, 13, 6, 0⟩ := by decide +kernel

/-- A region under rebuild of channel 3, with its last stripe to come, or more. -/
def rebuilding (done : Nat) : State :=
  { regsAt (regional 1 State.reset) [(regOff Reg.MEM_REG_STATUS 0, 5)] with
    regFailed := [(0, [3])], regBuilt := put 0 [] 0 done }
theorem test_wit_rebuild :
    getF (rebuilding 0) (regOff Reg.MEM_REG_STATUS 0) 2 2 = 1 ∧ look [] (rebuilding 0).regFailed 0 = [3]
    ∧ look 0 (rebuilding 0).regBuilt 0 + 1 < (regionOf (rebuilding 0) 0).q
    ∧ (regionOf (rebuilding 15) 0).q ≤ look 0 (rebuilding 15).regBuilt 0 + 1
    ∧ getF (regional 1 State.reset) (regOff Reg.MEM_REG_STATUS 0) 2 2 = 0 := by decide +kernel

/-- A stack whose class is warm beside a cold table; a live channel used by a region. -/
theorem test_wit_channel :
    chState (regional 1 State.reset) 15 ≠ 3 ∧ chState (regsAt State.reset [(chReg Reg.MEM_CH_STATUS 15, 3)]) 15 = 3
    ∧ (255 : Nat) < 256 := by decide +kernel

/-- Context 0 with region 0 under its BAR4 window, on port 0. -/
theorem test_wit_bar4 :
    accReady (regional 0 ready) (.host 0 0) = true ∧ portOf (regional 0 ready) 0 = 0
    ∧ dpaOwned (64 / 4096 + 3) (regional 0 ready) 0 (getReg64 (regional 0 ready) (perCtx Reg.AVF_CTX_BAR4 0x1000 0) + 0) 64 = true
    ∧ accReady ready (.host 1 0) = true ∧ portOf ready 0 ≠ 1 := by decide +kernel

/-- Pair 0 of context 0 enabled, with its rings in host memory and its journal in region 0. -/
def queued (s : State) (p : Pair) : State :=
  { regsAt (regional 0 s) [(pairReg Reg.AVF_Q_CTRL 0 0, 1), (pairReg Reg.AVF_Q_SQ_BASE 0 0, 0x1000),
                           (pairReg Reg.AVF_Q_CQ_BASE 0 0, 0x2000)] with pairs := put Pair.reset [] 0 p }
/-- An opened pair with one entry to fetch. -/
def openPair : Pair := { Pair.reset with opened := true, sqTail := 1 }
/-- The 64 bytes of an entry, from fields (offset, bytes, value). -/
def entry (fs : List (Nat × Nat × Nat)) : List Byte :=
  readBytes (fs.foldl (fun m f => writeBytes m f.1 (natLE f.2.1 f.2.2)) []) 0 64
/-- A command of pair 0 of context 0 with an entry. -/
def cmdOf (started : Bool) (fs : List (Nat × Nat × Nat)) : AvCmd := ⟨7, 0, 0, entry fs, started, 0, 0, none, false⟩
/-- A state in which that command is the only one. -/
def withCmd (s : State) (x : AvCmd) : State := { s with cmds := [x] }

theorem test_wit_doorbell :
    accReady (queued ready openPair) (.host 0 0) = true ∧ portOf (queued ready openPair) 0 = 0
    ∧ cqWaiting (queued ready openPair) 0 0 = 0 ∧ accReady State.reset (.host 0 0) = false ∧ portOf ready 0 ≠ 1 := by decide +kernel

theorem test_wit_queue :
    regOpen State.reset .owl (pairReg Reg.AVF_Q_CTRL 15 15) = true ∧ pairOn State.reset 15 15 = false
    ∧ pairPaused State.reset 15 15 = false
    ∧ enableOkPair (regsAt (queued State.reset Pair.reset) [(pairReg Reg.AVF_Q_CTRL 0 0, 0)]) .owl 0 0 = true
    ∧ enableOkPair (regsAt State.reset [(pairReg Reg.AVF_Q_SIZE 0 0, 5)]) .owl 0 0 = false
    ∧ pairPaused (regsAt (queued State.reset openPair) [(pairReg Reg.AVF_Q_CTRL 0 0, 3)]) 0 0 = true := by decide +kernel

/-- The completion of a NOP. -/
def nopDone : Comp := ⟨0, 0, 0, 0, 0, 0, false, true, 0, 0, 0⟩
def completing : State := { queued State.reset openPair with comps := [nopDone] }
theorem test_wit_fetch :
    canFetch (queued State.reset openPair) 0 0 = true ∧ canFetch State.reset 0 0 = false
    ∧ completing.comps.find? (fun x => x.c = 0 && x.q = 0) = some nopDone
    ∧ plainAt completing (jrnlSlot completing 0 0 1) = true
    ∧ (pairOf completing 0 0).cqLast = pairNum completing Reg.AVF_Q_CSEQ 0 0 ∧ (pairOf completing 0 0).replay = none
    ∧ (pairOf completing 0 0).cqUsed < cqSize completing 0 0 ∧ 1 ∉ (pairOf completing 0 0).quiet
    ∧ State.reset.comps.find? (fun x => x.c = 0 && x.q = 0) = none := by decide +kernel

theorem test_wit_function :
    regOpen State.reset .owl (perCtx Reg.AVF_CTX_CLUSTERS 0x1000 15) = true ∧ (ctxOf State.reset 15).locked = false
    ∧ regOpen State.reset .owl (perCtx Reg.AVF_CTX_BIND 0x1000 15) = true ∧ isOwner .owl = true := by decide +kernel

/-- Context 0 with a map entry of kind 3 (hub tallies) at identifier 0, and two hub tallies. -/
def hubMapped : State :=
  { regsAt runs [(Reg.FTC_TALC_HUB, 0x00020000)] with
    ctxs := [(0, { Ctx.empty with loaded := true, geom := 1, packages := 1, spanNibs := 64,
                                  tmap := [(0, 0x00300000), (1, 2), (3, 0x80000000)] })] }
/-- The five commands of the statement, each the next of its pair; the running wait. -/
theorem test_wit_command :
    ([0, 4, 5, 6].all fun op => readyCmd (withCmd hubMapped (cmdOf false [(0, 1, op), (0x14, 2, 1)])) 0 0
        == some (cmdOf false [(0, 1, op), (0x14, 2, 1)])) = true
    ∧ resolveTid hubMapped 0 none 1 true = some (.here (.hub 1)) ∧ resolveTid hubMapped 0 none 1 false = some (.here (.hub 1))
    ∧ hubMapped.waits = [] ∧ hubMapped.heldHub = []
    ∧ runningCmd (withCmd hubMapped (cmdOf true [(0, 1, 5)])) 0 0 0 5 = some (cmdOf true [(0, 1, 5)])
    ∧ ((withCmd hubMapped (cmdOf true [(0, 1, 5)])).cmds.map (·.no)).Nodup := by decide +kernel

/-- A program image of one nib with one bundle: header, section table, CODE, and a SCHEDULE section with the mesh table of die
0, which grants one cycle to a flow from cluster 0 to cluster 1. -/
def imageHead : List Byte :=
  natLE 4 0x49505143 ++ [1, 0, 128, 0, 1, 1, 0, 1, 1, 0, 0, 0] ++ natLE 4 1 ++ [1, 0, 2, 0] ++ natLE 8 128 ++ natLE 8 296
    ++ zeros 88
def imageTab : List Byte :=
  [1, 0, 0, 0, 0, 0, 1, 0] ++ natLE 8 192 ++ natLE 8 32 ++ zeros 8
    ++ [3, 0, 0, 0, 0, 0, 0, 0] ++ natLE 8 224 ++ natLE 8 72 ++ zeros 8
def imageMesh : List Byte :=
  [1, 0, 1, 0] ++ zeros 12 ++ [1, 0, 0, 0, 32, 0, 0, 0, 40, 0, 0, 0, 0, 0, 0, 0]
    ++ [8, 0, 1, 0, 1, 0, 0, 0] ++ zeros 8 ++ [1, 0, 0, 0, 1, 0, 1, 0, 1, 0, 0, 0, 0, 0, 0, 0] ++ [0, 0, 0, 0, 1, 0, 0, 0]
def image : List Byte := imageHead ++ imageTab ++ zeros 32 ++ imageMesh
/-- A LOAD of that image from host address 0, in a context that holds cluster 0. -/
def loadCmd : AvCmd := cmdOf false [(0, 1, 1), (0x10, 8, 0), (0x20, 8, 296)]
def loading : State := withCmd (regsAt { State.reset with hostMem := writeBytes [] 0 image } [(Reg.AVF_CTX_CLUSTERS, 1)]) loadCmd
theorem test_wit_load :
    readyCmd loading 0 0 = some loadCmd ∧ loadCmd.f 0 1 = 1 ∧ loadCmd.f 0x18 1 = 0
    ∧ loadSource loading loadCmd = some (image, []) := by decide +kernel
theorem test_wit_load_passes :
    loadCode (refoldCtx loading 0) 0 image = 0 ∧ (schedOf (refoldCtx loading 0) 0 image).isSome = true
    ∧ (imgPlan (refoldCtx loading 0) 0 image).isSome = true
    ∧ ((schedOf (refoldCtx loading 0) 0 image).all fun d => !loadWaits loading 0 image d) = true := by decide +kernel
/-- An image of another magic is refused with code 0x01; an image at a DPA outside the context has no source. -/
theorem test_wit_load_fails :
    loadCode (refoldCtx loading 0) 0 (0 :: image.tail) = 1
    ∧ loadSource (withCmd State.reset (cmdOf false [(0, 1, 1), (0x18, 1, 1), (0x20, 8, 64)]))
        (cmdOf false [(0, 1, 1), (0x18, 1, 1), (0x20, 8, 64)]) = none
    ∧ readyCmd (withCmd runs (cmdOf false [(0, 1, 2)])) 0 0 = some (cmdOf false [(0, 1, 2)]) := by decide +kernel

/-- A transfer to the host of two strips of 64 B from DPA 0, with its page present, asked for, or refused. -/
def xferCmd (fs : List (Nat × Nat × Nat)) : AvCmd :=
  cmdOf true ([(0, 1, 3), (0x18, 8, 0x3000000000000000), (0x20, 4, 64), (0x24, 2, 2), (0x26, 2, 1), (0x30, 4, 64), (0x3C, 1, 1)] ++ fs)
def moving (x : AvCmd) : State := withCmd (regional 0 State.reset) x
theorem test_wit_transfer_host :
    readyCmd (moving { xferCmd [] with started := false }) 0 0 = some { xferCmd [] with started := false }
    ∧ xferOk (xferCmd []) = true ∧ runningCmd (moving (xferCmd [])) 0 0 0 3 = some (xferCmd [])
    ∧ stripPlace (moving (xferCmd [])) (xferCmd []) 0 = some (.hbm 0) ∧ stripFree (xferCmd []) = true
    ∧ (xferCmd []).sigEn = false ∧ (xferCmd []).toHost = true ∧ (xferCmd []).total = 2 ∧ (xferCmd []).fault = none
    ∧ stripPlace (moving { xferCmd [] with count := 1 }) { xferCmd [] with count := 1 } 1 = some (.hbm 64)
    ∧ ((readPlace (moving (xferCmd [])) (.hbm 64) 64).2.all fun p => !p) = true := by decide +kernel
theorem test_wit_page :
    runningCmd (moving { xferCmd [] with fault := some (0, .asked 3) }) 0 0 0 3 = some { xferCmd [] with fault := some (0, .asked 3) }
    ∧ exactMode (moving (xferCmd [])) 0 = false
    ∧ exactMode (regsAt (moving (xferCmd [])) [(perCtx Reg.FTC_CTX_MODE 0x20 0, 1)]) 0 = true := by decide +kernel

/-- A tier copy of two pages out of HBM, and its last page. -/
def tierCmd (n : Nat) : AvCmd :=
  { cmdOf true [(0, 1, 7), (0x20, 8, 8192), (0x28, 1, 1)] with count := n }
theorem test_wit_tier :
    readyCmd (moving { tierCmd 0 with started := false }) 0 0 = some { tierCmd 0 with started := false }
    ∧ runningCmd (moving (tierCmd 0)) 0 0 0 7 = some (tierCmd 0) ∧ (tierCmd 0).count + 4096 < (tierCmd 0).len
    ∧ runningCmd (moving (tierCmd 4096)) 0 0 0 7 = some (tierCmd 4096) ∧ (tierCmd 4096).count + 4096 = (tierCmd 4096).len
    ∧ (tierCmd 0).f 0x28 1 = 1 ∧ (tierCmd 0).started = true := by decide +kernel
theorem test_wit_tier_clean :
    ((readDpa 4097 (moving (tierCmd 4096)) 4096 4096).2.all fun p => !p) = true := by decide +kernel

/-! ### Witnesses: the ribbon -/

/-- A member of ribbon 5 of two members whose lead is position 0, in a state, with one block of set A, at home at position 0
and clockwise. -/
def ribAt (pos st : Nat) (r : Rib) : State :=
  { regsAt runs [(Reg.RIB_SHAPE, BitVec.ofNat 32 (0x00050002 + 256 * pos)), (Reg.RIB_LAYOUT_BLOCKS, 1),
                 (Reg.RIB_STATUS, BitVec.ofNat 32 st)] with
    dir := [(2, 2048), (3, 0x1900)], rib := r }
/-- A lap mark of set A, and the record of lap 0. -/
def mark0 (lap : Nat) : Mark := ⟨false, 5, lap, 0, 0, 0, 0, 0, 0, 0, .idle⟩
def lap0 : LapRec := ⟨0, 0, 0, [], 0, 0, 0, 0, 0, []⟩

theorem test_wit_rib_commands :
    regOpen (ribAt 0 0 Rib.reset) .owl Reg.RIB_CMD = true ∧ ribState (ribAt 0 0 Rib.reset) = 0
    ∧ 2 ≤ ribN (ribAt 0 0 Rib.reset) ∧ ribPos (ribAt 1 0 Rib.reset) < ribN (ribAt 1 0 Rib.reset)
    ∧ residentRib (ribAt 0 0 Rib.reset) = false ∧ isLead (ribAt 0 4 Rib.reset) = true
    ∧ (7 : Nat) < 0 + 8 := by decide +kernel

/-- A ribbon of one member is forming, with the mark of one side. -/
def forming : State :=
  setReg (ribAt 0 0 { Rib.reset with forming := some 0, formFrom := [(true, 5, 0, true, 0)] }) Reg.RIB_SHAPE 0x00050001
theorem test_wit_forming :
    ribState forming = 0 ∧ forming.rib.forming = some 0 ∧ formMark forming true = some true
    ∧ (5, 0, true) = (getF forming Reg.RIB_SHAPE 31 16, ribNext forming (ribPos forming) true, true)
    ∧ digsDiffer forming (activeSet forming) = false ∧ digsAgree forming (activeSet forming) = true := by decide +kernel
theorem test_wit_stopping :
    hopsUsed (ribAt 0 2 Rib.reset) = true ∧ upstream (ribAt 0 2 Rib.reset) false < 64
    ∧ hopsUsed (ribAt 0 0 Rib.reset) = false ∧ ribLive (ribAt 0 4 Rib.reset) = true
    ∧ blockLost (ribAt 1 6 { Rib.reset with failed := [0] }) = true
    ∧ blockLost (ribAt 0 6 { Rib.reset with failed := [1] }) = false
    ∧ getF (ribAt 0 6 Rib.reset) Reg.RIB_CTRL 5 5 = 0 := by decide +kernel

/-- The lead has sent lap 0 and both marks are back. -/
def lapDone : State :=
  ribAt 0 2 { Rib.reset with begun := 1, returned := [false, true], laps := [lap0],
                             cw := { RibDir.idle with sent := some (mark0 0), n := 1 },
                             ccw := { RibDir.idle with sent := some (mark0 0) } }
theorem test_wit_lap :
    isLead lapDone = true ∧ lapSent lapDone = true ∧ ribState lapDone = 2 ∧ lapDone.rib.returned.contains false = true
    ∧ lapDone.rib.returned.contains true = true ∧ lapDone.rib.begun < lapDone.rib.closed + 8 := by decide +kernel

/-- A member that has lap 0's mark from one side, and lap 0 itself from the other is to come. -/
def oneMark : State := ribAt 1 2 { Rib.reset with ccw := { RibDir.idle with got := 1 } }
theorem test_wit_mark :
    isLead oneMark = false ∧ ribState oneMark = 2 ∧ ¬ 0 < (ribDir oneMark false).got ∧ (ribDir oneMark true).got = 0 + 1
    ∧ oneMark.rib.begun = 0 ∧ (0 : Nat) < (ribDir oneMark true).got := by decide +kernel

/-- Lap 0 is open, and hub tally 1 is the close tally with a count. -/
def closing : State :=
  { hubMapped with
    regs := (regsAt { hubMapped with regs := hubMapped.regs } [(Reg.RIB_STATUS, 2), (Reg.RIB_CLOSE_TALLY, 1)]).regs
    rib := { Rib.reset with begun := 1, laps := [lap0] }, hubTal := [(1, ⟨1, false, 0, false⟩)] }
theorem test_wit_close :
    resolveTid closing (ribCtx closing) none (getF closing Reg.RIB_CLOSE_TALLY 19 0) true = some (.here (.hub 1))
    ∧ closing.rib.laps.find? (fun y => y.lap = closing.rib.closed) = some lap0 ∧ (talOf closing (.hub 1)).count = 1
    ∧ closing.rib.closed < closing.rib.begun ∧ ribState closing = 2 ∧ switchState closing = 0 := by decide +kernel

/-- The home member is to launch its block. -/
def launching : State :=
  ribAt 0 3 { Rib.reset with begun := 1, feedNext := 1, laps := [lap0], cw := { RibDir.idle with sent := some (mark0 0) } }
theorem test_wit_launch :
    (sendList launching 0 false)[(ribDir launching false).n]? = some 0 ∧ (dirEntry launching 0).pos = 0
    ∧ servedBy launching (dirEntry launching 0) = ribPos launching ∧ (dirEntry launching 0).verified = true
    ∧ ribState launching = 3 := by decide +kernel
theorem test_wit_land :
    lapSet launching launching.rib.feedLap = some 0 ∧ entryAt launching 0 0 = some 0
    ∧ (blockSource launching launching.rib.feedLap 0 (dirEntry launching 0)).isSome = true
    ∧ 0 < launching.rib.feedNext ∧ launching.rib.fed.contains 0 = false := by decide +kernel

/-- The other member receives a unit of that block, with free tags and with none. -/
def passing (bs : List RibBlk) : State :=
  ribAt 1 2 { Rib.reset with begun := 1, laps := [lap0], cw := { RibDir.idle with inc := 1, blks := bs } }
def taken : List RibBlk := List.replicate 256 ⟨0, 9, 128, [1], [], 0, 0⟩
theorem test_wit_forward :
    1 < ribLiveN (passing []) ∧ 0 < (ribDir (passing []) false).inc ∧ lapSet (passing []) 0 = some 0
    ∧ entryAt (passing []) 0 0 = some 0 ∧ (dirEntry (passing []) 0).ccw = false
    ∧ servedBy (passing []) (dirEntry (passing []) 0) ≠ ribPos (passing [])
    ∧ ribNext (passing []) (ribPos (passing [])) false = servedBy (passing []) (dirEntry (passing []) 0)
    ∧ tagsUsed (ribDir (passing []) false) < 256 ∧ 256 ≤ tagsUsed (ribDir (passing taken) false)
    ∧ ribState (passing []) = 2 := by decide +kernel

theorem test_wit_directory :
    regOpen State.reset .owl Reg.RIB_DIR_INDEX = true ∧ (0x4007FFFF#32).getLsbD 31 = false
    ∧ (0x8007FFFF#32).getLsbD 30 = false := by decide +kernel

/-! ### Witnesses: links and the Fabric Time Counter -/

/-- Port `p` in a state, with its buffers, facing package 9. -/
def portAt (p st : Nat) (l : LPort) : State :=
  { regsAt State.reset [(portReg Reg.LNK_STATUS p, BitVec.ofNat 32 (0x8000 + st)), (portReg Reg.LNK_FOUND_PEER p, 9)] with
    lports := put LPort.reset [] p l }
/-- A data flit of SEQ 0, ORDER 0, for this package, of job tag `tag`. -/
def flit (tag : Nat) : FlitIn := ⟨1, 0, 0, 1, tag, 0, 1, 0, 0, 0, zeros 64, 0, [], none, none, none⟩
/-- A flit with its CRC-32C. -/
def signed (f : FlitIn) : FlitIn := { f with crc := flitCrc f }
def waitingFlit : LFlit := ⟨flit 0, some 3, 0⟩
/-- A transit flit. -/
def transitFlit : LFlit := { waitingFlit with f := { flit 0 with vc := 4, ovc := 1 } }
theorem test_wit_flit_send :
    pState (portAt 31 0 LPort.reset) 31 = 0 ∧ pState (portAt 31 7 LPort.reset) 31 = 7
    ∧ (let s := portAt 31 6 { LPort.reset with txq := [waitingFlit] }
       let l := portOfLink s 31
       pState s 31 = 6 ∧ s.routed = s.out.length ∧ l.nak = none ∧ (l.slot + 1) % 300 ≠ 0 ∧ l.resend = 0
       ∧ l.replay.length < 4095 ∧ l.txq = [waitingFlit] ∧ waitingFlit.f.vc ≠ 4
       ∧ look 0 l.used waitingFlit.f.vc < vcBuffers waitingFlit.f.vc)
    ∧ (let l := portOfLink (portAt 0 6 { LPort.reset with replay := [(0, transitFlit)], resend := 1 }) 0
       0 < l.resend ∧ l.replay[l.replay.length - l.resend]? = some (0, transitFlit) ∧ transitFlit.f.vc = 4
       ∧ (l.transit.filter fun k => l.slot + 1 < k + 392).length < 39) := by decide +kernel
theorem test_signed (f : FlitIn) : (signed f).crc = flitCrc (signed f) := rfl
theorem test_unsigned (f : FlitIn) :
    ({ f with crc := flitCrc f + 1 } : FlitIn).crc ≠ flitCrc { f with crc := flitCrc f + 1 } := Nat.succ_ne_self _
/-- A flit in order and awaited; what `signed` keeps of it and of a flit beyond the ORDER awaited, of a reserved TYPE, on a
reserved VC, of an unknown job tag. -/
theorem test_wit_flit_receive :
    (let s := portAt 0 6 LPort.reset
     let f := flit 0
     f.ty = 1 ∧ f.seq = (portOfLink s 0).rx ∧ s.heldRx = [] ∧ f.dest = planeAddr s ∧ f.vc < 6 ∧ f.ovc < 6
     ∧ f.order = look 0 s.orderIn (8 * (peerOf s 0).getD 0 + f.vc) ∧ tagCtx s 9 = none)
    ∧ (∀ f : FlitIn, (signed f).ty = f.ty ∧ (signed f).seq = f.seq ∧ (signed f).vc = f.vc ∧ (signed f).ovc = f.ovc
        ∧ (signed f).order = f.order ∧ (signed f).tag = f.tag ∧ (signed f).dest = f.dest)
    ∧ pState (portAt 0 3 LPort.reset) 0 ≠ 6 ∧ pState (portAt 0 3 LPort.reset) 0 ≠ 10
    ∧ (portOfLink (portAt 0 6 { LPort.reset with bad := true }) 0).bad = true := by
  refine ⟨by decide +kernel, fun f => ⟨rfl, rfl, rfl, rfl, rfl, rfl, rfl⟩, by decide +kernel, by decide +kernel, by decide +kernel⟩
/-- A header with every field at another value, written out bit by bit. -/
theorem test_flit_header :
    flitHdr ⟨1, 2, 3, 4, 5, 6, 3, 8, 9, 1, [], 0, [], none, none, none⟩ = 0x2098C006000540030021
    ∧ (flitBytes (flit 0)).length = 270 := by decide +kernel
/-- The CRC-32C of the digits 1 to 9, as published for the code. -/
theorem test_crc32c : crc32c ("123456789".toList.map fun c => BitVec.ofNat 8 c.toNat) = 0xE3069283 := by decide +kernel
/-- A NAK for a flit that waits in the replay buffer, the eighth in succession or not. -/
theorem test_wit_nak :
    ({ LPort.reset with replay := [(5, waitingFlit)], nakSeq := some 5, naks := 7 } : LPort).replay.any (fun r => r.1 = 5) = true
    ∧ LPort.reset.nakSeq = none := by decide +kernel
theorem test_wit_port :
    regOpen State.reset .owl (portReg Reg.LNK_CTRL 31) = true ∧ peerOf (portAt 31 6 LPort.reset) 31 = some 9
    ∧ pState (portAt 31 6 LPort.reset) 31 = 6 ∧ (upPorts (portAt 31 6 LPort.reset) 9).length = 1
    ∧ (∀ q, q < 32 → peerOf (portAt 31 6 LPort.reset) q = some 9 → pState (portAt 31 6 LPort.reset) q ≠ 0) := by decide +kernel
theorem test_wit_route :
    regOpen State.reset .owl Reg.LNK_ROUTE_WIN = true ∧ (0x40003FFF#32).getLsbD 31 = false
    ∧ (0x80003FFF#32).getLsbD 30 = false := by decide +kernel
theorem test_wit_time :
    ftcSync (regsAt State.reset [(Reg.FTC_STATUS, 3)]) = 3 ∧ (16 : Nat) ≤ 15 + 1 ∧ ¬ 16 ≤ 14 + 1 := by decide +kernel

/-! ### Witnesses: collectives, job start, seals, security -/

/-- A group descriptor of an exact sum of 1,024 FP32 elements over four packages, with COLL_ID 7 and an endpoint. -/
def sumDesc : List Byte :=
  [1, 1, 1, 12, 12, 0, 1, 1, 4, 1, 1, 1, 1, 0, 0, 0] ++ natLE 4 1024 ++ natLE 2 4 ++ natLE 2 100
    ++ natLE 8 0x800 ++ natLE 8 0x3000000000000000 ++ natLE 8 0x3000000000004000 ++ natLE 4 7 ++ zeros 4 ++ natLE 8 0x400
/-- That collective at rank 0, issued by the one nib of the context. -/
def coll (agreed status : Nat) (segs : List CSeg) : Coll :=
  ⟨0, 7, [0, 1, 2, 3], 0, [false, false, false, false], [⟨0, sumDesc, .here (.nib 0 3), 0⟩], [0, 0, 0, 0], 0, agreed, segs, status, false⟩
/-- A context of one nib with the collective. -/
def gathering (k : Coll) : State :=
  { runs with ctxs := [(0, { Ctx.empty with loaded := true, geom := 1, packages := 4, spanNibs := 1 })], colls := [k] }
theorem test_wit_agreement :
    collFind (gathering (coll 0 0 [])) 0 7 = some (coll 0 0 []) ∧ collWhole (gathering (coll 0 0 [])) (coll 0 0 []) = true
    ∧ 3 + 1 = (coll 0 0 []).m ∧ dripReady (gathering (coll 0 0 [])) (coll 0 0 []) (nextBatch (coll 0 0 [])) = true
    ∧ nextBatch (coll 0 0 []) ≠ [] := by decide +kernel

/-- A segment of a shard in a state, with what `got` packages have brought to it. -/
def seg (owner : Nat) (st : SegSt) (got : Nat) : CSeg := ⟨owner, 0, 0, st, 0, got, [1], [false], false, 0, false⟩
def gathers (g : CSeg) : State := gathering (coll 1 0 [g])
theorem test_wit_segment :
    collFind (gathers (seg 0 .waiting 1)) 0 7 = some (coll 1 0 [seg 0 .waiting 1])
    ∧ segFind (coll 1 0 [seg 0 .waiting 1]) 0 0 0 = some (seg 0 .waiting 1)
    ∧ slabPick (gathers (seg 0 .waiting 1)) = some (coll 1 0 [seg 0 .waiting 1], seg 0 .waiting 1)
    ∧ (seg 0 .waiting 1).got < (coll 1 0 [seg 0 .waiting 1]).need 0 0
    ∧ slabPick (gathers (seg 1 .waiting 1)) = some (coll 1 0 [seg 1 .waiting 1], seg 1 .waiting 1)
    ∧ (coll 1 0 [seg 1 .waiting 1]).need 1 0 ≤ 1 ∧ (coll 1 0 []).next 1 0 = some (1, 1) ∧ (coll 1 0 []).next 0 0 = none
    ∧ (coll 1 0 []).desc.op = 1 ∧ slabPick State.reset = none := by decide +kernel
theorem test_wit_arrives :
    tagCtx signalled 9 = some 0 ∧ tagCtx signalled 8 = none
    ∧ segFind (coll 1 0 [seg 0 .slot 1]) 0 0 0 = some (seg 0 .slot 1) ∧ (seg 0 .slot 1).resent = false
    ∧ segEntry (coll 1 0 [seg 0 .slot 1]) 0 0 (0 / 8) = some (seg 0 .slot 1)
    ∧ segEntry (coll 1 0 [seg 0 .idle 1]) 0 0 (48 / 8) = some (seg 0 .idle 1)
    ∧ (seg 0 .slot 1).got + 2 < (coll 1 0 [seg 0 .slot 1]).need 0 0
    ∧ segFind (coll 1 0 [seg 1 .sent 1]) 1 0 0 = some (seg 1 .sent 1) ∧ (seg 1 .done 1).st ≠ .sent := by decide +kernel
theorem test_wit_fallback :
    (let s := regsAt (gathers (seg 0 .waiting 1)) [(perCtx Reg.RTR_CTX_SLAB 0x20 0, 0)]
     mayFallBack (atTime s 100000) (coll 1 0 [seg 0 .waiting 1]) (seg 0 .waiting 1) 100000 = true
     ∧ slabPick (atTime s 100000) = none ∧ collFind s 0 7 = some (coll 1 0 [seg 0 .waiting 1]))
    ∧ mayFallBack (atTime (gathers (seg 0 .waiting 1)) 99999) (coll 1 0 [seg 0 .waiting 1]) (seg 0 .waiting 1) 99999 = false := by
  decide +kernel
theorem test_wit_coll_over :
    collOver (coll 1 3 []) = true ∧ (coll 1 3 []).status ≠ 2 ∧ collStatus (coll 1 3 []) = 3 ∧ collOver (coll 0 0 []) = false
    ∧ collOver (coll 1 0 [seg 0 .done 4, seg 1 .done 1, seg 2 .done 1, seg 3 .done 1]) = true
    ∧ collStatus (coll 1 0 []) = 0 ∧ ((coll 1 3 []).parts.map (·.nib)).Nodup := by decide +kernel

theorem test_wit_arm :
    regOpen State.reset .owl (perCtx Reg.FTC_CTX_MODE 0x20 15) = true
    ∧ regOpen State.reset .owl (perCtx Reg.FTC_CTX_START_HI 0x20 15) = true
    ∧ (ctxOf runs 0).packages ≤ 1 ∧ (startOf runs 0).recs = [] := by decide +kernel
/-- Context 0 of one nib, armed, with GO, and its cluster running. -/
def armed : State :=
  { gathering (coll 0 0 []) with
    ctxs := [(0, { Ctx.empty with loaded := true, geom := 1, packages := 1, spanNibs := 1 })], nibs := [(0, { idleNib 8 with st := 1 })]
    regs := (regsAt runs [(perCtx Reg.FTC_CTX_START_STATUS 0x20 0, 1), (Reg.PWR_DOM_STATE + 8 * domOf 0, 2)]).regs
    starts := [(0, ⟨[], true, true⟩)] }
theorem test_wit_job_start :
    startState armed 0 = 1 ∧ (startOf armed 0).go = true ∧ startClusters armed 0 = [] ∧ (ctxOf armed 0).loaded = true
    ∧ (ctxOf armed 0).packages ≤ 1 ∧ startState State.reset 0 = 0 := by decide +kernel

/-- A plan of one layer and one nib, and a nib that has completed it in pass 0; region 0 holds the log. -/
def onePlan : SealPlan := ⟨[⟨0, false, 1, 1, 1, 0⟩], 1, [(0, 1)]⟩
def sealed (done : List (Nat × Nat)) : State :=
  let s := regional 0 runs
  { s with
    ctxs := [(0, { Ctx.empty with loaded := true, geom := 1, packages := 1, spanNibs := 1, plan := some onePlan, layerDone := done })]
    nibs := [(0, { idleNib 8 with sealT := { SealTile.start with done := [⟨0, 0, 5, 1, false⟩] } })] }
theorem test_wit_seal :
    (ctxOf (sealed []) 0).plan = some onePlan ∧ (ctxOf (sealed []) 0).halting = false ∧ (0, 0) ∉ (ctxOf (sealed []) 0).layerDone
    ∧ (List.range (ctxOf (sealed []) 0).spanNibs).filter (absorbs onePlan) = [0]
    ∧ (layerPart (nibOf (sealed []) 0) 0 0).isSome = true ∧ plainAt (sealed []) 0 = true
    ∧ (0, 0) ∈ (ctxOf (sealed [(0, 0)]) 0).layerDone := by decide +kernel

/-- The commands of security and seals, each the next of its pair; nothing is asked of their operands. -/
theorem test_wit_secure :
    ([8, 0x20, 0x21, 0x22, 0x23, 0x24, 0x25, 0x26].all fun op =>
      readyCmd (withCmd State.reset (cmdOf false [(0, 1, op)])) 0 0 == some (cmdOf false [(0, 1, op)])) = true
    ∧ State.reset.ownerOp = none := by decide +kernel

/-- A run of VERIFY_BLOCKS with one entry to go, or two. -/
def verifying (todo : List Nat) : State :=
  withCmd { ribAt 0 2 Rib.reset with verifies := [⟨7, 0, todo, 0, none⟩] } (cmdOf true [(0, 1, 0x21)])
theorem test_wit_verify :
    (verifying [0]).verifies.find? (fun w => w.no = 7) = some ⟨7, 0, [0], 0, none⟩ ∧ (dirEntry (verifying [0]) 0).valid = true
    ∧ (verifying [0, 1]).verifies.find? (fun w => w.no = 7) = some ⟨7, 0, [0, 1], 0, none⟩
    ∧ (verifying [0]).verifies.find? (fun w => w.no = 8) = none
    ∧ (verifying [0]).cmds.find? (fun y => y.no = 7) = some (cmdOf true [(0, 1, 0x21)])
    ∧ holdersOf (verifying [0]) (dirEntry (verifying [0]) 0) = [ribPos (verifying [0])]
    ∧ (ctxOf (verifying [0]) 0).resident = false := by decide +kernel

theorem test_wit_mctp :
    mctpUp State.reset 2 = true ∧ mctpUp (regsAt State.reset [(Reg.SEC_BOOT_STATUS, 3)]) 0 = true
    ∧ (⟨1, 0, [], .mctp 2⟩ : OwnerOp).reply = .mctp 2 := by decide +kernel

/-! ### Witnesses: completion, and clauses that the states above do not meet -/

/-- One bundle of each slot that issues, with a wait that is granted, halt and trap. -/
theorem test_wit_slots :
    (let s := counted
     let v := commit (wellCycle s 0 {}) 0
     nibDue s 0 0 && ([ctlBundle yes (.alu 1 2 3 0), ctlBundle yes (.bra 1), ctlBundle yes (.loopi 3 0), vecBundle yes 1 (vecFields 1),
       matBundle yes 3 mmulF, stmBundle yes 5 { rv := 2, sb := 1 }, synBundle yes (.tsig 15 0)].all fun x => issueOk v 0 0 x {})
     && (let x := synBundle yes (.twait 0 0)
         let r := waitStep v 0 x (waitOf v 0 0 x.syn)
         r.1 && (stageFrz v 0 {}).isNone && (bundleFaults v 0 0 x).isEmpty && (bundleFaults r.2 0 0 x).isEmpty)
     && (bundleFaults v 0 0 (ctlBundle yes .halt)).isEmpty && predHolds (nibOf v 0) yes && !atLoopEnd (nibOf v 0)) = true := by
  decide +kernel

/-- A stage whose next cycle pushes a row into a queue that is full of rows for mpop. -/
def fullStage : State :=
  let row : DrainRow := ⟨List.replicate 16 1, 12, false, true, 0, 0, false, 0, false⟩
  loaded { matNib with stage := some { theStage with tau := 22, step := 16, loads := 1 }, drains := [(0, List.replicate 32 row)] }
/-- An stg whose descriptor is still to be read, is good, or is all zeros. -/
def asked (d : Option (List Byte)) : State := loaded { matNib with stgReq := some { theReq with desc := d } }
theorem test_wit_stage_set_up :
    (nibOf (asked none) 0).st = 2 ∧ (nibOf (asked none) 0).hold = none
    ∧ stgCheck (asked none) 0 0 theReq (readBytes matNib.well 0x100 64) = none
    ∧ (stgCheck (asked none) 0 0 theReq (zeros 64)).isSome = true
    ∧ ((List.range 64).any fun t => (stageOverflow (nibOf fullStage 0) theStage t).isSome) = true := by decide +kernel

/-- The log of context 15 and hub tally 16383 among the registers, and tally 15 of the last nib. -/
theorem test_wit_special_registers :
    (rowAt (Reg.HUB_LOG_STATUS + 0x1000 * 15)).map (fun x => (x.1.base, x.1.pair, x.2.1)) = some (Reg.HUB_LOG_STATUS, 0, 15)
    ∧ nibAt (Reg.HUB_LOG_STATUS + 0x1000 * 15) = none
    ∧ (rowAt (Reg.FTC_TALLY + 4 * 16383)).map (fun x => (x.1.base, x.1.pair, x.2.1)) = some (Reg.FTC_TALLY, 0, 16383)
    ∧ nibAt (nibOffset 3071 (Reg.NIB_TAL + 60)) = some (3071, Reg.NIB_TAL + 60) := by decide +kernel

theorem test_wit_adder : exactAdder (regional 2 State.reset) 64 64 = false := by decide +kernel

/-- Contexts 0 and 1 with memory tables that bind channel 0. -/
def sharing : State :=
  let s := regsAt (regional 1 State.reset) [(regOff Reg.MEM_REG_BASE 1, 16), (regOff Reg.MEM_REG_EXTENT 1, 16),
    (regOff Reg.MEM_REG_CHBASE 1, 16), (regOff Reg.MEM_REG_CFG 1, 0x80000043 + 256)]
  let k : Ctx := { Ctx.empty with loaded := true, memTab := some ⟨1, 500, false, []⟩ }
  { s with ctxs := [(0, k), (1, k)] }

/-- A resident program of one nib, and its switch with nibs that are still to wait. -/
def residentAt (ns : List Nat) : State :=
  { runs with
    ctxs := [(0, { Ctx.empty with loaded := true, resident := true, geom := 1, packages := 1, spanNibs := 1 })]
    rib := { Rib.reset with awaiting := ns } }
theorem test_wit_resident :
    residentRib (residentAt []) = true ∧ switching (residentAt []) = false ∧ jobNibs (residentAt []) (ribCtx (residentAt [])) ≠ []
    ∧ 5 ∈ (residentAt [0, 5]).rib.awaiting ∧ (0 : Nat) ∈ (residentAt [0, 5]).rib.awaiting ∧ (0 : Nat) ≠ 5
    ∧ (∀ m ∈ (residentAt [5]).rib.awaiting, m = 5) ∧ Rib.reset.formFrom = [] ∧ Rib.reset.digs = [] := by decide +kernel

/-- The commands that wait for a time or a state of the ribbon, in it. -/
theorem test_wit_ribbon_complete :
    forming.rib.forming = some 0 ∧ 10000000000 ≤ (atTime forming 10000000000).ftc - 0
    ∧ (let s := ribAt 0 3 { lapDone.rib with stopping := true }
       isLead s = true ∧ lapSent s = true ∧ ribState s = 3 ∧ s.rib.stopping = true)
    ∧ hopsUsed (atTime (ribAt 0 2 Rib.reset) 200000) = true
    ∧ 1000 * Nat.max 50 (getF (ribAt 0 2 Rib.reset) Reg.RIB_HOP_TIMEOUT 15 0) ≤ (atTime (ribAt 0 2 Rib.reset) 200000).ftc
    ∧ (Rib.reset.forming).isSome = false ∧ 1 ≤ ribState (ribAt 0 2 Rib.reset) ∧ shadowSet (ribAt 0 2 Rib.reset) = 1 := by
  decide +kernel

/-- Units that arrive in order, with nothing before them to pass. -/
theorem test_wit_units :
    (passUnit (passing []) false).isNone = true ∧ (ribDir (passing []) false).recv = [] ∧ (ribDir (passing []) false).waiting = []
    ∧ (passUnit (passing taken) false).isNone = true ∧ launching.rib.fed = []
    ∧ (∀ k, (ribDir launching false).sent = some k → k.stop = false) := by decide +kernel

/-- A port in each state of its training, its limits, and a lane that is weak at the last port to its peer. -/
theorem test_wit_links_complete :
    ([1, 2, 3, 4, 5, 6, 7, 9, 10].all fun st => pState (portAt 31 st LPort.reset) 31 == st) = true
    ∧ mayTrain (regsAt (portAt 31 0 LPort.reset) [(Reg.LNK_PROFILE, 4)]) 31 = true
    ∧ trainLimit 4 ≤ (atTime (portAt 31 4 LPort.reset) 1000000000).ftc - (portOfLink (portAt 31 4 LPort.reset) 31).since
    ∧ unsettled (portAt 31 6 LPort.reset) 9 = []
    ∧ refOn (regsAt State.reset [(Reg.FTC_STATUS, 8), (Reg.FTC_CTRL, 1)]) = true
    ∧ 1100000000 ≤ (atTime State.reset 1100000000).ftc - State.reset.refEdge := by decide +kernel

/-- The same without a verdict. -/
def unjudged : State := { armed with starts := [(0, ⟨[], false, false⟩)] }
/-- Starts of context 0 that are due, of the lead with a record outstanding, and of a member. -/
theorem test_wit_starts_complete :
    (startOf armed 0).go = true ∧ startTime armed 0 = 0 ∧ packageIndex armed 0 = 0
    ∧ startState unjudged 0 = 1 ∧ (startOf unjudged 0).go = false ∧ (startOf unjudged 0).judged = false := by decide +kernel

/-- Commands whose pairs they are next of, with operands that their rules accept. -/
theorem test_wit_host_complete :
    doorbellCtx (queued ready openPair) (.host 0 0) = some 0
    ∧ signalDue (xferCmd []) 1 = false
    ∧ ((moving (xferCmd [])).cmds.any fun x => portOf State.reset x.c = 1 && holdsRange x 0 64) = false
    ∧ (let s := { regsAt (moving { tierCmd 0 with started := false })
          [(Reg.AVF_PORT1_STATUS, 1), (Reg.MEM_FAR_SIZE, 1), (Reg.MEM_FAR_STATUS, 2), (Reg.FTC_TALC_HUB, 0x00020000)] with
          ctxs := hubMapped.ctxs, farGrants := [(0, 0, 8192)] }
       readyCmd s 0 0 = some { tierCmd 0 with started := false } ∧ cxlRole s = true ∧ portOf s 0 = 0
       ∧ (resolveTid s 0 none 0 false).isSome = true ∧ farGranted s 0 0 8192 = true
       ∧ dpaOwned 3 s 0 0 8192 = true ∧ getF s Reg.MEM_FAR_STATUS 1 1 ≠ 0) := by decide +kernel

/-- A manifest in force for the commands that name one, in region 0 of context 0. -/
def manifested (x : AvCmd) : State :=
  { moving x with manifests := [⟨0, 0, 4096, 2048, []⟩], rib := { Rib.reset with begun := 0 } }
theorem test_wit_security_complete :
    (let x := cmdOf false [(0, 1, 8), (0x18, 8, 64), (0x20, 8, 64), (0x28, 8, 64)]
     readyCmd (manifested x) 0 0 = some x ∧ (manifestOf (manifested x) 0 0).isSome = true
     ∧ dpaOwned 2 (manifested x) 0 0 64 = true ∧ dpaOwned 2 (manifested x) 0 64 64 = true)
    ∧ ownerQueue State.reset (cmdOf false []) = true ∧ verifyState (ribAt 0 2 Rib.reset) 0 = true
    ∧ ([1, 2, 8, 9, 10].contains (recOf (zeros 6 ++ [2, 0])).ty) = true := by decide +kernel

/-- The steps of a boot, a package that runs, an Owl that restarts. -/
theorem test_wit_package_complete :
    bootStage State.reset = 0 ∧ (∀ k ∈ [1, 2], bootStage (regsAt State.reset [(Reg.SEC_BOOT_STATUS, BitVec.ofNat 32 k)]) = k)
    ∧ owlState State.reset = 0 ∧ owlState (regsAt State.reset [(Reg.HUB_OWL_STATUS, 1)]) = 1
    ∧ getF ready Reg.HUB_STATUS 3 3 = 1 := by decide +kernel

/-! ### Witnesses: boot, resets, power, logs, live service, the queue -/

theorem test_wit_reset :
    State.reset.pstep ≠ 0 ∧ ¬(1 = 1 ∧ cxlRole State.reset = true)
    ∧ cxlRole (regsAt State.reset [(Reg.AVF_PORT1_STATUS, 1)]) = true ∧ (∀ x ∈ State.reset.svc, x.1 % 65536 < 256) := by decide +kernel
theorem test_wit_power :
    powered State.reset = true ∧ powered { State.reset with pstep := 7 } = false
    ∧ shutSensor State.reset [30, 30, 30, 30] [30, 30, 30, 30] 30 = none
    ∧ shutSensor State.reset [30, 30, 30, 200] [30, 30, 30, 30] 30 ≠ none := by decide +kernel
theorem test_wit_clock :
    ({ State.reset with wakes := [(5, 2), (5, 2)] } : State).wakes = (5, 2) :: [(5, 2)] ∧ State.reset.wakes = []
    ∧ dieStopped State.reset 3 = false ∧ dieClk State.reset 3 < 2023 ∧ dieStopped (regsAt State.reset [(Reg.PWR_DIE_CLK + 12, 0x100003E8)]) 3 = true := by decide +kernel
/-- A contained error of context 15 on its way to its log, the first of its class or not. -/
def report15 : Report := ⟨3, 0x2B, 11, some 15, 0, 0, 0⟩
theorem test_wit_log :
    ({ State.reset with reports := [report15] } : State).reports = report15 :: [] ∧ report15.cls < 4 ∧ report15.ctx.getD 16 < 17
    ∧ getF State.reset (Reg.HUB_LOG_STATUS + 0x1000 * 15) 3 0 = 0
    ∧ getF (regsAt State.reset [(Reg.HUB_LOG_STATUS + 0x1000 * 16, 8)]) (Reg.HUB_LOG_STATUS + 0x1000 * 16) 3 0 ≠ 0 := by decide +kernel
/-- Service: the Owl runs and the unit exists, or does not. -/
theorem test_wit_service :
    regOpen State.reset .owl Reg.HUB_SVC_CMD = true
    ∧ (let s := regsAt State.reset [(Reg.HUB_SVC_UNIT, 0x00010000)]
       owlState s = 0 ∧ svcUnitOk s (svcAddr s).1 (svcAddr s).2 = true)
    ∧ (let s := regsAt State.reset [(Reg.HUB_OWL_STATUS, 2)]
       owlState s ≠ 0) := by decide +kernel
theorem test_wit_scrub : ctxOfTally hubMapped 1 = some 0 := by decide +kernel

theorem test_wit_writes :
    (∀ w ∈ [Wr.s 31 1, .a 15 1, .p 7 1 1, .acc 0 1, .s 0 1],
      (nibOf (loaded { idleNib 8 with pend := [⟨0, w⟩] }) 0).pend = [⟨0, w⟩])
    ∧ (nibOf (loaded (idleNib 8)) 0).clk < 1 ∧ 0 ≤ (idleNib 8).clk := by decide +kernel
theorem test_wit_queue_modes :
    Claims.modesLegal { runs with pending := [.nop 0 0] } = true
    ∧ (match step { runs with pending := [.nop 0 0] } with | .next t => t.pending == [] | _ => false) = true := by decide +kernel
/-- Idle steps: without power, with the hub core running at a rate of a half more, with it gated. -/
def idles (st : Nat) : State :=
  { regsAt State.reset [(Reg.FTC_RATE, 0x7FFFFFFF), (Reg.PWR_DOM_STATE + 8 * 57, BitVec.ofNat 32 st)] with
    pstep := 6, ftc := 7, ftcFrac := 2 ^ 32 - 1 }
theorem test_idle_ticks :
    ((match step { State.reset with pstep := 0 } with | .next t => t == { State.reset with pstep := 0 } | _ => false) && (idles 2).pending.isEmpty && domState (idles 2) 57 == 2 && domState (idles 0) 57 == 0
      && (match step (idles 2) with | .next t => t.ftc == 9 && t.ftcFrac == 0x7FFFFFFE | _ => false)
      && (match step (idles 0) with | .next t => t.ftc == 47 | _ => false)) = true := by decide +kernel
theorem test_wit_round_trip :
    ctlOk (.alu 31 31 31 14) = true ∧ ctlOk (.immS 6 31 31 31) = true ∧ ctlOk (.immS 3 31 31 4095) = true
    ∧ ctlOk (.pset 7 31 31 5) = true ∧ ctlOk (.rdsys 31 6) = true ∧ ctlOk (.trap 65535) = true := by decide +kernel
/-- The memories of the reset state have the canonical form. -/
theorem test_reset_memories :
    Memory.wf State.reset.hbm = true ∧ Memory.wf State.reset.hostMem = true ∧ Memory.wf State.reset.landMem = true
    ∧ Memory.wf State.reset.farMem = true ∧ Memory.wf State.reset.flash = true
    ∧ Memory.wf (nibOf State.reset 0).well = true := by decide +kernel

end Sys2Proof.Tests
end

section
/-!
PROOF. Register writes of the bus (R9, R10): the word that a write leaves, bit by bit, and what it leaves unchanged.
-/
namespace Sys2Proof.Machine

/-! ### Bits of fields -/

theorem fld_single_bit (w : W32) (k : Nat) : fld w k k = (w.getLsbD k).toNat := by
  simp [fld, bits, BitVec.getLsbD, Nat.toNat_testBit]

/-- A change of bits `[hi:lo]` leaves the bits below them. -/
theorem getLsbD_setFld_below (w : W32) {hi lo k : Nat} (v : Nat) (hk : k < lo) (hw : k < 32) :
    (setFld w hi lo v).getLsbD k = w.getLsbD k := by
  have hle : 2 ^ lo * bits w.toNat hi lo ≤ w.toNat :=
    Nat.le_trans (Nat.mul_le_mul_left _ (Nat.mod_le _ _)) (Nat.mul_div_le _ _)
  have hmod : setBits w.toNat hi lo v % 2 ^ lo = w.toNat % 2 ^ lo := by
    rw [setBits, Nat.add_mul_mod_self_right, Nat.mul_comm, Nat.sub_mul_mod hle]
  have hbit : (setBits w.toNat hi lo v).testBit k = w.toNat.testBit k := by
    simpa [Nat.testBit_mod_two_pow, hk] using congrArg (Nat.testBit · k) hmod
  rw [setFld, BitVec.getLsbD_ofNat, hbit, decide_eq_true hw, Bool.true_and]
  rfl

/-! ### The access codes, bit by bit (R9, R10) -/

/-- The bits that take the written value: RW bits, and RWL bits where no seal locks them. -/
theorem getLsbD_takenBits (r : RegRow) (locked : Bool) (k : Nat) :
    (BitVec.ofNat 32 (if locked then r.rw else r.rw ||| r.rwl)).getLsbD k =
      ((BitVec.ofNat 32 r.rw).getLsbD k || ((BitVec.ofNat 32 r.rwl).getLsbD k && !locked)) := by
  cases locked
  · simp [← BitVec.getLsbD_or]
  · simp

/-- One bit of the word that a write leaves, by its access codes. -/
theorem getLsbD_written (r : RegRow) (locked : Bool) (old v set : W32) {k : Nat} (hk : k < 32) :
    (written r locked old v set).getLsbD k =
      (if (BitVec.ofNat 32 r.w1c).getLsbD k && set.getLsbD k then true
       else if (BitVec.ofNat 32 r.rw).getLsbD k || ((BitVec.ofNat 32 r.rwl).getLsbD k && !locked) then v.getLsbD k
       else if (BitVec.ofNat 32 r.w1c).getLsbD k && v.getLsbD k then false
       else old.getLsbD k) := by
  rw [← getLsbD_takenBits]
  simp only [written, BitVec.getLsbD_or, BitVec.getLsbD_and, BitVec.getLsbD_not, hk, decide_true, Bool.true_and]
  generalize (BitVec.ofNat 32 (if locked then r.rw else r.rw ||| r.rwl)).getLsbD k = taken
  cases taken <;> cases (BitVec.ofNat 32 r.w1c).getLsbD k <;> cases set.getLsbD k <;> simp [Bool.and_comm]

/-! ### The word at a BAR0 offset -/

/-- The offset of a nib's register in BAR0 is the one from which `nibAt` reads the nib and the register. -/
theorem nibOffset_of_nibAt {off n o : Nat} (h : nibAt off = some (n, o)) : nibOffset n o = off := by
  simp only [nibAt] at h
  split at h
  · cases h
  · split at h
    · cases h
      simp only [nibOffset, dieOf, clusterOf, dieBase] at *
      omega
    · cases h

/-- A word listed under a key reads back at no other key, whatever the defaults. -/
theorem look_put_at_other (d e : W32) (m : NMap W32) {j k : Nat} (v : W32) (h : j ≠ k) :
    look d (put e m k v) j = look d m j := by
  unfold put
  split
  · exact look_drop_other d m h
  · exact look_insert_other d m v h

@[simp] theorem nibReg_setNibReg_same (b : Nib) (o : Nat) (v : W32) : nibReg (setNibReg b o v) o = v := by
  simp [nibReg, setNibReg]

theorem nibReg_setNibReg_other (b : Nib) {a o : Nat} (v : W32) (h : a ≠ o) :
    nibReg (setNibReg b o v) a = nibReg b a := look_put_at_other _ _ _ v h

/-- The word at a BAR0 offset is replaced: in a nib's window or in the hub. -/
def setRegWord (s : State) (off : Nat) (w : W32) : State :=
  match nibAt off with
  | some (n, o) => onNib s n fun b => setNibReg b o w
  | none => setReg s off w

theorem setRegWord_of_nib {s : State} {off n o : Nat} {w : W32} (h : nibAt off = some (n, o)) :
    setRegWord s off w = onNib s n fun b => setNibReg b o w := by simp [setRegWord, h]

theorem setRegWord_of_hub {s : State} {off : Nat} {w : W32} (h : nibAt off = none) :
    setRegWord s off w = setReg s off w := by simp [setRegWord, h]

theorem regWord_of_nib {s : State} {off n o : Nat} (h : nibAt off = some (n, o)) :
    regWord s off = nibReg (nibOf s n) o := by simp [regWord, h]

theorem regWord_of_hub {s : State} {off : Nat} (h : nibAt off = none) : regWord s off = getReg s off := by
  simp [regWord, h]

/-- The replacement of a word changes hub registers or nibs, and no other field. -/
theorem setRegWord_fields (s : State) (off : Nat) (w : W32) :
    setRegWord s off w = { s with regs := (setRegWord s off w).regs, nibs := (setRegWord s off w).nibs } := by
  unfold setRegWord
  split <;> rfl

/-- The replacement of a word changes no more of any nib than the registers of its window. -/
theorem nibOf_setRegWord (s : State) (off : Nat) (w : W32) (m : Nat) :
    ∃ x, nibOf (setRegWord s off w) m = { nibOf s m with regs := x } := by
  cases h : nibAt off with
  | none => exact ⟨_, by rw [setRegWord_of_hub h]; rfl⟩
  | some p =>
    obtain ⟨n, o⟩ := p
    rw [setRegWord_of_nib h]
    by_cases hm : m = n
    · subst hm
      exact ⟨_, nibOf_onNib_same s m _⟩
    · exact ⟨_, nibOf_onNib_other s _ hm⟩

@[simp] theorem regWord_setRegWord_same (s : State) (off : Nat) (w : W32) : regWord (setRegWord s off w) off = w := by
  cases h : nibAt off with
  | none => rw [setRegWord_of_hub h, regWord_of_hub h, getReg_setReg_same]
  | some p => rw [setRegWord_of_nib h, regWord_of_nib h, nibOf_onNib_same, nibReg_setNibReg_same]

theorem regWord_setRegWord_other (s : State) {o off : Nat} (w : W32) (h : o ≠ off) :
    regWord (setRegWord s off w) o = regWord s o := by
  cases ho : nibAt o with
  | none =>
    rw [regWord_of_hub ho, regWord_of_hub ho]
    cases hf : nibAt off with
    | none => rw [setRegWord_of_hub hf, getReg_setReg_other s w h]
    | some p => rw [setRegWord_of_nib hf, getReg_onNib]
  | some q =>
    obtain ⟨m, a⟩ := q
    rw [regWord_of_nib ho, regWord_of_nib ho]
    cases hf : nibAt off with
    | none => rw [setRegWord_of_hub hf, nibOf_setReg]
    | some p =>
      obtain ⟨n, b⟩ := p
      rw [setRegWord_of_nib hf]
      by_cases hm : m = n
      · subst hm
        have hab : a ≠ b := fun hab => h (by rw [← nibOffset_of_nibAt ho, ← nibOffset_of_nibAt hf, hab])
        rw [nibOf_onNib_same, nibReg_setNibReg_other _ _ hab]
      · rw [nibOf_onNib_other s _ hm]

/-! ### A write by the access codes alone -/

/-- A write that meets a context's seal is reported (R9, CODE 0x29); one that meets none is not. -/
def noteSeal (s : State) (lock : Option Nat) (off : Nat) : State :=
  match lock with
  | some c => noteLocked s c off
  | none => s

@[simp] theorem regWord_noteSeal (s : State) (lock : Option Nat) (off o : Nat) :
    regWord (noteSeal s lock off) o = regWord s o := by cases lock <;> rfl

@[simp] theorem nibOf_noteSeal (s : State) (lock : Option Nat) (off m : Nat) :
    nibOf (noteSeal s lock off) m = nibOf s m := by cases lock <;> rfl

theorem noteSeal_fields (s : State) (lock : Option Nat) (off : Nat) :
    noteSeal s lock off = { s with reports := (noteSeal s lock off).reports } := by cases lock <;> rfl

theorem noteSeal_reports (s : State) (lock : Option Nat) (off : Nat) :
    (noteSeal s lock off).reports =
      (match lock with | some c => s.reports ++ [⟨2, 0x29, 0, some c, 0, off, s.ftc⟩] | none => s.reports) := by
  cases lock <;> rfl

/-- The seal that locks a register of a nib's window is that of the nib's context, whatever the index. -/
theorem lockHolder_of_nib (s : State) (r : RegRow) {off : Nat} (i j : Nat) (h : nibAt off ≠ none) :
    lockHolder s r off i = lockHolder s r off j := by
  unfold lockHolder sealOwner
  cases hn : nibAt off with
  | none => exact absurd hn h
  | some p => rfl

/-- A write by access codes replaces one word, and reports a seal that it meets. -/
theorem plainWrite_eq (s : State) (r : RegRow) (off i : Nat) (v set : W32) :
    plainWrite s r off i v set =
      setRegWord (noteSeal s (lockHolder s r off i) off) off
        (written r (lockHolder s r off i).isSome (regWord s off) v set) := by
  cases hn : nibAt off with
  | none =>
    rw [setRegWord_of_hub hn, regWord_of_hub hn]
    cases hl : lockHolder s r off i <;> simp [plainWrite, hn, hl, noteSeal, noteLocked]
  | some p =>
    rw [setRegWord_of_nib hn, regWord_of_nib hn]
    cases hl : lockHolder s r off i <;> simp [plainWrite, hn, hl, noteSeal, noteLocked, onNib]

/-! ### Tallies (R271) -/

theorem tallyWrite_ovf (t : Tally) (v set : W32) :
    (tallyWrite t v set).ovf = (set.getLsbD 16 || t.ovf && !v.getLsbD 16) := by
  simp only [tallyWrite, fld_single_bit]
  cases v.getLsbD 16 <;> cases set.getLsbD 16 <;> simp

theorem tallyWrite_count (t : Tally) (v set : W32) : (tallyWrite t v set).count = t.count := rfl

@[simp] theorem talOf_setTal_same (s : State) (x : TalRef) (t : Tally) : talOf (setTal s x t) x = t := by
  cases x <;> simp [talOf, setTal]

theorem talOf_setTal_other (s : State) {x y : TalRef} (t : Tally) (h : y ≠ x) :
    talOf (setTal s x t) y = talOf s y := by
  cases x with
  | hub i =>
    cases y with
    | hub j => exact look_put_other _ _ _ fun hij => h (by rw [hij])
    | nib m j => rfl
  | nib n i =>
    cases y with
    | hub j => rfl
    | nib m j =>
      by_cases hm : m = n
      · subst hm
        have hij : j ≠ i := fun hij => h (by rw [hij])
        simp [talOf, setTal, look_put_other _ _ _ hij]
      · simp [talOf, setTal, nibOf_onNib_other s _ hm]

/-! ### The status of a log (R416) -/

/-- Words stored one after another elsewhere leave a hub register. -/
theorem getReg_foldl_setReg_other {o off : Nat} (w : Nat → W32) (is : List Nat) (h : ∀ i ∈ is, o ≠ off + 4 * i)
    (s : State) :
    getReg (is.foldl (fun s i => setReg s (off + 4 * i) (w i)) s) o = getReg s o := by
  induction is generalizing s with
  | nil => rfl
  | cons i is ih =>
    obtain ⟨hi, his⟩ := List.forall_mem_cons.mp h
    rw [List.foldl_cons, ih his, getReg_setReg_other s _ hi]

theorem getReg_putWords8_other (s : State) {o off : Nat} (ws : List Nat) (h : ∀ i, i < 8 → o ≠ off + 4 * i) :
    getReg (putWords8 s off ws) o = getReg s o :=
  getReg_foldl_setReg_other _ _ (fun i hi => h i (List.mem_range.mp hi)) s

/-- The class bits and OVF of a log's status after a write of it. -/
theorem getLsbD_logStatusWrite (s : State) (n : Nat) (v set : W32) {k : Nat} (hk : k < 5) :
    (getReg (logStatusWrite s n v set) (Reg.HUB_LOG_STATUS + 0x1000 * n)).getLsbD k =
      (set.getLsbD k || (getReg s (Reg.HUB_LOG_STATUS + 0x1000 * n)).getLsbD k && !v.getLsbD k) := by
  have hmask : (0x1F : W32).getLsbD k = true := by
    obtain rfl | rfl | rfl | rfl | rfl : k = 0 ∨ k = 1 ∨ k = 2 ∨ k = 3 ∨ k = 4 := by omega
    all_goals rfl
  have hapart : ∀ i, i < 8 → Reg.HUB_LOG_STATUS + 0x1000 * n ≠ logBase n + 0x800 + 4 * i := by
    intro i hi
    simp only [Reg.HUB_LOG_STATUS, logBase]
    omega
  have hword : ((getReg s (Reg.HUB_LOG_STATUS + 0x1000 * n) &&& ~~~(v &&& 0x1F)) ||| (set &&& 0x1F)).getLsbD k =
      (set.getLsbD k || (getReg s (Reg.HUB_LOG_STATUS + 0x1000 * n)).getLsbD k && !v.getLsbD k) := by
    simp only [BitVec.getLsbD_or, BitVec.getLsbD_and, BitVec.getLsbD_not, hmask, Bool.and_true,
      show k < 32 by omega, decide_true, Bool.true_and, Bool.or_comm]
  rw [← hword]
  simp only [logStatusWrite]
  split
  · rw [setF, getReg_setReg_same, getLsbD_setFld_below _ _ hk (by omega), getReg_putWords8_other _ _ hapart,
      getReg_setReg_same]
  · rw [getReg_setReg_same]

/-! ### What a register write does -/

/-- The dispatch of a register write. -/
theorem exec_registerWrite (s : State) (a : Acc) (off : Nat) (v set : W32) (cond : Bool) :
    exec (.registerWrite a off v set cond) s = regCmd s a off fun s => regWrite s a off v set cond := rfl

/-- An open register's write answers the state that the write makes. -/
theorem registerWrite_of_open {s : State} {a : Acc} {off : Nat} (v set : W32) (cond : Bool)
    (h : regOpen s a off = true) :
    exec (.registerWrite a off v set cond) s = .next (regWrite s a off v set cond) := by
  simp only [regOpen, Bool.and_eq_true] at h
  obtain ⟨⟨hready, hmapped⟩, hmay⟩ := h
  simp [exec_registerWrite, regCmd, hready, hmapped, hmay]

/-- The write of a nib's tally register. -/
theorem regWrite_of_nibTally (s : State) (a : Acc) {off n k : Nat} (v set : W32) (cond : Bool)
    (h : nibAt off = some (n, Reg.NIB_TAL + 4 * k)) (hk : k < 16) :
    regWrite s a off v set cond = setTal s (.nib n k) (tallyWrite (talOf s (.nib n k)) v set) := by
  have hfrz : Reg.NIB_TAL + 4 * k ≠ Reg.NIB_FRZ_CTRL := by simp only [Reg.NIB_TAL, Reg.NIB_FRZ_CTRL]; omega
  have hin : Reg.NIB_TAL ≤ Reg.NIB_TAL + 4 * k ∧ Reg.NIB_TAL + 4 * k < Reg.NIB_TAL + 64 := by omega
  simp [regWrite, h, nibWrite, hfrz, hin, setTal, talOf, onNib]

/-- The write of a hub register that is no half of a pair. -/
theorem regWrite_of_hub (s : State) (a : Acc) {off i j : Nat} {r : RegRow} (v set : W32) (cond : Bool)
    (hn : nibAt off = none) (hr : rowAt off = some (r, i, j)) (hp : r.pair = 0) :
    regWrite s a off v set cond = (hubWrite s a r off i j v set cond).getD (plainWrite s r off i v set) := by
  have hf : findRow hubRows off = some (r, i, j) := by simpa [rowAt, hn] using hr
  simp only [regWrite, hn, hf, hp]
  cases hubWrite s a r off i j v set cond <;> rfl

theorem hubWrite_logStatus (s : State) (a : Acc) {r : RegRow} (off i j : Nat) (v set : W32) (cond : Bool)
    (h : r.base = Reg.HUB_LOG_STATUS) : hubWrite s a r off i j v set cond = some (logStatusWrite s i v set) := by
  simp only [hubWrite, h]
  rfl

theorem hubWrite_tally (s : State) (a : Acc) {r : RegRow} (off i j : Nat) (v set : W32) (cond : Bool)
    (h : r.base = Reg.FTC_TALLY) :
    hubWrite s a r off i j v set cond = some (setTal s (.hub i) (tallyWrite (talOf s (.hub i)) v set)) := by
  simp only [hubWrite, h]
  rfl

/-- The write of a register that acts by its access codes alone. -/
theorem regWrite_of_plain {s : State} {a : Acc} {off i j : Nat} {r : RegRow} {v set : W32} {cond : Bool}
    (hr : rowAt off = some (r, i, j)) (h : plainReg s a off v set cond = true) :
    regWrite s a off v set cond = plainWrite s r off i v set := by
  cases hn : nibAt off with
  | none =>
    have hf : findRow hubRows off = some (r, i, j) := by simpa [rowAt, hn] using hr
    obtain ⟨hpair, hhub⟩ : r.pair = 0 ∧ hubWrite s a r off i j v set cond = none := by
      simpa [plainReg, hn, hf] using h
    rw [regWrite_of_hub s a v set cond hn hr hpair, hhub, Option.getD_none]
  | some p =>
    obtain ⟨n, o⟩ := p
    have hf : findRow nibRows o = some (r, i, j) := by simpa [rowAt, hn] using hr
    obtain ⟨hfrz, htal⟩ : o ≠ Reg.NIB_FRZ_CTRL ∧ ¬ (Reg.NIB_TAL ≤ o ∧ o < Reg.NIB_TAL + 64) := by
      simpa only [plainReg, hn, ← Bool.decide_and, ← decide_not, decide_eq_true_eq] using h
    have hwrite : regWrite s a off v set cond = plainWrite s r off n v set := by
      simp only [regWrite, hn, nibWrite, if_neg hfrz, if_neg htal, hf]
    rw [hwrite, plainWrite_eq, plainWrite_eq, lockHolder_of_nib s r n i (by simp [hn])]

/-! ### The obligation -/

/-- Settles O23: a write of an open register is `logStatusWrite`, `tallyWrite` or `plainWrite`, and each of these is
read bit by bit. -/
theorem registerWrites : Obligations.RegisterWrites := by
  unfold Obligations.RegisterWrites
  intro s a off v set cond r i j hopen hr
  have hexec := registerWrite_of_open v set cond hopen
  refine ⟨fun hn hp hb => ⟨_, hexec, ?_⟩, fun x hx => ⟨_, hexec, ?_⟩, fun hplain => ⟨_, hexec, ?_⟩⟩
  · rw [regWrite_of_hub s a v set cond hn hr hp, hubWrite_logStatus s a off i j v set cond hb, Option.getD_some]
    exact fun k hk => getLsbD_logStatusWrite s i v set hk
  · have hwrite : regWrite s a off v set cond = setTal s x (tallyWrite (talOf s x) v set) := by
      obtain ⟨hn, hp, hb, rfl⟩ | ⟨n, k, hn, hk, rfl⟩ := hx
      · rw [regWrite_of_hub s a v set cond hn hr hp, hubWrite_tally s a off i j v set cond hb, Option.getD_some]
      · exact regWrite_of_nibTally s a v set cond hn hk
    rw [hwrite]
    refine ⟨?_, ?_, fun y hy => talOf_setTal_other s _ hy⟩
    · rw [talOf_setTal_same, tallyWrite_ovf]
    · rw [talOf_setTal_same, tallyWrite_count]
  · rw [regWrite_of_plain hr hplain, plainWrite_eq]
    generalize lockHolder s r off i = lock
    generalize hw : written r lock.isSome (regWord s off) v set = w
    refine ⟨fun k hk => ?_, fun o ho => ?_, ?_, fun m => ?_, ?_⟩
    · rw [regWord_setRegWord_same, ← hw, getLsbD_written _ _ _ _ _ hk]
      cases lock <;> rfl
    · rw [regWord_setRegWord_other _ _ ho, regWord_noteSeal]
    · rw [setRegWord_fields, noteSeal_fields]
    · simpa using nibOf_setRegWord (noteSeal s lock off) off w m
    · rw [setRegWord_fields]
      exact noteSeal_reports s lock off

end Sys2Proof.Machine
end

section
/-!
PROOF. Unmapped accesses (R6, R434): the record that one leaves in the hub registers, and which commands leave it.
-/
namespace Sys2Proof.Machine

/-! ### One bit of a register is set -/

theorem setFld_bit_one (w : W32) (i : Nat) : setFld w i i 1 = w ||| BitVec.twoPow 32 i := by
  have hbits : setBits w.toNat i i 1 = w.toNat - (w.getLsbD i).toNat * 2 ^ i + 2 ^ i := by
    simp [setBits, bits, BitVec.getLsbD, Nat.toNat_testBit]
  rw [setFld, hbits]
  cases h : w.getLsbD i with
  | true =>
    have hset : w ||| BitVec.twoPow 32 i = w := by
      ext k
      rw [BitVec.getElem_or, BitVec.getElem_twoPow]
      by_cases hki : k = i
      · rw [← BitVec.getLsbD_eq_getElem, hki, h, Bool.true_or]
      · rw [decide_eq_false hki, Bool.or_false]
    rw [Bool.toNat_true, Nat.one_mul, Nat.sub_add_cancel (Nat.ge_two_pow_of_testBit h), hset, BitVec.ofNat_toNat,
      BitVec.setWidth_eq]
  | false =>
    have hclear : w &&& BitVec.twoPow 32 i = 0 := by simp [BitVec.and_twoPow, h]
    rw [← BitVec.add_eq_or_of_and_eq_zero _ _ hclear]
    exact BitVec.eq_of_toNat_eq (by simp)

theorem getLsbD_getReg_setBit_same (s : State) (off i : Nat) {k : Nat} (hk : k < 32) :
    (getReg (setBit s off i) off).getLsbD k = (k == i || (getReg s off).getLsbD k) := by
  rw [setBit, setF, getReg_setReg_same, setFld_bit_one, BitVec.getLsbD_or, BitVec.getLsbD_twoPow, Bool.or_comm]
  by_cases hik : i = k
  · simp [hik, hk]
  · simp [hik, Ne.symm hik]

/-! ### Updates of hub registers only -/

theorem onlyRegs_refl (s : State) (offs : List Nat) : OnlyRegs s s offs := ⟨rfl, fun _ _ => rfl⟩

/-- A further update of one of the registers named leaves that only those changed. -/
theorem onlyRegs_setReg {s t : State} {offs : List Nat} {off : Nat} (v : W32) (hmem : off ∈ offs) (h : OnlyRegs s t offs) :
    OnlyRegs s (setReg t off v) offs := by
  obtain ⟨hfields, hother⟩ := h
  refine ⟨by rw [hfields]; rfl, fun o ho => ?_⟩
  have hne : o ≠ off := fun heq => ho (heq ▸ hmem)
  rw [getReg_setReg_other t v hne, hother o ho]

/-! ### The record of an unmapped access (R434) -/

/-- The hub registers that record an unmapped access. -/
def unmappedRegs : List Nat := [Reg.HUB_ERR_SUMMARY, Reg.HUB_UNMAPPED_INFO, Reg.HUB_UNMAPPED_ADDR]

/-- HUB_UNMAPPED_INFO after an unmapped access: function, port and direction; the Owl stands as the PF of H0. -/
def unmappedInfo (a : Acc) (write : Bool) : W32 :=
  match a with
  | .host p f => BitVec.ofNat 32 (f % 16 + 16 * (p % 2) + (if write then 32 else 0))
  | .owl => BitVec.ofNat 32 (if write then 32 else 0)

/-- The record of an unmapped access is three register updates. -/
theorem noteUnmapped_eq (s : State) (a : Acc) (write : Bool) (off : Nat) :
    noteUnmapped s a write off =
      setReg (setReg (setBit s Reg.HUB_ERR_SUMMARY 17) Reg.HUB_UNMAPPED_INFO (unmappedInfo a write))
        Reg.HUB_UNMAPPED_ADDR (BitVec.ofNat 32 (off % 2 ^ 26)) := by
  cases a with
  | host p f => rfl
  | owl => simp [noteUnmapped, unmappedInfo]

theorem getReg_noteUnmapped_addr (s : State) (a : Acc) (write : Bool) (off : Nat) :
    getReg (noteUnmapped s a write off) Reg.HUB_UNMAPPED_ADDR = BitVec.ofNat 32 (off % 2 ^ 26) := by
  rw [noteUnmapped_eq, getReg_setReg_same]

theorem getReg_noteUnmapped_info (s : State) (a : Acc) (write : Bool) (off : Nat) :
    getReg (noteUnmapped s a write off) Reg.HUB_UNMAPPED_INFO = unmappedInfo a write := by
  rw [noteUnmapped_eq, getReg_setReg_other _ _ (by decide), getReg_setReg_same]

theorem getReg_noteUnmapped_summary (s : State) (a : Acc) (write : Bool) (off : Nat) :
    getReg (noteUnmapped s a write off) Reg.HUB_ERR_SUMMARY =
      getReg (setBit s Reg.HUB_ERR_SUMMARY 17) Reg.HUB_ERR_SUMMARY := by
  rw [noteUnmapped_eq, getReg_setReg_other _ _ (by decide), getReg_setReg_other _ _ (by decide)]

/-- The record of an unmapped access changes its three registers and nothing else: no log entry is written. -/
theorem onlyRegs_noteUnmapped (s : State) (a : Acc) (write : Bool) (off : Nat) :
    OnlyRegs s (noteUnmapped s a write off) unmappedRegs := by
  rw [noteUnmapped_eq]
  have hsummary : OnlyRegs s (setBit s Reg.HUB_ERR_SUMMARY 17) unmappedRegs :=
    onlyRegs_setReg _ (by simp [unmappedRegs]) (onlyRegs_refl s _)
  have hinfo := onlyRegs_setReg (unmappedInfo a write) (off := Reg.HUB_UNMAPPED_INFO) (by simp [unmappedRegs]) hsummary
  exact onlyRegs_setReg _ (by simp [unmappedRegs]) hinfo

theorem toNat_unmappedInfo_host {p f : Nat} (write : Bool) (hp : p < 2) (hf : f < 16) :
    (unmappedInfo (.host p f) write).toNat = f + 16 * p + (if write then 32 else 0) := by
  have hdir : (if write then 32 else 0) ≤ 32 := by cases write <;> decide
  rw [unmappedInfo, BitVec.toNat_ofNat, Nat.mod_eq_of_lt hf, Nat.mod_eq_of_lt hp, Nat.mod_eq_of_lt (by omega)]

theorem toNat_unmappedAddr {off : Nat} (h : off < 2 ^ 26) : (BitVec.ofNat 32 (off % 2 ^ 26)).toNat = off := by
  rw [BitVec.toNat_ofNat, Nat.mod_eq_of_lt h, Nat.mod_eq_of_lt (by omega)]

/-! ### The commands that meet no register they may access -/

/-- The accessor may make an access of this direction to the register at `off` (R350, R351). -/
def mayAccess (s : State) (a : Acc) (off : Nat) (write : Bool) : Bool := if write then mayWrite a off else mayRead s a off

/-- The bus as an access to it begins: a read that finds no register returns zero. -/
def busZero (s : State) (write : Bool) : State := if write then s else { s with busData := 0, busPoison := false }

@[simp] theorem getReg_busZero (s : State) (write : Bool) (off : Nat) : getReg (busZero s write) off = getReg s off := by
  cases write <;> rfl

/-- The dispatch of an unmapped access. -/
theorem exec_unmappedAccess (s : State) (a : Acc) (off : Nat) (write : Bool) :
    exec (.unmappedAccess a off write) s = execUnmappedAccess a off write s := rfl

/-- The dispatch of a read of the lower register of a pair. -/
theorem exec_pairLowRead (s : State) (a : Acc) (off : Nat) :
    exec (.pairLowRead a off) s = execPairLowRead a off s := rfl

section Refused
variable {s : State} {a : Acc} {off : Nat}

theorem unmappedAccess_of_refused {write : Bool} (hready : accReady s a = true)
    (h : implemented s off = false ∨ mayAccess s a off write = false) :
    exec (.unmappedAccess a off write) s = .next (noteUnmapped (busZero s write) a write off) := by
  have hno : (implemented s off && mayAccess s a off write) = false := Bool.and_eq_false_iff.mpr h
  rw [exec_unmappedAccess, execUnmappedAccess, hready, ← mayAccess, hno]
  rfl

theorem registerWrite_of_refused (hready : accReady s a = true)
    (h : implemented s off = false ∨ mayWrite a off = false) (v set : W32) (cond : Bool) :
    exec (.registerWrite a off v set cond) s = .next (noteUnmapped s a true off) := by
  have hno : (!implemented s off || !mayWrite a off) = true := by simpa using h
  rw [exec_registerWrite, regCmd, hready, hno]
  rfl

theorem pairLowRead_of_refused (hready : accReady s a = true)
    (h : implemented s off = false ∨ mayRead s a off = false) :
    exec (.pairLowRead a off) s = .next (noteUnmapped (busZero s false) a false off) := by
  have hno : (!implemented s off || !mayRead s a off) = true := by simpa using h
  rw [exec_pairLowRead, execPairLowRead, readCmd, hready, hno]
  rfl

end Refused

/-! ### The obligation -/

/-- Settles O25: each of the three commands answers `noteUnmapped`, whose three registers are read back one by one. -/
theorem unmappedAccesses : Obligations.UnmappedAccesses := by
  unfold Obligations.UnmappedAccesses
  intro s a off write hready hrefused noted
  have hnoted : noted (noteUnmapped (busZero s write) a write off) := by
    refine ⟨onlyRegs_noteUnmapped _ a write off, fun k hk => ?_, fun p f ha hp hf => ?_, fun hoff => ?_⟩
    · rw [getReg_noteUnmapped_summary, getLsbD_getReg_setBit_same _ _ _ hk, getReg_busZero]
    · rw [getReg_noteUnmapped_info, ha, toNat_unmappedInfo_host write hp hf]
    · rw [getReg_noteUnmapped_addr, toNat_unmappedAddr hoff]
  refine ⟨⟨_, unmappedAccess_of_refused hready hrefused, hnoted⟩, ?_, ?_⟩
  · rintro rfl v set cond
    exact ⟨_, registerWrite_of_refused hready hrefused v set cond, hnoted⟩
  · rintro rfl
    exact ⟨_, pairLowRead_of_refused hready hrefused, hnoted⟩

end Sys2Proof.Machine
end
